-- ==== Sys2Proof/Word.lean ====
section
/-! DEFINITION. The word types of the BL-7160 and their plainest arithmetic (R1, R2, R7). -/

namespace Sys2Proof

/-- A byte of memory. -/
abbrev Byte := BitVec 8

/-- The 64-bit scalar word of R14. -/
abbrev Word := BitVec 64

/-- A 32-bit vector lane (R14). -/
abbrev Lane := BitVec 32

end Sys2Proof
end

