-- ==== Sys2Proof/Syntax.lean ====
section
/-! DEFINITION. The syntax of the BL-7160: one constructor of `Instr` for every row of spec/opcode_table.json:
the 210 encoded instructions (R87 to R113) and the 111 events of units and of the outside world
(95_what_each_step_holds.md). An event has no encoding; it reaches the machine through State.agenda. -/

namespace Sys2Proof

/-- The two threads of a core (R14). -/
inductive ThreadId where
  | pri | aux
  deriving DecidableEq, Repr

/-- The two engine sequencers of a core (R14). -/
inductive SeqId where
  | matrix | copy
  deriving DecidableEq, Repr

/-- A source of format A (R92): kinds 01, 10 and 11. -/
inductive Src where
  | s (r : Fin 32) | k (i : Fin 32) | lit (n : BitVec 5)
  deriving DecidableEq, Repr

/-- A source of format V (R94): kinds 00, 01, 10 and 11. -/
inductive VSrc where
  | v (r : Fin 16) | s (r : Fin 16) | k (i : Fin 16) | lit (n : BitVec 4)
  deriving DecidableEq, Repr

/-- The lane types of major 0x20 (R102). -/
inductive IntTy where
  | i32 | n32
  deriving DecidableEq, Repr

/-- The lane types of majors 0x21 and 0x22 (R102). -/
inductive FltTy where
  | f32 | bf16 | f16
  deriving DecidableEq, Repr

/-- The lane types of VCMP, VRED and VSCAN (R102). -/
inductive CmpTy where
  | i32 | n32 | f32
  deriving DecidableEq, Repr

/-- The element types of VDOT4 (R187). -/
inductive DotTy where
  | i8 | n8
  deriving DecidableEq, Repr

/-- The ty field of the vector memory instructions (R101). -/
inductive MemTy where
  | raw | i32 | n32 | f32
  deriving DecidableEq, Repr

/-- The format codes of VCVT (R184). -/
inductive VFmt where
  | i32 | n32 | f32 | bf16 | f16 | i8 | n8 | lg6
  deriving DecidableEq, Repr

/-- The lane types of ACC.TOV and ACC.ADDV (R212). -/
inductive AccTy where
  | i32 | n32 | f32 | bf16 | f16
  deriving DecidableEq, Repr

/-- The conditions of B and BSPLIT (R96). -/
inductive Cond where
  | eq | ne | lt | ge | ltu | geu
  deriving DecidableEq, Repr

/-- The comparisons of VCMP (R181). -/
inductive VCond where
  | eq | ne | lt | le | gt | ge | un
  deriving DecidableEq, Repr

/-- The load sizes of majors 0x10 and 0x11 (R148). -/
inductive LdSize where
  | b | bu | h | hu | w | wu | d
  deriving DecidableEq, Repr

/-- The store sizes of majors 0x12 and 0x13 (R148). -/
inductive StSize where
  | b | h | w | d
  deriving DecidableEq, Repr

/-- The operations of AMO (R104); FENCE is an instruction of its own. -/
inductive AmoOp where
  | add | and | or | xor | min | max | minu | maxu | xchg | cas | fadd | inc
  deriving DecidableEq, Repr

/-- The order field of AMO and FENCE (R104). -/
inductive Order where
  | rlx | acq | rel | ar | sc
  deriving DecidableEq, Repr

/-- The scope field of AMO and FENCE (R104, R266). -/
inductive Scope where
  | core | clu | dev | sys
  deriving DecidableEq, Repr

/-- The M field of MMA and MMAS (R98). -/
inductive MSize where
  | m16 | m32 | m64
  deriving DecidableEq, Repr

/-- The element pair of MMA (R98). -/
inductive Pair where
  | i8 | n8 | i4 | n4 | lg6 | bf16 | f16 | f32
  deriving DecidableEq, Repr

/-- The mode of an accumulator cell (R72). -/
inductive AccMode where
  | int40 | q40 | fp40
  deriving DecidableEq, Repr

/-- The port of a tile access (R98, R193). -/
inductive Port where
  | row | col
  deriving DecidableEq, Repr

/-- The sequencers a FORK names (R103, R300). -/
inductive ForkSel where
  | matrix | copy | both
  deriving DecidableEq, Repr

/-- A packet of the router fabric (R327): payload, sequence tag, route number and VOID bit. -/
structure Packet where
  payload : BitVec 64
  tag     : BitVec 16
  route   : BitVec 8
  void    : Bool
  deriving DecidableEq, Repr

/-- Where a memory error strikes (R436, R439, R443). -/
inductive ErrorSite where
  | hbm (pa : Nat) | scratch (phys off : Nat) | slice (pa : Nat) | l1 (phys key : Nat) | tile (phys word : Nat)
  | acc (phys : Nat) (cells : List Nat) | coreSram (phys : Nat) | coreLogic (phys : Nat)
  deriving DecidableEq, Repr

/-- The agent that an outside access comes from: the host through the physical function or a virtual one, or a peer (R285, R433). -/
inductive Link where
  | host | virtual (f : Fin 1024) | peer (port : Fin 12)
  deriving DecidableEq, Repr

/-- The instructions and events of the machine, one constructor per row of the opcode table. -/
inductive Instr where
  -- INSTRUCTIONS OF A THREAD WITH OPERANDS
  -- majors 0x00 and 0x01 (R121): the w bit, the destination, the sources
  | add (w : Bool) (d : Fin 32) (a b : Src)
  | sub (w : Bool) (d : Fin 32) (a b : Src)
  | and (w : Bool) (d : Fin 32) (a b : Src)
  | or (w : Bool) (d : Fin 32) (a b : Src)
  | xor (w : Bool) (d : Fin 32) (a b : Src)
  | andn (w : Bool) (d : Fin 32) (a b : Src)
  | shl (w : Bool) (d : Fin 32) (a b : Src)
  | shr (w : Bool) (d : Fin 32) (a b : Src)
  | sar (w : Bool) (d : Fin 32) (a b : Src)
  | min (w : Bool) (d : Fin 32) (a b : Src)
  | max (w : Bool) (d : Fin 32) (a b : Src)
  | minu (w : Bool) (d : Fin 32) (a b : Src)
  | maxu (w : Bool) (d : Fin 32) (a b : Src)
  | slt (w : Bool) (d : Fin 32) (a b : Src)
  | sltu (w : Bool) (d : Fin 32) (a b : Src)
  | seq (w : Bool) (d : Fin 32) (a b : Src)
  -- major 0x02 (R122)
  | clz (w : Bool) (d : Fin 32) (a : Src)
  | ctz (w : Bool) (d : Fin 32) (a : Src)
  | popc (w : Bool) (d : Fin 32) (a : Src)
  | sext (w : Bool) (d : Fin 32) (a p : Src)
  | zext (w : Bool) (d : Fin 32) (a p : Src)
  | sel (w : Bool) (d : Fin 32) (a b : Src)
  | mov (d : Fin 32) (a : Src)
  -- major 0x03 (R123)
  | mul (w : Bool) (d : Fin 32) (a b : Src)
  | mulh (w : Bool) (d : Fin 32) (a b : Src)
  | mulhu (w : Bool) (d : Fin 32) (a b : Src)
  | div (w : Bool) (d : Fin 32) (a b : Src)
  | divu (w : Bool) (d : Fin 32) (a b : Src)
  | rem (w : Bool) (d : Fin 32) (a b : Src)
  | remu (w : Bool) (d : Fin 32) (a b : Src)
  -- majors 0x04, 0x05, 0x06 (R125 to R128)
  | li (d : Fin 32) (imm : BitVec 16)
  | lix (n : Fin 8) (imm : BitVec 16)
  | lxh (n : Fin 8) (imm : BitVec 16)
  | movxFromX (d : Fin 32) (n : Fin 8)
  | movxToX (n : Fin 8) (a : Src)
  | saddr (d : Fin 32) (a b : Src)
  | lea (d b : Fin 32) (off : BitVec 11) (scale : Fin 4)
  -- majors 0x08 to 0x0C (R129 to R136)
  | b (c : Cond) (s1 s2 : Fin 32) (hint : Bool) (off : BitVec 10)
  | loop (c : Fin 32) (off : BitVec 10)
  | bsplit (c : Cond) (s1 s2 : Fin 32) (hint : Bool) (off : BitVec 10)
  | j (off : BitVec 24)
  | jal (off : BitVec 24)
  | jr (d a : Fin 32)
  -- compact forms (R107, R108)
  | cMov (d s : Fin 16)
  | cAdd (d s : Fin 16)
  | cSub (d s : Fin 16)
  | cAnd (d s : Fin 16)
  | cAddi (d : Fin 16) (i : BitVec 7)
  | cLi (d : Fin 16) (i : BitVec 7)
  | cShli (d : Fin 16) (i : BitVec 7)
  | cShri (d : Fin 16) (i : BitVec 7)
  | cLdw (d b : Fin 16) (o : Fin 8)
  | cStw (d b : Fin 16) (o : Fin 8)
  | cBeqz (s : Fin 16) (off : BitVec 7)
  | cBnez (s : Fin 16) (off : BitVec 7)
  | cJ (off : BitVec 11)
  | cJr (s : Fin 16)
  -- majors 0x10 to 0x13 (R148)
  | ld (d b : Fin 32) (off : BitVec 11) (sz : LdSize)
  | ldIndexed (d b i : Fin 32) (sh : Fin 4) (sz : LdSize)
  | st (d b : Fin 32) (off : BitVec 11) (sz : StSize)
  | stIndexed (d b i : Fin 32) (sh : Fin 4) (sz : StSize)
  -- major 0x14 (R150 to R154)
  | ldr (d b : Fin 32) (off : BitVec 11)
  | stp (d b : Fin 32) (off : BitVec 11)
  | pref (llc : Bool) (b : Fin 32) (off : BitVec 11)
  | kld (d b : Fin 32) (off : BitVec 11)
  -- major 0x15 (R156)
  | ldf (d b : Fin 32) (off : BitVec 11)
  | ldfe (d b : Fin 32) (off : BitVec 11)
  | stf (d b : Fin 32) (off : BitVec 11)
  | stef (d b : Fin 32) (off : BitVec 11)
  | tagset (b : Fin 32) (off : BitVec 11)
  | tagclr (b : Fin 32) (off : BitVec 11)
  | tagtst (d b : Fin 32) (off : BitVec 11)
  -- major 0x16 (R159 to R163)
  | vld (v : Fin 16) (ty : MemTy) (b : Fin 32) (off : BitVec 10)
  | vlds (v : Fin 16) (ty : MemTy) (b : Fin 32) (off : BitVec 10)
  | vldx (v : Fin 16) (ty : MemTy) (b : Fin 32) (x : Fin 16)
  | vldb (v : Fin 16) (ty : MemTy) (b : Fin 32) (off : BitVec 10)
  | vst (v : Fin 16) (ty : MemTy) (b : Fin 32) (off : BitVec 10)
  | vsts (v : Fin 16) (ty : MemTy) (b : Fin 32) (off : BitVec 10)
  | vstx (v : Fin 16) (ty : MemTy) (b : Fin 32) (x : Fin 16)
  | vstxAdd (v : Fin 16) (ty : MemTy) (b : Fin 32) (x : Fin 16)
  -- majors 0x18 and 0x19 (R164 to R167)
  | amoW (d b v : Fin 32) (op : AmoOp) (o : Order) (sc : Scope)
  | amoD (d b v : Fin 32) (op : AmoOp) (o : Order) (sc : Scope)
  | fence (o : Order) (sc : Scope)
  -- majors 0x20 to 0x28 (R176 to R190); the last argument is the delay mark
  | vaddI (v : Fin 16) (a b : VSrc) (t : IntTy) (dl : Fin 8)
  | vsubI (v : Fin 16) (a b : VSrc) (t : IntTy) (dl : Fin 8)
  | vmulI (v : Fin 16) (a b : VSrc) (t : IntTy) (dl : Fin 8)
  | vminI (v : Fin 16) (a b : VSrc) (t : IntTy) (dl : Fin 8)
  | vmaxI (v : Fin 16) (a b : VSrc) (t : IntTy) (dl : Fin 8)
  | vabsI (v : Fin 16) (a : VSrc) (dl : Fin 8)
  | vnegI (v : Fin 16) (a : VSrc) (dl : Fin 8)
  | vclampI (v : Fin 16) (a b : VSrc) (t : IntTy) (dl : Fin 8)
  | vaddF (v : Fin 16) (a b : VSrc) (t : FltTy) (dl : Fin 8)
  | vsubF (v : Fin 16) (a b : VSrc) (t : FltTy) (dl : Fin 8)
  | vmulF (v : Fin 16) (a b : VSrc) (t : FltTy) (dl : Fin 8)
  | vfma (v : Fin 16) (a b : VSrc) (t : FltTy) (dl : Fin 8)
  | vfms (v : Fin 16) (a b : VSrc) (t : FltTy) (dl : Fin 8)
  | vfnma (v : Fin 16) (a b : VSrc) (t : FltTy) (dl : Fin 8)
  | vminF (v : Fin 16) (a b : VSrc) (t : FltTy) (dl : Fin 8)
  | vmaxF (v : Fin 16) (a b : VSrc) (t : FltTy) (dl : Fin 8)
  | vabsF (v : Fin 16) (a : VSrc) (t : FltTy) (dl : Fin 8)
  | vnegF (v : Fin 16) (a : VSrc) (t : FltTy) (dl : Fin 8)
  | vclampF (v : Fin 16) (a b : VSrc) (t : FltTy) (dl : Fin 8)
  | vrcp (v : Fin 16) (a : VSrc) (t : FltTy) (dl : Fin 8)
  | vrsq (v : Fin 16) (a : VSrc) (t : FltTy) (dl : Fin 8)
  | vexp2 (v : Fin 16) (a : VSrc) (t : FltTy) (dl : Fin 8)
  | vlog2 (v : Fin 16) (a : VSrc) (t : FltTy) (dl : Fin 8)
  | vand (v : Fin 16) (a b : VSrc) (dl : Fin 8)
  | vor (v : Fin 16) (a b : VSrc) (dl : Fin 8)
  | vxor (v : Fin 16) (a b : VSrc) (dl : Fin 8)
  | vandn (v : Fin 16) (a b : VSrc) (dl : Fin 8)
  | vshl (v : Fin 16) (a b : VSrc) (dl : Fin 8)
  | vshr (v : Fin 16) (a b : VSrc) (dl : Fin 8)
  | vsar (v : Fin 16) (a b : VSrc) (dl : Fin 8)
  | vmov (v : Fin 16) (a : VSrc) (dl : Fin 8)
  | vcmp (m : Fin 8) (a b : VSrc) (c : VCond) (t : CmpTy) (dl : Fin 8)
  | vsel (v : Fin 16) (m : Fin 4) (a b : VSrc) (dl : Fin 8)
  | vperm (v : Fin 16) (a b : VSrc) (dl : Fin 8)
  | vbcast (v : Fin 16) (a b : VSrc) (dl : Fin 8)
  | vslide (v : Fin 16) (a b : VSrc) (dl : Fin 8)
  | viota (v : Fin 16) (a : VSrc) (dl : Fin 8)
  | vlut (v : Fin 16) (a : VSrc) (dl : Fin 8)
  | vext (d : Fin 16) (a b : VSrc) (dl : Fin 8)
  | vins (v : Fin 16) (a b : VSrc)
  | vredAdd (v : Fin 16) (a : VSrc) (t : CmpTy) (dl : Fin 8)
  | vredMin (v : Fin 16) (a : VSrc) (t : CmpTy) (dl : Fin 8)
  | vredMax (v : Fin 16) (a : VSrc) (t : CmpTy) (dl : Fin 8)
  | vscanAdd (v : Fin 16) (a : VSrc) (t : CmpTy) (dl : Fin 8)
  | vscanMin (v : Fin 16) (a : VSrc) (t : CmpTy) (dl : Fin 8)
  | vscanMax (v : Fin 16) (a : VSrc) (t : CmpTy) (dl : Fin 8)
  | vdot4 (v : Fin 16) (a b : VSrc) (t : DotTy) (dl : Fin 8)
  | vcvt (v : Fin 16) (a : VSrc) (src dst : VFmt) (dl : Fin 8)
  | mand (m a b : Fin 8) (dl : Fin 8)
  | mor (m a b : Fin 8) (dl : Fin 8)
  | mxor (m a b : Fin 8) (dl : Fin 8)
  | mnot (m a : Fin 8) (dl : Fin 8)
  | mpop (d : Fin 16) (a : Fin 8) (dl : Fin 8)
  | mfirst (d : Fin 16) (a : Fin 8) (dl : Fin 8)
  | mset (m : Fin 8) (a : VSrc) (dl : Fin 8)
  -- majors 0x29 to 0x2B (R222 to R227)
  | cx (n : Fin 64) (v : Fin 16) (a b : VSrc) (dl : Fin 8)
  | cxload (n : Fin 64) (a : Fin 32)
  | cxevict (n : Fin 64)
  | cxqry (d : Fin 32) (n : Fin 64)
  | cxldr (a : Fin 32)
  -- majors 0x2C to 0x2F (R207 to R212)
  | mma (m : MSize) (nf : Fin 64) (t : Fin 8) (b : Fin 32) (p : Pair) (col mc : Bool) (dl : Fin 8)
  | mmas (m : MSize) (nf : Fin 64) (t : Fin 8) (b : Fin 32) (col mc : Bool) (dl : Fin 8)
  | tld (p : Port) (t : Fin 8) (a b : Fin 32) (dl : Fin 8)
  | tst (p : Port) (t : Fin 8) (a b : Fin 32) (dl : Fin 8)
  | tmov (p : Port) (t u : Fin 8) (dl : Fin 8)
  | accZero (a b : Fin 32) (dl : Fin 8)
  | accLd (a b : Fin 32) (dl : Fin 8)
  | accSt (a b : Fin 32) (dl : Fin 8)
  | accTov (t : AccTy) (v : Fin 16) (a : Fin 32) (dl : Fin 8)
  | accAddv (t : AccTy) (a : Fin 32) (v : Fin 16) (dl : Fin 8)
  | accMode (dst : AccMode) (a b : Fin 32) (dl : Fin 8)
  | accRaw (d a : Fin 32) (dl : Fin 8)
  | accRawWr (a b : Fin 32) (dl : Fin 8)
  -- majors 0x30 and 0x31 (R290 to R311)
  | fork (q : ForkSel)
  | ttEnq (d a : Fin 32)
  | cpy (a b : Fin 32)
  | cpy2d (a b : Fin 32)
  | ccWait (i : Fin 16) (b : Fin 32)
  | ccRead (d : Fin 32) (i : Fin 16)
  | rlQry (d a : Fin 32)
  | subOpen (d a : Fin 32)
  | subClose (a : Fin 32)
  | slotTake (d a : Fin 32)
  | slotGive (a b : Fin 32)
  -- major 0x32 (R240, R259 to R261)
  | taskNext (d : Fin 32)
  | coverClaim (d a : Fin 32)
  | coverDone (a b : Fin 32)
  | coverYield (a b : Fin 32)
  | hrd (d : Fin 32) (i : Fin 16)
  | hwr (i : Fin 16) (a : Fin 32)
  | hcommit (d : Fin 32)
  -- major 0x33 (R334, R336, R359 to R361)
  | chSend (c : Fin 64) (a : Fin 32)
  | chRecv (d : Fin 32) (c : Fin 64)
  | chProbe (d : Fin 32) (c : Fin 64)
  | rsend (a b : Fin 32)
  | xwin (w : Fin 64) (a b : Fin 32)
  | qLaunch (d a b : Fin 32)
  -- majors 0x38 to 0x3A (R384, R389, R392, R397)
  | trap (n : Fin 64)
  | pwrHint (n : Fin 64)
  | jnlRd (d : Fin 32) (j : Fin 16)
  | jnlRetry (j : Fin 16)
  | jnlDrop (j : Fin 16)
  | tlbInv (a b : Fin 32)
  | tlbShoot (a b : Fin 32)
  | csrr (d : Fin 32) (c : BitVec 12)
  | csrw (d a : Fin 32) (c : BitVec 12)
  | csrset (d a : Fin 32) (c : BitVec 12)
  | csrclr (d a : Fin 32) (c : BitVec 12)
  -- EVENTS THAT THE MACHINE RAISES BY ITSELF
  -- events of the halyard (R24 to R52)
  | dispatch (t : ThreadId) (tag : BitVec 7)
  | completionInject (t : ThreadId) (tag : BitVec 7)
  | completionAccept (t : ThreadId) (tag : BitVec 7)
  | trapDelivery (t : ThreadId)
  | kill (t : ThreadId) (boundary : BitVec 7)
  | storePerformed (t : ThreadId)
  -- events of memory (R146, R152, R157, R263, R396)
  | tagWaiterWake (t : ThreadId)
  | pageWaitPark (t : ThreadId)
  | faultReply (t : ThreadId)
  | postedStoreAck (t : ThreadId) (j : Fin 16)
  | postedStoreRefusal (t : ThreadId) (j : Fin 16)
  -- events of the event unit (R318 to R323); a line is named by its cluster and number
  | eventLineService (line : Nat)
  | chainedArrival (parent child : Nat) (drop : Bool)
  | chainCompletionMessage (child : Nat)
  | eventOpReturn (t : ThreadId)
  -- events of the engines (R199 to R206, R293 to R306)
  | sequencerStep (q : SeqId)
  | rangeLockReissue (t : ThreadId)
  | taskRecordDispatch (r : Fin 64)
  -- events of the stream controllers (R309)
  | slotFillStart (e : Fin 8) (k : Fin 64)
  | slotFilled (e : Fin 8) (k : Fin 64)
  | slotWriteoutDone (e : Fin 8) (k : Fin 64)
  -- events of the launch (R243, R253)
  | exchangeTransferBegin (i : Nat)
  -- events of the fabric (R329 to R333)
  | routerPacket (x y : Fin 32) (port : Fin 5) (p : Packet)
  | channelDelivery (c : Fin 64) (payload : BitVec 64)
  -- events of contexts and shoot-downs (R378 to R398)
  | shootdownBlocked (i : Fin 4)
  | shootdownConfirmed (i : Fin 4)
  | stopPoint (t : ThreadId)
  -- events of queues and launches (R350 to R368)
  | queueLaunchPacket (c : Fin 4096) (q : Fin 64)
  | queueLoadPacket (c : Fin 4096) (q : Fin 64)
  | queueUnloadPacket (c : Fin 4096) (q : Fin 64)
  | queueWaitPacket (c : Fin 4096) (q : Fin 64)
  | waitPacketEnd (c : Fin 4096) (q : Fin 64)
  | queueFillPacket (c : Fin 4096) (q : Fin 64)
  | queueBarrierPacket (c : Fin 4096) (q : Fin 64)
  | launchStart (id : Nat)
  | launchEnd (id : Nat)
  -- events of the links (R284 to R286, R349)
  | linkAck (t : ThreadId)
  -- events of pre-emption (R387, R388, R415)
  | class0PreemptRequest (c : Fin 4096)
  | threadStop (t : ThreadId)
  | saveComplete (c : Fin 4096)
  -- power (R407 to R421)
  | clockRestart (cluster : Fin 256)
  | railChange (cluster : Fin 256) (high : Bool)
  | rampMicrosecond (cluster : Fin 256)
  -- INSTRUCTIONS WITHOUT OPERANDS, AND THE EVENT ALIASES
  -- majors 0x08 to 0x0C (R129 to R136)
  | join
  | nop
  | exit
  -- compact forms (R107, R108)
  | cNop
  -- majors 0x30 and 0x31 (R290 to R311)
  | rdv
  -- major 0x32 (R240, R259 to R261)
  | sstep
  -- major 0x33 (R334, R336, R359 to R361)
  | hintSucc
  | waitpred
  -- majors 0x38 to 0x3A (R384, R389, R392, R397)
  | tret
  | yield
  -- event aliases of LD.D and ST.D (R113, R315, R326)
  | evArrive (d b : Fin 32) (off : BitVec 11)
  | evDrop (d b : Fin 32) (off : BitVec 11)
  | evWait (d b : Fin 32) (off : BitVec 11)
  | evSync (d b : Fin 32) (off : BitVec 11)
  | evLock (d b : Fin 32) (off : BitVec 11)
  | evUnlock (b : Fin 32) (off : BitVec 11)
  | evSignal (b : Fin 32) (off : BitVec 11)
  | evClear (b : Fin 32) (off : BitVec 11)
  | evInit (d b : Fin 32) (off : BitVec 11)
  -- EVENTS FROM OUTSIDE
  -- events of the halyard (R24 to R52)
  | issue
  | commit
  | outcomeRecordArrival (taken redirect : Bool)
  | performMarkArrival
  | parityError
  | instructionFetch (t : ThreadId)
  -- events of memory (R146, R152, R157, R263, R396)
  | l1Eviction (line : Nat)
  -- events of the engines (R199 to R206, R293 to R306)
  | matrixCommandStart
  | matrixCommandComplete
  | copyCommandStart
  | copyCommandComplete
  | datapathErrorReplay (r : Fin 64)
  -- events of the launch (R243, R253)
  | taskRequestReserve
  | barrierTreeComplete
  | exchangeStepEnd
  -- events of contexts and shoot-downs (R378 to R398)
  | coreWakeTlbFlush
  | handlerEntry
  | handlerFault (cause : Fin 32)
  -- events of the links (R284 to R286, R349)
  | linkTaggedWrite (pa : Nat) (data : BitVec 64)
  | linkAccess (from_ : Link) (write : Bool) (pa : Nat) (data : List Byte)
  | peerAmo (op : AmoOp) (wide : Bool) (pa : Nat) (v cmp : BitVec 64)
  -- events of pre-emption (R387, R388, R415)
  | saveWatchdogExpiry (c : Fin 4096)
  -- management commands (R375, R424): arguments stand in MG.ARG0 to MG.ARG3
  | attach
  | run
  | preempt
  | resume
  | detach
  | warm
  | cold
  | updOpen
  | updWrite
  | updActivate
  | svnCommit
  | logRead
  | repairList
  | measExtend
  -- register writes of the management window (R418, R423)
  | mgCtxbaseWrite (v : BitVec 64)
  | rsvLendWrite (lend : Bool) (k : Fin 4) (v : BitVec 64)
  | shareWrite (v : BitVec 64)
  | rampWrite (v : BitVec 64)
  | acctClr (v : BitVec 64)
  | registerWrite (off : Nat) (v : BitVec 64)
  -- SPDM requests (R428)
  | getVersion
  | getCapabilities
  | negotiateAlgorithms (sha3 mldsa : Bool)
  | getCertificate (slot off len : Nat)
  | challenge (nonce : List Byte)
  | getMeasurements (index : Nat)
  | chunkGet (n : Nat)
  -- starts (R431 to R435)
  | powerOn
  | kararlinkHotReset
  | startStepComplete
  | startStepTimeout
  | standbyPowerLoss
  -- errors (R436 to R443)
  | correctedError (site : ErrorSite)
  | uncorrectableError (site : ErrorSite)
  | codeLineError (line : Nat)
  | patrolScrub (pa : Nat)
  -- power (R407 to R421)
  | droopDetect (cluster : Fin 256)
  | droopPass (cluster : Fin 256)
  | energyAttribution (cluster : List (Nat × Nat)) (shared : Nat) (traffic : List (Nat × Nat))
  | leaseReceipt (seq : BitVec 32) (watts ms : Nat)
  | leaseExpiry
  | powerCapControl (above : Bool)
  | stackDerateEnter (s : Fin 8)
  | stackDerateExit (s : Fin 8)
  -- links (R243, R431)
  | linkLevelRetry
  | linkDown (kararlink : Bool) (link : Nat)
  deriving DecidableEq, Repr

end Sys2Proof
end

