-- ==== Sys2Proof/Config.lean ====
section
/-! DEFINITION. What the device fixes for all programs and what the spec leaves open. An opaque constant has no
body: no proof can learn a value of it (the free values, log 7). -/

namespace Sys2Proof.Config

/-- The control register numbers that the device implements (R58, R59, R79, R84, R85, R142, R228, R231, R238, R247,
R374, R382, R399, R410). Every other number is illegal at decode (R110, R392). -/
def csrNumbers : List Nat :=
  [0x0A0, 0x0A8, 0x0A9, 0x0AA, 0x0AB, 0x0AC, 0x0AD, 0x0B0, 0x0B1, 0x0B4,
   0x0C0, 0x0C1, 0x0C2, 0x0C3, 0x0C4, 0x0C5, 0x0C6, 0x0C7, 0x0D0, 0x0D1, 0x0D2, 0x0E0, 0x0E2, 0x0E3] ++
  [0x100, 0x101, 0x102, 0x103, 0x104, 0x105, 0x106, 0x107, 0x108, 0x109, 0x10A, 0x110, 0x120, 0x121, 0x122, 0x820]

/-- A control register number names an implemented register (R110). -/
def csrImplemented (c : BitVec 12) : Bool := csrNumbers.contains c.toNat

/-- A free value of the machine (log 7): nothing constrains it. -/
opaque freeValue : Nat → Word

/-- The fuse security-version counter as the device leaves manufacture, 0 to 128 (R422): a free value. -/
opaque fuseSvn : Fin 129

/-- The silicon stepping that the fuses hold (R422): a free value. -/
opaque stepping : BitVec 16

/-- The reading of a sensor register by its offset, one for each time it is read (R422): a free value. -/
opaque sensor : Nat → Nat → Word

/-- The floor budget in watts, read from flash (R412): a free value. -/
opaque floorWatts : BitVec 16

/-- The kinds of log record (R381, R413, R417, R425). -/
inductive LogKind where
  | startStep | failedStart | machineCheck | deferredCode | poisonConsumed | coreRetired | rowSpared | pageRetired
  | derate | lease | activation | svnCommit | measure4 | trapMessage
  deriving DecidableEq, Repr

/-- The KIND code that a record of each kind holds (R425): the spec gives none. -/
opaque logKind : LogKind → BitVec 16

/-- ML-DSA-44 verification (R364, R429) under the key in a key slot: of a digest and a signature. -/
opaque verifies : Nat → BitVec 256 → List Byte → Bool
/-- A cached translation, which is the controller's own, by its source's digest (R371). -/
opaque translation : BitVec 256 → List Byte
/-- The device's signature of a cached translation, by its source's digest (R371). -/
opaque signTranslation : BitVec 256 → List Byte

/-! ## Firmware images and flash (R425, R426, R429): their formats are the MC's own -/

/-- The contents of a bank or of the golden region: an image's bytes by offset. -/
abbrev ImageBytes : Type := List (Nat × Byte)

/-- The security version of an image whose header is well formed. -/
opaque imageSvn : ImageBytes → Option Nat
/-- The firmware version of an image (R422). -/
opaque firmwareVersion : ImageBytes → BitVec 16
/-- The bytes of the image, as it is measured. -/
opaque imageText : ImageBytes → List Byte
/-- The image's signature over its digest verifies under the key that the fuses name. -/
opaque imageSigned : ImageBytes → Bool
/-- The golden MC and device firmware images, written at manufacture. -/
opaque golden : Fin 2 → ImageBytes
/-- The fuse values as measured, for a security-version counter. -/
opaque fuseBytes : Nat → List Byte
/-- The configuration region. -/
opaque configRegion : List Byte
/-- The eight bytes of slot 4 (R426, R435): for KIND, the banks booted, none where a golden image is, and whether a golden image's
SVN is below FSVN. -/
opaque bootRecord : Nat → Option (Fin 2) → Option (Fin 2) → Bool → Vector Byte 8
/-- The spare map and the repair lists as measured: rows spared, cores fenced, pages retired. -/
opaque repairBytes : List Nat → List Nat → List Nat → List Byte

/-! ## Memory repair (R443) -/

/-- The HBM row that holds a physical address. -/
opaque hbmRow : Nat → Nat
/-- The bank of a row has a spare row left. -/
opaque rowSpareLeft : Nat → Bool

/-! ## Attestation (R428) -/

/-- The device identity chain. -/
opaque certChain : List Byte
/-- A signature by the leaf key, whose transcript SPDM fixes. -/
opaque spdmSign : List Byte → List Byte

end Sys2Proof.Config
end

