-- ==== Sys2Proof/Machine/Flags.lean ====
section
/-! DEFINITION. Number formats and arithmetic of chapter 03: exact values, the rounding of each destination format
and every flag computation of R63, R64, R68, R84. A value is exact (a signed dyadic number, an infinity, a NaN or LG6
poison); it is rounded once, where it is encoded. -/

namespace Sys2Proof.Machine

/-- An exact value: (-1)^neg × m × 2^e, an infinity, a NaN (signalling or quiet) or LG6 poison. -/
inductive Exact where
  | fin (neg : Bool) (m : Nat) (e : Int)
  | inf (neg : Bool)
  | nan (signalling : Bool)
  | poison
  deriving DecidableEq, Repr

/-- The flag bits of FP.FLAGS (R84). -/
abbrev Fl := BitVec 64
def Fl.none : Fl := 0
def Fl.nx : Fl := 1
def Fl.uf : Fl := 2
def Fl.of : Fl := 4
def Fl.dz : Fl := 8
def Fl.nv : Fl := 16
def Fl.sv : Fl := 32
def Fl.lp : Fl := 64

/-- `f` if the condition holds, no flag otherwise. -/
def Fl.when (c : Bool) (f : Fl) : Fl := if c then f else 0

namespace Exact

def zero : Exact := .fin false 0 0
def qnan : Exact := .nan false

/-- An integer as an exact value. -/
def ofInt (i : Int) : Exact := .fin (decide (i < 0)) i.natAbs 0

/-- n × 2^e as an exact value. -/
def ofFixed (n : Int) (e : Int) : Exact := .fin (decide (n < 0)) n.natAbs e

def negate : Exact → Exact
  | .fin s m e => .fin (!s) m e
  | .inf s => .inf (!s)
  | x => x

/-- The value times 2^k; special values are unchanged (R80). -/
def scale (k : Int) : Exact → Exact
  | .fin s m e => .fin s m (e + k)
  | x => x

def isNan : Exact → Bool
  | .nan _ => true
  | _ => false

def isSnan : Exact → Bool
  | .nan s => s
  | _ => false

def isZero : Exact → Bool
  | .fin _ m _ => m = 0
  | _ => false

def isNeg : Exact → Bool
  | .fin s _ _ => s
  | .inf s => s
  | _ => false

/-- The signed count of 2^e0 in a finite value whose exponent is at least e0. -/
def fixed (s : Bool) (m : Nat) (e e0 : Int) : Int :=
  let v : Int := ((m * 2 ^ (e - e0).toNat : Nat) : Int)
  if s then -v else v

/-- The flag of a signalling NaN operand (R63). -/
def snanFlag (a b : Exact) : Fl := Fl.when (a.isSnan || b.isSnan) Fl.nv

/-- Exact sum, with the special values and zero signs of R64. -/
def add (a b : Exact) : Exact × Fl :=
  if a.isNan || b.isNan then (qnan, snanFlag a b) else
  match a, b with
  | .poison, _ => (.poison, 0)
  | _, .poison => (.poison, 0)
  | .inf s, .inf t => if s = t then (.inf s, 0) else (qnan, Fl.nv)
  | .inf s, _ => (.inf s, 0)
  | _, .inf t => (.inf t, 0)
  | .fin s m e, .fin t n f =>
    let e0 := min e f
    let v := fixed s m e e0 + fixed t n f e0
    if v = 0 then (.fin (m = 0 && n = 0 && s && t) 0 0, 0) else (ofFixed v e0, 0)
  | _, _ => (qnan, 0)

/-- Exact product; 0 × ∞ is invalid (R64). -/
def mul (a b : Exact) : Exact × Fl :=
  if a.isNan || b.isNan then (qnan, snanFlag a b) else
  match a, b with
  | .poison, _ => (.poison, 0)
  | _, .poison => (.poison, 0)
  | .inf s, .inf t => (.inf (s != t), 0)
  | .inf s, .fin t n _ => if n = 0 then (qnan, Fl.nv) else (.inf (s != t), 0)
  | .fin s m _, .inf t => if m = 0 then (qnan, Fl.nv) else (.inf (s != t), 0)
  | .fin s m e, .fin t n f => (.fin (s != t) (m * n) (e + f), 0)
  | _, _ => (qnan, 0)

/-- 0 × ∞ in either order. -/
def zeroTimesInf : Exact → Exact → Bool
  | .inf _, .fin _ n _ => n = 0
  | .fin _ m _, .inf _ => m = 0
  | _, _ => false

/-- a × b + c, exact; 0 × ∞ gives the NaN and NV even when c is a quiet NaN (R178). -/
def fma (a b c : Exact) : Exact × Fl :=
  let sig := Fl.when (a.isSnan || b.isSnan || c.isSnan) Fl.nv
  if zeroTimesInf a b then (qnan, Fl.nv)
  else if a.isNan || b.isNan || c.isNan then (qnan, sig)
  else
    let p := mul a b
    let r := add p.1 c
    (r.1, p.2 ||| r.2 ||| sig)

/-- Comparison of two values that are not NaN: less, equal or greater, −0 equal to +0 (R181). -/
def cmp (a b : Exact) : Option Ordering :=
  match a, b with
  | .fin s m e, .fin t n f =>
    let e0 := min e f
    let x := fixed s m e e0
    let y := fixed t n f e0
    some (if x < y then .lt else if x = y then .eq else .gt)
  | .inf s, .inf t => some (if s = t then .eq else if s then .lt else .gt)
  | .inf s, .fin _ _ _ => some (if s then .lt else .gt)
  | .fin _ _ _, .inf t => some (if t then .gt else .lt)
  | _, _ => none

/-- FMin of R179. -/
def fmin (a b : Exact) : Exact × Fl :=
  if a.isNan || b.isNan then (qnan, snanFlag a b)
  else if a.isZero && b.isZero then (.fin (a.isNeg || b.isNeg) 0 0, 0)
  else if cmp a b = some .gt then (b, 0) else (a, 0)

/-- FMax of R179. -/
def fmax (a b : Exact) : Exact × Fl :=
  if a.isNan || b.isNan then (qnan, snanFlag a b)
  else if a.isZero && b.isZero then (.fin (a.isNeg && b.isNeg) 0 0, 0)
  else if cmp a b = some .lt then (b, 0) else (a, 0)

end Exact

/-! ## Rounding (R68, R69) -/

/-- m × 2^e rounded to a multiple of 2^q: RoundNearestEven, or RoundNearestAway; with the exactness of the result. -/
def roundTo (away : Bool) (m : Nat) (e q : Int) : Nat × Bool :=
  if q ≤ e then (m * 2 ^ (e - q).toNat, true)
  else
    let d := (q - e).toNat
    let n := m / 2 ^ d
    let r := m % 2 ^ d
    let h := 2 ^ (d - 1)
    if r = 0 then (n, true)
    else if h < r || (r = h && (away || n % 2 = 1)) then (n + 1, false) else (n, false)

/-- A binary floating format by its exponent and fraction widths (R62, R73). -/
structure FFmt where
  ebits : Nat
  fbits : Nat
  deriving DecidableEq, Repr

def FFmt.f32 : FFmt := ⟨8, 23⟩
def FFmt.bf16 : FFmt := ⟨8, 7⟩
def FFmt.f16 : FFmt := ⟨5, 10⟩
def FFmt.fp40 : FFmt := ⟨8, 31⟩

def FFmt.bias (f : FFmt) : Int := 2 ^ (f.ebits - 1) - 1
/-- The exponent field of infinities and NaNs. -/
def FFmt.emax (f : FFmt) : Nat := 2 ^ f.ebits - 1
/-- The bits of +infinity. -/
def FFmt.infBits (f : FFmt) : Nat := f.emax * 2 ^ f.fbits
/-- The canonical quiet NaN (R62, R63). -/
def FFmt.nanBits (f : FFmt) : Nat := f.infBits + 2 ^ (f.fbits - 1)
def FFmt.signBit (f : FFmt) (s : Bool) : Nat := if s then 2 ^ (f.ebits + f.fbits) else 0

/-- The exact value of a pattern (R62, R73). -/
def FFmt.decode (f : FFmt) (b : Nat) : Exact :=
  let s := decide (b / 2 ^ (f.ebits + f.fbits) % 2 = 1)
  let x := b / 2 ^ f.fbits % 2 ^ f.ebits
  let r := b % 2 ^ f.fbits
  if x = f.emax then
    if r = 0 then .inf s else .nan (r / 2 ^ (f.fbits - 1) = 0)
  else if x = 0 then .fin s r (1 - f.bias - f.fbits)
  else .fin s (r + 2 ^ f.fbits) (x - f.bias - f.fbits)

/-- A value is below the smallest normal number even after rounding with an unbounded exponent (R84 UF). -/
def FFmt.tiny (f : FFmt) (m : Nat) (e : Int) : Bool :=
  let k := e + Nat.log2 m
  let emin := 1 - f.bias
  decide (k < emin) &&
    !(decide (k = emin - 1) && decide (2 ^ (f.fbits + 1) ≤ (roundTo false m e (k - f.fbits)).1))

/-- RoundNearestEven into a binary format: the bits, and the flags NX, UF and OF (R64, R68, R84). -/
def FFmt.encode (f : FFmt) : Exact → Nat × Fl
  | .nan s => (f.nanBits, Fl.when s Fl.nv)
  | .poison => (f.nanBits, Fl.lp)
  | .inf s => (f.signBit s + f.infBits, 0)
  | .fin s m e =>
    if m = 0 then (f.signBit s, 0) else
    let emin := 1 - f.bias
    let k := max (e + Nat.log2 m) emin
    let r := roundTo false m e (k - f.fbits)
    let bits := (k - emin).toNat * 2 ^ f.fbits + r.1
    if f.infBits ≤ bits then (f.signBit s + f.infBits, Fl.of ||| Fl.nx)
    else (f.signBit s + bits, if r.2 then 0 else Fl.nx ||| Fl.when (f.tiny m e) Fl.uf)

/-- A signed or natural integer format of w bits: RoundNearestAway for 8 bits and less, and saturation by R68 where the rounded integer is
out of range (log 127). -/
def encodeInt (signed : Bool) (w : Nat) : Exact → Int × Fl
  | .nan _ => (0, Fl.nv)
  | .poison => (0, Fl.nv ||| Fl.lp)
  | .inf s =>
    (if signed then (if s then -2 ^ (w - 1) else 2 ^ (w - 1) - 1) else (if s then 0 else 2 ^ w - 1), Fl.sv ||| Fl.nx)
  | .fin s m e =>
    let r := roundTo (decide (w ≤ 8)) m e 0
    let v : Int := if s then -(r.1 : Int) else r.1
    let lo : Int := if signed then -2 ^ (w - 1) else 0
    let hi : Int := if signed then 2 ^ (w - 1) - 1 else 2 ^ w - 1
    let c := min (max v lo) hi
    (c, if c = v then Fl.when (!r.2) Fl.nx else Fl.sv ||| Fl.nx)

/-! ## LG6 (R65 to R71) -/

/-- The product-to-linear table T of R66, with 16 fractional bits. -/
def lg6T (f : Nat) : Nat :=
  match f with
  | 0 => 0x10000
  | 1 => 0x13070
  | 2 => 0x16A0A
  | _ => 0x1AE8A

/-- The exponent field of a code, in quarter steps (R65). -/
def lg6Exp (c : Nat) : Int := if c % 32 < 16 then (c % 32 : Nat) else ((c % 32 : Nat) : Int) - 32

/-- LG6Linear of R66. -/
def lg6Linear (c : Nat) : Exact :=
  let s := decide (c / 32 % 2 = 1)
  let e := lg6Exp c
  if e = -16 then (if s then .poison else Exact.zero)
  else .fin s (lg6T (e % 4).toNat) (e / 4 - 16)

/-- The number of thresholds 2^(1/8), 2^(3/8), 2^(5/8), 2^(7/8) that the significand m / 2^(log2 m) exceeds (R70). -/
def lg6Steps (m : Nat) : Nat :=
  let b := 8 * Nat.log2 m
  ([1, 3, 5, 7].filter fun t => decide (2 ^ (t + b) < m ^ 8)).length

/-- ToLG6 of R70 with the flags of R68. -/
def lg6Encode (x : Exact) : Nat × Fl :=
  match x with
  | .nan s => (0x30, Fl.lp ||| Fl.when s Fl.nv)
  | .poison => (0x30, 0)
  | .inf s => ((if s then 32 else 0) + 15, Fl.sv ||| Fl.nx)
  | .fin s m e =>
    if m = 0 then (0x10, 0) else
    let q := 4 * (e + Nat.log2 m) + lg6Steps m
    if q < -15 then (0x10, Fl.nx) else
    let c := (if s then 32 else 0) + (min q 15 % 32).toNat
    (c, Fl.when (decide (15 < q)) Fl.sv ||| Fl.when (Exact.cmp (lg6Linear c) x ≠ some .eq) Fl.nx)

/-- The linear product of two codes, in units of 2^-24 (R74); none for poison. -/
def lg6Prod (a b : Nat) : Option Int :=
  match lg6Linear a, lg6Linear b with
  | .poison, _ => none
  | _, .poison => none
  | x, y =>
    if x.isZero || y.isZero then some 0 else
    let e := lg6Exp a + lg6Exp b
    let v : Int := ((lg6T (e % 4).toNat * 2 ^ (e / 4 + 8).toNat : Nat) : Int)
    some (if x.isNeg != y.isNeg then -v else v)

/-! ## Elements by format code -/

/-- The element formats a bank, a conversion or a matrix operand can have (R60, R62, R65, R79). -/
inductive Fmt where
  | raw | i8 | n8 | i4 | n4 | lg6 | bf16 | f16 | f32 | i32 | n32
  deriving DecidableEq, Repr

/-- The exact value of an element's bits. -/
def Fmt.decode (f : Fmt) (b : Nat) : Exact :=
  match f with
  | .raw => Exact.ofInt ((b % 256 : Nat) : Int)
  | .i8 => Exact.ofInt (BitVec.ofNat 8 b).toInt
  | .n8 => Exact.ofInt ((b % 256 : Nat) : Int)
  | .i4 => Exact.ofInt (BitVec.ofNat 4 b).toInt
  | .n4 => Exact.ofInt ((b % 16 : Nat) : Int)
  | .lg6 => lg6Linear (b % 64)
  | .bf16 => FFmt.bf16.decode (b % 65536)
  | .f16 => FFmt.f16.decode (b % 65536)
  | .f32 => FFmt.f32.decode (b % 4294967296)
  | .i32 => Exact.ofInt (BitVec.ofNat 32 b).toInt
  | .n32 => Exact.ofInt ((b % 4294967296 : Nat) : Int)

/-- An integer as the bits of a two's-complement or natural field of w bits. -/
def intBits (w : Nat) (i : Int) : Nat := (BitVec.ofInt w i).toNat

/-- The bits of an exact value in a format, with the flags of the conversion (R68 to R71). -/
def Fmt.encode (f : Fmt) (x : Exact) : Nat × Fl :=
  let int (sg : Bool) (w : Nat) : Nat × Fl := ((intBits w (encodeInt sg w x).1), (encodeInt sg w x).2)
  match f with
  | .raw => int false 8
  | .i8 => int true 8
  | .n8 => int false 8
  | .i4 => int true 4
  | .n4 => int false 4
  | .lg6 => lg6Encode x
  | .bf16 => FFmt.bf16.encode x
  | .f16 => FFmt.f16.encode x
  | .f32 => FFmt.f32.encode x
  | .i32 => int true 32
  | .n32 => int false 32

/-! ## Transcendental functions (R180) -/

/-- The largest r with r² ≤ x below 2^n, by binary digits. -/
def sqrtBits (x : Nat) : Nat → Nat → Nat
  | 0, r => r
  | n + 1, r => sqrtBits x n (if (r + 2 ^ n) * (r + 2 ^ n) ≤ x then r + 2 ^ n else r)

/-- Floor of the square root. -/
def natSqrt (x : Nat) : Nat := sqrtBits x (Nat.log2 x / 2 + 1) 0

/-- A truncated value v × 2^e with a further bit that says whether anything was cut off, so that one rounding of it is
one rounding of the exact value. -/
def sticky (neg : Bool) (v : Nat) (e : Int) (exact : Bool) : Exact := .fin neg (2 * v + if exact then 0 else 1) (e - 1)

/-- 1 / (m × 2^e), for m ≠ 0. -/
def recipNum (neg : Bool) (m : Nat) (e : Int) : Exact :=
  let p := Nat.log2 m + 64
  sticky neg (2 ^ p / m) (-e - p) (2 ^ p % m = 0)

/-- 1 / √(m × 2^e), for m ≠ 0. -/
def rsqrtNum (m : Nat) (e : Int) : Exact :=
  let m' := if e % 2 = 0 then m else 2 * m
  let e' := if e % 2 = 0 then e else e - 1
  let p := Nat.log2 m' + 64
  let r := natSqrt (2 ^ (2 * p) / m')
  sticky false r (-(e' / 2) - p) (r * r * m' = 2 ^ (2 * p))

/-- The fixed-point precision of VEXP2 and VLOG2 (log 13). -/
def fixBits : Nat := 256

/-- ⌊ln 2 × 2^256⌋. -/
def ln2Fix : Nat := 80260960185991308862233904206310070533990667611589946606122867505419956976171

/-- The Taylor sum of e^x from term k on, in fixed point. -/
def expSeries (x : Nat) : Nat → Nat → Nat → Nat
  | 0, _, _ => 0
  | n + 1, k, t => t + expSeries x n (k + 1) (t * x / 2 ^ fixBits / (k + 1))

/-- 2^(s m 2^e), m ≠ 0: exact for an integer exponent, else a 256-bit value with a sticky bit. An exponent beyond
±4096 rounds in every format as ±4096 does. -/
def exp2Num (s : Bool) (m : Nat) (e : Int) : Exact :=
  if 0 ≤ e then
    let v := min (m * 2 ^ min e.toNat 20) 4096
    .fin false 1 (if s then -(v : Int) else v)
  else
    let d := (-e).toNat
    let v : Int := if s then -(m : Int) else m
    let i := min (max (v / 2 ^ d) (-4096)) 4096
    let f := (v % 2 ^ d).toNat
    if f = 0 then .fin false 1 i
    else
      let x := f * 2 ^ fixBits / 2 ^ d * ln2Fix / 2 ^ fixBits
      sticky false (expSeries x 70 0 (2 ^ fixBits)) (i - fixBits) false

/-- The odd terms z^(2k+1) / (2k+1) of the inverse hyperbolic tangent, in fixed point. -/
def atanhSeries (z2 : Nat) : Nat → Nat → Nat → Nat
  | 0, _, _ => 0
  | n + 1, k, t => t / (2 * k + 1) + atanhSeries z2 n (k + 1) (t * z2 / 2 ^ fixBits)

/-- log2 (m × 2^e), m ≠ 0: exact for a power of two. -/
def log2Num (m : Nat) (e : Int) : Exact :=
  let l := Nat.log2 m
  let k := e + l
  if m = 2 ^ l then Exact.ofInt k
  else
    let z := (m - 2 ^ l) * 2 ^ fixBits / (m + 2 ^ l)
    let ln := 2 * atanhSeries (z * z / 2 ^ fixBits) 90 0 z
    let t := k * 2 ^ fixBits + ((ln * 2 ^ fixBits / ln2Fix : Nat) : Int)
    sticky (decide (t < 0)) t.natAbs (-fixBits) false

/-- The four functions of R180, with their special inputs and the flags DZ and NV. -/
inductive Trans where
  | rcp | rsq | exp2 | log2
  deriving DecidableEq, Repr

def Trans.apply (f : Trans) (x : Exact) : Exact × Fl :=
  match f, x with
  | _, .nan s => (Exact.qnan, Fl.when s Fl.nv)
  | _, .poison => (Exact.qnan, 0)
  | .rcp, .inf s => (.fin s 0 0, 0)
  | .rsq, .inf s => if s then (Exact.qnan, Fl.nv) else (Exact.zero, 0)
  | .exp2, .inf s => if s then (Exact.zero, 0) else (.inf false, 0)
  | .log2, .inf s => if s then (Exact.qnan, Fl.nv) else (.inf false, 0)
  | .rcp, .fin s m e => if m = 0 then (.inf s, Fl.dz) else (recipNum s m e, 0)
  | .rsq, .fin s m e =>
    if m = 0 then (.inf s, Fl.dz) else if s then (Exact.qnan, Fl.nv) else (rsqrtNum m e, 0)
  | .exp2, .fin s m e => if m = 0 then (Exact.ofInt 1, 0) else (exp2Num s m e, 0)
  | .log2, .fin s m e =>
    if m = 0 then (.inf true, Fl.dz) else if s then (Exact.qnan, Fl.nv) else (log2Num m e, 0)

end Sys2Proof.Machine
end

