-- ==== Sys2Proof/Machine/State.lean ====
section
/-! DEFINITION. The machine's state: one core in full with its two threads, sequencers and engines, and the device
units around it. INVENTORY.md lists every field with the rule that names it. State is plain data. -/

namespace Sys2Proof.Machine

/-- Why the machine stops with no next state. -/
inductive Fault where
  /-- Raised by an access to a physical address at or beyond the 512 GiB of HBM (R16, log 132): no such location exists. Safe:
  the machine stops where the spec gives no location. -/
  | hbmBeyondEnd
  deriving DecidableEq, Repr

/-- Why the model has no meaning for an instruction. -/
inductive Refusal where
  /-- Raised by an arm of exec that has no meaning yet. Safe. -/
  | notModelled (mnemonic : String)
  deriving DecidableEq, Repr

/-! ## Threads -/

/-- A vector register: its newest value; for every delay-carrying writer that a reader's nominal start may still
precede, the nominal time its result is due and the value before it, newest first (R54); and the matrix command that
still owes it a value (R201), the newest one where no such writer is younger, else the oldest of those before them. -/
structure VReg where
  val : Vector Lane 64
  hist : List (Nat × Vector Lane 64)
  pend : Option Nat
  deriving DecidableEq, Repr

/-- A lane mask, as a vector register (R54). -/
structure MReg where
  val : BitVec 64
  hist : List (Nat × BitVec 64)
  deriving DecidableEq, Repr

/-- The states of a posted-store journal entry (R152). -/
inductive JState where
  | free | posted | refused
  deriving DecidableEq, Repr

/-- Whose code a thread runs: its own work, the loader (R229) or a handler (R380); `finished` marks what belonged to work whose
launch has ended since (R378). -/
inductive Mode where
  | work | loader | handler | finished
  deriving DecidableEq, Repr

/-- A posted-store journal entry (R152), with the mode in which its STP was performed: a refusal stops the code that posted
the store (R378). `port` is not 0 for a Posted store that waits at its port, behind a range lock (R294) or an older store to the same
core (R151): the entries that wait are numbered in program order. -/
structure JEntry where
  state : JState
  addr : Word
  data : Word
  tag : BitVec 7
  mode : Mode
  port : Nat
  deriving DecidableEq, Repr

/-- What a thread is doing (R136, R236, R378, R386). -/
inductive RunState where
  | noWork | running | ended | trapWait | missWait | lockWait | stopped
  deriving DecidableEq, Repr

/-- The wake record of a thread that waits at its commit head (R386); kind 0 when it does not wait, and kind 32 for a
wait that is not a blocking point, 33 for a wait behind a range lock (R295), or 34 for a COVER.CLAIM between two of its words, with how many it has taken and its mask
so far (R249). -/
structure Wake where
  kind : Nat
  done : Bool
  aux : BitVec 16
  addr : Word
  operand : Word
  deriving DecidableEq, Repr

def Wake.none : Wake := ⟨0, false, 0, 0, 0⟩

/-- A destination register that the pipe carries (R26). -/
inductive Dest where
  | s (r : Fin 32) | x (n : Fin 8)
  deriving DecidableEq, Repr

/-- A pipe-carried operand of an instruction packet (R25): its register, and either its value or the tag awaited. -/
structure Operand where
  reg : Dest
  value : Word
  await : Option (BitVec 7)
  deriving DecidableEq, Repr

/-- Where an entry of the commit window stands (R29, R35, R40): its packet in the main lane or in a siding's holding track,
its completion in the siding's output buffer or in the lane, or completed in the window. -/
inductive Stage where
  | lane | track | buffer | completion | window
  deriving DecidableEq, Repr

/-- A completion's contents (R38). -/
inductive Completion where
  | none | status | result (v : Word) | trap (cause : Nat) (addr info : Word)
  deriving DecidableEq, Repr

/-- What an instruction performed at the commit head leaves to its commit (R58, R84, R173): the vector registers and masks, the
flags and the nominal start of its thread, and VEC.CHECK where it writes it. -/
structure Late where
  v : Vector VReg 16
  m : Vector MReg 8
  fpFlags : BitVec 64
  nom : Option Nat
  vecCheck : Option Word
  scrErr : Option Word
  deriving DecidableEq, Repr

/-- An entry of a thread's commit window (R22) with its packet: the tag, the instruction and its address, the address
fetch follows after it, what it writes, its operands, where it stands and at which position of the lane (R20, R29: 0 for F
to 8 for P8), and its completion. `started` marks an operation that its siding has started (R36); `offer` a packet that
captured its last operand at an injection and is offered there before it climbs (R37); `check` is VEC.CHECK.EN at issue
(R58); `struck` marks a struck completion (R33); `late` holds what its commit still writes. -/
structure WEntry where
  tag : BitVec 7
  instr : Instr
  pc : Word
  next : Word
  dest : Option Dest
  ops : List Operand
  stage : Stage
  pos : Nat
  started : Bool
  offer : Bool
  check : Bool
  comp : Completion
  struck : Bool
  late : Option Late
  deriving DecidableEq, Repr

/-- A committed store that has not been performed (R41): its instruction and tag, with the scalar and vector registers as
they stood when it committed. -/
structure PStore where
  tag : BitVec 7
  instr : Instr
  pc : Word
  s : Vector Word 32
  x : Vector Word 8
  v : Vector VReg 16
  deriving DecidableEq, Repr

/-- A thread of the core (R14, R48). `reply` is the status an event unit has returned to a waiter (R320), not yet taken
by its instruction; `raised` is a kill broadcast raised and not yet applied, by its boundary and the address at which fetch
resumes (R44); `stopped` marks a thread that a save holds (R387); `refused` lists the journal entries whose refusal message
has still to be sent (R378); `anew` marks a thread whose instruction at `pc` is to be issued again as a new one (R47). -/
structure Thread where
  s : Vector Word 32
  x : Vector Word 8
  v : Vector VReg 16
  m : Vector MReg 8
  fpFlags : BitVec 64
  journal : Vector JEntry 16
  pc : Word
  run : RunState
  wake : Wake
  retry : Bool
  reply : Option Word
  nom : Option Nat
  stq : List PStore
  unacked : Nat
  refused : List (Fin 16)
  lastTag : BitVec 7
  window : List WEntry
  fetchPc : Word
  hold : Bool
  rebuild : Nat
  raised : Option (BitVec 7 × Word)
  forkM : Bool
  forkC : Bool
  stopped : Bool
  anew : Bool
  settling : Bool
  deriving DecidableEq, Repr

/-! ## The core -/

/-- Who gave a command (R264): the two threads and the two sequencers. -/
inductive Agent where
  | pri | aux | mseq | cseq
  deriving DecidableEq, Repr

/-- A Held lock of a bank of this core's cluster (R205, R293): the command, the bank's core and number, the lock's number
in the bank, the byte range, its role, and the command's counter. `far` marks the lock of a command of another core, whose number is
that core's (log 119). -/
structure Lock where
  cmd : Nat
  x : Nat
  y : Nat
  bank : Nat
  slot : Nat
  lo : Nat
  hi : Nat
  dest : Bool
  counter : Option (Fin 16)
  far : Bool
  deriving DecidableEq, Repr

/-- What the current cycle of the halyard has seen (R29, R36, R40): the sidings that have accepted a packet, those that
have started an operation, whether an operation has ended, which closes the cycle's dispatches, and whether its commits are
made. -/
structure Cycle where
  accepted : List Nat
  started : List Nat
  ended : Bool
  committed : Bool
  closed : Bool
  deriving DecidableEq, Repr

/-- An accepted engine command (R198, R297): the instruction with the values it captured; `handler` marks a command of code in handler
mode, which belongs to no launch (R206, R239). -/
structure Cmd where
  id : Nat
  owner : Agent
  pc : Word
  tag : BitVec 7
  instr : Instr
  a : Word
  b : Word
  x4 : Word
  x5 : Word
  x6 : Word
  x7 : Word
  lanes : Vector Lane 64
  record : Option Nat
  handler : Bool
  deriving DecidableEq, Repr

/-- What a parked access of an engine waits for (R396, R398): nothing of its own, after a shoot-down's block or release; an answer to the
fault record in a slot; or room for its record, with the reason and whether it fetches. -/
inductive ParkRecord where
  | none | posted (slot : Nat) | unposted (reason : Nat) (fetch : Bool)
  deriving DecidableEq, Repr

/-- A page wait of an engine: the address, whether it writes, and its record. -/
structure EnginePark where
  va : Word
  write : Bool
  record : ParkRecord
  deriving DecidableEq, Repr

/-- An engine: its queue, the command it runs, the page wait of a running copy (R298), and the first out-of-range byte of the running
command (R204). -/
structure Engine where
  queue : List Cmd
  running : Option Cmd
  parked : Option EnginePark
  oor : Option (Nat × Word)
  deriving DecidableEq, Repr

/-- A counted command or FORK in acceptance order (R290): its counter, its number, and whether it has completed. -/
structure Counted where
  cc : Fin 16
  id : Nat
  complete : Bool
  deriving DecidableEq, Repr

/-- An engine sequencer (R299, R300): its registers, staging vector registers, the thread that forked it, the task record
it serves, the counted number of its FORK, and the page wait of its fetch. -/
structure Sequencer where
  running : Bool
  pc : Word
  s : Vector Word 32
  x : Vector Word 8
  v : Vector VReg 16
  nom : Option Nat
  owner : Agent
  record : Option Nat
  fork : Nat
  parked : Option EnginePark
  deriving DecidableEq, Repr

/-- A node of a burgee graph (R213, R219). -/
structure GNode where
  op : Nat
  a : Nat
  b : Nat
  c : Nat
  imm : Nat
  deriving DecidableEq, Repr

/-- A loaded graph: the image as loaded and its fields (R213, R218). -/
structure Graph where
  gid : Nat
  out : Nat
  lat : Nat
  nops : Nat
  hasLut : Bool
  nodes : List GNode
  q : List Lane
  lut : List Lane
  image : Word
  deriving DecidableEq, Repr

/-- A configuration slot in use (R220, R221): the custom number it serves, its load order and its graph. -/
structure CSlot where
  number : Nat
  order : Nat
  graph : Graph
  deriving DecidableEq, Repr

/-- A leaf entry a TLB holds (R395). -/
structure TlbEntry where
  ctx : Nat
  base : Nat
  size : Nat
  pa : Nat
  loc : Nat
  peer : Nat
  ace : Bool
  wb : Bool
  x : Bool
  w : Bool
  r : Bool
  deriving DecidableEq, Repr

/-- A byte of the L1 data cache (R263): its value, its dirty bit, and whether it came from a poisoned word (R437). -/
structure L1Byte where
  b : Byte
  dirty : Bool
  bad : Bool
  deriving DecidableEq, Repr

/-- The states of a shoot-down (R398). -/
inductive ShootState where
  | draining | confirming | confirmed
  deriving DecidableEq, Repr

/-- A shoot-down in progress (R397, R398): the target context, the range and the key of its DONE word. -/
structure Shoot where
  ctx : Nat
  migration : Bool
  base : Nat
  len : Nat
  doneKey : Nat
  state : ShootState
  deriving DecidableEq, Repr

/-- The states of a stream slot (R309). -/
inductive SlotState where
  | empty | filling | full | taken | writing
  deriving DecidableEq, Repr

/-- An open subscription (R307 to R311): the descriptor, the stream controller that serves it, the states of its slots, each with its
tile, an Empty one with its next one, TAKE and GIVE, whether a SUB.CLOSE waits, the thread and address of its SUB.OPEN, and the page
wait of its controller (R312). -/
structure Sub where
  desc : Vector Word 8
  ctl : Fin 32
  slots : List (SlotState × Nat)
  take : Nat
  give : Nat
  closing : Bool
  owner : Agent
  pc : Word
  parked : Option EnginePark
  deriving DecidableEq, Repr

/-- A channel endpoint (R333, R334): its receive buffer, the packets stopped at it, and its send count. -/
structure Chan where
  buf : List Word
  stopped : List Word
  sent : Nat
  deriving DecidableEq, Repr

/-- A trap message of eight words (R379). -/
abbrev Msg := Vector Word 8

/-- The part of the core's primary thread in a slaved group (R49 to R51). -/
inductive Role where
  | single | leader | attached | detached
  deriving DecidableEq, Repr

/-- An instruction that a leader has forwarded (R49): its place in the stream, its address and its parcels. -/
structure Fwd where
  seq : Nat
  pc : Word
  p : Nat
  q : Nat
  deriving DecidableEq, Repr

/-- What a leader's forward log holds (R52): the parcels of an instruction by the tag it had, an outcome record with its
redirect marker, or a perform mark. -/
inductive LogItem where
  | parcels (tag : BitVec 7) (n : Nat) | outcome (taken redirect : Bool) | mark
  deriving DecidableEq, Repr

/-- Fetch slaving (R49 to R52). In a follower: the outcome records (taken, redirect, and how many instructions had been
forwarded when the record came) that await their branches, the perform marks not yet used, the instructions forwarded and
not yet committed, how many have been forwarded in all, and how many forwarded branches still owe their record. While it is
detached: how many of the records to come belong to the leader's side of the split, and whether the leader's JOIN has
been forwarded. In a leader: the followers that are detached and not yet waiting at JOIN, and the forward log. -/
structure Slaving where
  role : Role
  outcomes : List (Bool × Bool × Nat)
  marks : Nat
  stream : List Fwd
  arrived : Nat
  owed : Nat
  stale : Nat
  past : Bool
  followersOut : Nat
  log : List LogItem
  deriving DecidableEq, Repr

/-- The core (R14). `forks` lists the sequencers of the cluster's other cores that run a program of a FORK there, by the core's place
in the cluster (R305). `outBuf` lists the completions in the output buffers of the sidings (R29, R30) by position, thread and
tag, in the order in which their operations ended. `icache` holds code lines by number, the newest first, and `badLines` the
lines marked poisoned (R438). `asleep` marks a core that a shoot-down skipped (R398); a fenced core takes no new launch, and one that
a machine check stopped is dead (R439, R440). -/
structure Core where
  phys : Nat
  lx : Fin 32
  ly : Fin 32
  ctx : Option Nat
  launch : Option Nat
  bankFmt : Vector Word 8
  vecCheck : Word
  accSat : Word
  scrErr : Word
  cxLdr : Word
  cxMiss : Word
  cxLpc : Word
  lnPos : Word
  tkOrg0 : Word
  tkOrg1 : Word
  trapMsg : Vector Word 8
  trapNpc : Word
  trapAct : Word
  trapHst : Word
  cycle : Word
  time : Word
  pwrStat : Word
  hy : Vector Word 6
  view : Vector Word 14
  viewGen : Nat
  k : List (Nat × BitVec 32)
  tiles : List (Nat × Byte)
  xr : List (Nat × Int)
  acc : List (Nat × BitVec 40)
  tileBad : List Nat
  accBad : List Nat
  cc : Vector (BitVec 8) 16
  mat : Engine
  cpy : Engine
  locks : List Lock
  cmdCtr : Nat
  counted : List Counted
  subs : Vector (Option Sub) 8
  chans : Vector Chan 64
  windows : Vector (Option (Nat × Nat)) 64
  mseq : Sequencer
  cseq : Sequencer
  forks : List (Fin 4 × SeqId)
  slots : Vector (Option CSlot) 8
  loadOrder : Nat
  l1 : List (Nat × Option L1Byte)
  acePages : List Nat
  itlb : List TlbEntry
  dtlb : List TlbEntry
  icache : List (Nat × List Byte)
  badLines : List Nat
  hq : List Msg
  hqPos : List Nat
  trapPos : Nat
  loaderWanted : Bool
  loaderWake : Wake
  handlerWake : Wake
  slave : Slaving
  cyc : Cycle
  outBuf : List (Nat × ThreadId × BitVec 7)
  asleep : Bool
  fenced : Bool
  dead : Bool
  deriving DecidableEq, Repr

/-- The phases of a launch (R355, R358, R239). -/
inductive Phase where
  | waiting | running | ending | ended
  deriving DecidableEq, Repr

/-- The range unit's state for a launch (R250 to R257): the published, pending and previous hoists, GEN, DONE, the
counts of Taken grains, the ranges by rank, the sweep cursor, and the initial hoist, with which every core of the launch starts. -/
structure RangeUnit where
  hoist : Vector Word 14
  pending : Vector Word 14
  prev : Vector Word 14
  gen : Nat
  done : Nat
  tcur : Nat
  tprev : Nat
  ranges : List (Nat × Nat)
  cursor : Nat
  first : Vector Word 14
  deriving DecidableEq, Repr

/-- A running exchange step (R242, R243): the plan, this core's windows as the clock started, and the entries whose
transfers have begun. -/
structure Exchange where
  plan : Nat
  windows : Vector (Option (Nat × Nat)) 64
  begun : List Nat
  deriving DecidableEq, Repr

/-- A launch the device holds (R353 to R361): its packet, phase and first fault; the launch it was taken early after;
this core's arrival at SSTEP, the steps of the barrier, the current plan and the exchange; its range unit; and of its other
cores, by launch index, those whose primary thread has ended and those that stand arrived at SSTEP (R239, R240). `waits` names
the logical clusters that an early start has still to take (R358). -/
structure Launch where
  id : Nat
  ctx : Nat
  queue : Nat
  slot : Nat
  packet : Vector Word 16
  phase : Phase
  fault : Option (Nat × Nat × Nat)
  hint : Bool
  pred : Option Nat
  arrived : Bool
  released : Bool
  plan : Nat
  exch : Option Exchange
  range : RangeUnit
  exited : List Nat
  atStep : List Nat
  waits : List (Nat × Nat)
  hops : List (Nat × Nat)
  deriving DecidableEq, Repr

/-- The states of a context (R375). -/
inductive CtxState where
  | unconfigured | ready | running | saving | saved | halted
  deriving DecidableEq, Repr

/-- A tile-task record in the cluster's scheduler (R303 to R306): its words, EFF, how often it was dispatched, the sequencer of
this core that runs it, or the core of the cluster of which one does; `avoid` is the core on which a replayed record has met an
error (R306). -/
structure Task where
  words : Vector Word 8
  ctx : Nat
  launch : Option Nat
  eff : Nat
  dispatched : Nat
  on : Option SeqId
  away : Option (Fin 4)
  avoid : Option (Fin 4)
  deriving DecidableEq, Repr

/-- A saved context (R387): the core's record with its two threads and the task records its cluster holds (R302). Scratchpads, event lines, launches and range units
stay where State holds them, under the context's number. -/
structure Saved where
  pri : Thread
  aux : Thread
  core : Core
  tasks : List (Nat × Option Task)
  deriving DecidableEq, Repr

/-- What the device keeps for a context beside its descriptor (R375, R387, R388): its state, the save-failed mark, the
watchdog expiries counted, whether the device resumes it by itself (R415), its saved record, and the messages that arose
while it was saved. -/
structure Ctx where
  state : CtxState
  saveFailed : Bool
  watchdog : Nat
  wanted : Bool
  saved : Option Saved
  full0 : List (Nat × Nat)
  deriving DecidableEq, Repr

/-- A queue of a context (R347, R362): its references to objects, the packet it runs and the slot index of that packet,
and the launch that runs for it. -/
structure Queue where
  refs : List (Nat × Nat)
  waiting : Option (Nat × Vector Word 16)
  lastLaunch : Option Nat
  deriving DecidableEq, Repr

/-- An agent that an event line names (R321): logical core and thread. -/
structure EAgent where
  x : Nat
  y : Nat
  thr : ThreadId
  deriving DecidableEq, Repr

/-- An operation of an agent of another core on an event line (R315); `leave`: its thread's wait there ends with no answer. -/
inductive LineOp where
  | init (w : Word) | arrive (drop : Bool) | sync | wait (target : BitVec 16) | lock | unlock | signal | clear | leave
  deriving DecidableEq, Repr

/-- The operation is a wait of its thread, with nothing before it. -/
def LineOp.waits (o : LineOp) : Bool :=
  match o with
  | .wait _ | .lock => true
  | _ => false

/-- An event line (R316, R317, R319, R321, R322). A line is named by ((context × 16 + cluster y) × 16 + cluster x) × 64 +
line; `parent` is the parent's number within the context. `ops` are the operations of other cores, and `gather` says that
arrivals of this core also wait, that the line takes in its next cycle (R318); `waiters` are the waits of other cores. -/
structure ELine where
  kind : Nat
  pv : Bool
  cin : Nat
  parent : Nat
  expect : Nat
  phase : BitVec 16
  flag : Bool
  arrived : Nat
  drops : Nat
  relayed : Bool
  carry : Nat
  carryDrops : Nat
  kids : List Nat
  carryKids : List Nat
  owner : Option EAgent
  queue : List EAgent
  inbox : List (Nat × Bool)
  completed : Bool
  ops : List (EAgent × LineOp)
  waiters : List (EAgent × BitVec 16)
  gather : Bool
  deriving DecidableEq, Repr

/-- An unconfigured line with PHASE 0 (R313). -/
def ELine.fresh : ELine := ⟨0, false, 0, 0, 0, 0, false, 0, 0, false, 0, 0, [], [], none, [], [], false, [], [], false⟩

/-- A message between event lines in flight (R319, R322). -/
inductive ChainMsg where
  | arrival (parent child : Nat) (drop : Bool)
  | completion (child : Nat)
  deriving DecidableEq, Repr

/-- A packet that a reduce or collect entry holds (R330, R331): the port it came by, the packet, and the exchange entry it
belongs to with the poison its word carries (R437). -/
structure Held where
  port : Fin 5
  packet : Packet
  xfer : Option (Nat × Bool)
  deriving DecidableEq, Repr

/-- The window of a reduce or collect entry (R330, R331): BASE and the packets held. -/
structure RStage where
  base : BitVec 16
  held : List Held
  deriving DecidableEq, Repr

/-- A fabric packet of a context on its way to a router's port (R327), with the exchange entry it belongs to (R332) and
the poison its word carries (R437). -/
structure Flit where
  ctx : Nat
  x : Fin 32
  y : Fin 32
  port : Fin 5
  packet : Packet
  xfer : Option (Nat × Bool)
  deriving DecidableEq, Repr

/-! ## What the rest of the device does -/

/-- What reaches this core's part of the machine from its other cores (log 6): a leader's instruction or its JOIN, and the use
of a leader's forward log (R49, R51, R52); accesses to memory by key (R155, R164, R264); an operation on an event line, and a cycle of a
line that takes arrivals of this core together with others (R318); a packet that another core sends on a route (R334);
at a launch, by its number, a core's TASK.NEXT, COVER, SSTEP, HINT.SUCC and EXIT, its tuner's HWR and HCOMMIT, and a fault (R239,
R240, R249, R253, R257, R260, R359, R377); a trap
message (R379); what a handler on another core does for a thread of this one (R230, R384, R385); a task record that another
core of the cluster places, a FORK of its sequencers and its end, and the end of a task record that it runs (R300, R304 to R306); a subscription of another core at a stream controller (R308); the range locks that another core's command takes and
frees (R293); PWR.HINT of another core (R389); the matrix-cycles and the vector instructions of a cluster's other cores (R411, R419); a defect that the BIST of a later start finds (R441); and the record of
SCR.ERR that an access of another core makes, or that another core's write clears, since the context's cores share it (R142). -/
inductive Outside where
  | parcel (pc : Word) (p q : Nat)
  | leaderJoin
  | logConsumed (n : Nat)
  | write (key : Nat) (b : List Byte)
  | atomic (key n : Nat) (op : AmoOp) (v cmp : Nat)
  | tagWrite (key : Nat) (v : Word)
  | tagSet (key : Nat) (full : Bool)
  | line (key : Nat) (a : EAgent) (op : LineOp)
  | gather (key : Nat)
  | packet (x y : Fin 32) (p : Packet)
  | taskNext (launch core : Nat)
  | claim (launch : Nat) (token : Word) (word : Nat)
  | hwr (launch : Nat) (i : Fin 14) (v : Word)
  | hcommit (launch : Nat)
  | move (launch : Nat) (done : Bool) (token mask : Word)
  | hint (launch : Nat)
  | sstep (launch core : Nat)
  | ended (launch core : Nat)
  | fault (launch cause info : Nat)
  | message (hc : Fin 4) (m : Msg)
  | tret (t : ThreadId) (npc : Word) (finish : Bool)
  | retry (t : ThreadId) (j : Fin 16)
  | drop (t : ThreadId) (j : Fin 16)
  | enqueue (w : Vector Word 8)
  | fork (d : Fin 4) (q : SeqId) (runs : Bool)
  | recordEnd (r : Fin 64) (status : Nat)
  | stream (ctl : Fin 32) (opened : Bool)
  | lock (k : Lock)
  | unlock (cmd : Nat)
  | pwrHint (phys : Nat) (n : Fin 3)
  | matrixCycles (cluster : Fin 256) (pair : Fin 5) (n : Nat)
  | vecOps (cluster : Fin 256) (n : Nat)
  | defect (spare : Bool) (n : Nat)
  | scrErr (cause : Fin 5) (addr : Word)
  | scrClear
  deriving DecidableEq, Repr

/-- An event of the agenda (log 6): a row of the opcode table, or something that another core does. -/
inductive Event where
  | row (i : Instr) | out (o : Outside)
  deriving DecidableEq, Repr

/-! ## Management and power -/

/-- A cached translation (R371): the digest of its source, the source's SVN, and the device's signature. -/
structure Translation where
  digest : BitVec 256
  svn : Nat
  signature : List Byte
  deriving DecidableEq, Repr

/-- A log record (R425). -/
structure LogRec where
  index : Nat
  standby : Nat
  kind : Config.LogKind
  source : Nat
  detail : List Word
  deriving DecidableEq, Repr

/-- An image bank in flash (R425, R429). -/
structure Bank where
  bytes : List (Nat × Byte)
  pending : Bool
  deriving DecidableEq, Repr

/-- The capabilities of an SPDM responder (R428): certificates, challenges and measurements, the latter two signed, chunks for messages
larger than 4,096 bytes, key exchange, pre-shared keys, sessions and mutual authentication. -/
inductive SpdmCap where
  | cert | chalSigned | measSigned | chunk | keyExchange | preSharedKey | session | mutualAuth
  deriving DecidableEq, Repr

/-- The hash that SPDM may select (R428). -/
inductive SpdmHash where
  | sha3_256
  deriving DecidableEq, Repr

/-- The algorithm of the extended asymmetric algorithm field, under Limlys' registry identifier (R428). -/
inductive SpdmAsym where
  | mlDsa44
  deriving DecidableEq, Repr

/-- An SPDM response (R428): by the name of its request's answer. -/
inductive Spdm where
  | version (versions : List Nat)
  | capabilities (offered : List SpdmCap)
  | algorithms (hashes : List SpdmHash) (extended : List SpdmAsym)
  | certificate (data : List Byte) | challengeAuth (signature : List Byte)
  | measurements (blocks : List (Nat × BitVec 256)) (signature : List Byte) | chunk (data : List Byte) | busy
  | unsupportedAlgorithm | unexpected
  deriving DecidableEq, Repr

/-- A power lease (R412). -/
structure Lease where
  seq : BitVec 32
  watts : Nat
  ms : Nat
  deriving DecidableEq, Repr

/-- The management controller (R422 to R444): its window's registers, the standby domain, flash, the measurement slots, the
repair state and the SPDM responder. `codeReg` is MG.CMD.CODE as it reads, `code` what the controller read of it when GO was set
(R423). `phySaved` and `mapSaved` say that the data of steps 5 and 7 that a warm start reuses is there (R431, log 141). `opened` is the image of the last UPD.OPEN; `halted` lists the halts that the controller
was notified of, each a context and the physical cluster of its failed handler (R380). -/
structure Mgmt where
  powered : Bool
  starting : Bool
  last : Nat
  fails : Nat
  kind : Nat
  ready : Bool
  degraded : Bool
  fsvn : Nat
  trained : Bool
  phySaved : Bool
  mapSaved : Bool
  code : BitVec 16
  codeReg : BitVec 16
  go : Bool
  rsp : Word
  args : Vector Word 4
  taken : Vector Word 4
  retries : BitVec 32
  discards : BitVec 32
  corrHbm : BitVec 32
  corrSram : BitVec 32
  avail : BitVec 256
  standby : Nat
  standbyPower : Bool
  window : List Nat
  log : List LogRec
  logNext : Nat
  banks : Vector (Vector Bank 2) 2
  active : Vector (Fin 2) 2
  opened : Fin 2
  meas : Vector (BitVec 256) 16
  fences : List (Nat × Nat × Nat)
  fenced : List Nat
  spares : List Nat
  badSpares : List Nat
  defects : List (Bool × Nat)
  coreErrors : List (Nat × Nat)
  rowErrors : List (Nat × Nat)
  rowsDue : List Nat
  pages : List Nat
  linksDown : List (Bool × Nat)
  halted : List (Nat × Nat)
  translations : List Translation
  spdmVersion : Bool
  spdmAlgorithms : Bool
  spdmRest : List Byte
  spdmOut : List Spdm
  deriving DecidableEq, Repr

/-- Power, clocks and accounting (R407 to R421). -/
structure Power where
  lease : Lease
  active : Bool
  expiry : Nat
  anyLease : Bool
  lastSeq : BitVec 32
  held : List Lease
  ramp : Nat
  rsv : Vector Word 4
  lend : Vector Word 4
  share : Word
  derates : BitVec 32
  derated : BitVec 8
  unattrUj : Word
  unattrNj : Nat
  acct : List (Nat × Word)
  residue : List (Nat × Nat)
  moved : List (Nat × Nat)
  level : Nat
  hints : List (Nat × Nat)
  rails : BitVec 256
  clocks : BitVec 256
  relock : BitVec 256
  stopped : BitVec 256
  stretching : BitVec 256
  droops : List (Nat × Nat)
  rampPrev : List (Nat × Nat)
  rampNow : List (Nat × Nat)
  rampOwn : Nat
  rampOwed : Nat
  rampSkip : BitVec 256
  ref : Word
  deriving DecidableEq, Repr

/-- The machine. `rmap` holds the remap tables in the routers (R373), by context and logical cluster; `streams` counts the
subscriptions of other cores at each stream controller (R308); `late` lists the fault records of bad DONE words that wait for
room in their context's fault queue (R352, R396), each a context, its reason and the address. -/
structure State where
  pri : Thread
  aux : Thread
  cur : ThreadId
  auxIdle : Nat
  turn : Bool
  core : Core
  launches : List Launch
  ctxs : List (Nat × Ctx)
  ctxBase : Word
  queues : List (Nat × Queue)
  nextLaunch : Nat
  outbox : List (Nat × Msg)
  lines : List (Nat × ELine)
  flight : List ChainMsg
  tasks : List (Nat × Option Task)
  rmap : List (Nat × Nat)
  routes : List (Nat × Byte)
  rstages : List (Nat × RStage)
  fabric : List Flit
  sent : List Flit
  clusterTlb : List TlbEntry
  dieTlb : List TlbEntry
  shoots : Vector (Option Shoot) 4
  farFmt : List (Nat × Word)
  hostActhr : Word
  hostCounts : List (Nat × Nat)
  mem : List Host.Cell
  tags : List (Nat × Bool)
  poison : List (Nat × Bool)
  mgmt : Mgmt
  power : Power
  streams : Vector Nat 32
  late : List (Nat × Nat × Nat)
  agenda : List Event
  freeCtr : Nat
  deriving DecidableEq, Repr

/-! ## Reset

State.reset is the device at power-on, where a cold start begins (R432). Values the spec gives none for are those of
log 2. -/

def VReg.reset : VReg := ⟨Vector.replicate 64 0, [], none⟩
def MReg.reset : MReg := ⟨0, []⟩
def JEntry.reset : JEntry := ⟨.free, 0, 0, 0, .work, 0⟩

/-- A thread with no work. -/
def Thread.reset : Thread where
  s := Vector.replicate 32 0
  x := Vector.replicate 8 0
  v := Vector.replicate 16 VReg.reset
  m := Vector.replicate 8 MReg.reset
  fpFlags := 0
  journal := Vector.replicate 16 JEntry.reset
  pc := 0
  run := .noWork
  wake := Wake.none
  retry := false
  reply := none
  nom := none
  stq := []
  unacked := 0
  refused := []
  lastTag := 127
  window := []
  fetchPc := 0
  hold := false
  rebuild := 0
  raised := none
  forkM := false
  forkC := false
  stopped := false
  settling := false
  anew := false

def Engine.reset : Engine := ⟨[], none, none, none⟩

def Sequencer.reset : Sequencer :=
  ⟨false, 0, Vector.replicate 32 0, Vector.replicate 8 0, Vector.replicate 16 VReg.reset, none, .pri, none, 0, none⟩

def Chan.reset : Chan := ⟨[], [], 0⟩

def Slaving.reset : Slaving := ⟨.single, [], 0, [], 0, 0, 0, false, 0, []⟩

def Core.reset : Core where
  phys := 0
  lx := 0
  ly := 0
  ctx := none
  launch := none
  bankFmt := Vector.replicate 8 0
  vecCheck := 0
  accSat := 0
  scrErr := 0
  cxLdr := 0
  cxMiss := 0
  cxLpc := 0
  lnPos := 0
  tkOrg0 := 0
  tkOrg1 := 0
  trapMsg := Vector.replicate 8 0
  trapNpc := 0
  trapAct := 0
  trapHst := 0
  cycle := 0
  time := 0
  pwrStat := 0
  hy := Vector.replicate 6 0
  view := Vector.replicate 14 0
  viewGen := 0
  k := []
  tiles := []
  xr := []
  acc := []
  tileBad := []
  accBad := []
  cc := Vector.replicate 16 0
  mat := Engine.reset
  cpy := Engine.reset
  locks := []
  cmdCtr := 0
  counted := []
  subs := Vector.replicate 8 none
  chans := Vector.replicate 64 Chan.reset
  windows := Vector.replicate 64 none
  mseq := Sequencer.reset
  cseq := Sequencer.reset
  forks := []
  slots := Vector.replicate 8 none
  loadOrder := 0
  l1 := []
  acePages := []
  itlb := []
  dtlb := []
  icache := []
  badLines := []
  hq := []
  hqPos := []
  trapPos := 0
  loaderWanted := false
  loaderWake := Wake.none
  handlerWake := Wake.none
  slave := Slaving.reset
  cyc := ⟨[], [], false, false, false⟩
  outBuf := []
  asleep := false
  fenced := false
  dead := false

def Bank.reset : Bank := ⟨[], false⟩

/-- The controller as the cold start of power-on begins (R422, R431). -/
def Mgmt.reset : Mgmt where
  powered := true
  starting := true
  last := 0
  fails := 0
  kind := 0
  ready := false
  degraded := false
  fsvn := Config.fuseSvn.val
  trained := false
  phySaved := false
  mapSaved := false
  code := 0
  codeReg := 0
  go := false
  rsp := 0
  args := Vector.replicate 4 0
  taken := Vector.replicate 4 0
  retries := 0
  discards := 0
  corrHbm := 0
  corrSram := 0
  avail := 0
  standby := 0
  standbyPower := true
  window := []
  log := []
  logNext := 0
  banks := Vector.replicate 2 (Vector.replicate 2 Bank.reset)
  active := Vector.replicate 2 0
  opened := 0
  meas := Vector.replicate 16 0
  fences := []
  fenced := []
  spares := []
  badSpares := []
  defects := []
  coreErrors := []
  rowErrors := []
  rowsDue := []
  pages := []
  linksDown := []
  halted := []
  translations := []
  spdmVersion := false
  spdmAlgorithms := false
  spdmRest := []
  spdmOut := []

/-- The power block (R418). -/
def Power.reset : Power where
  lease := ⟨0, 0, 0⟩
  active := false
  expiry := 0
  anyLease := false
  lastSeq := 0
  held := []
  ramp := 700
  rsv := Vector.replicate 4 0
  lend := Vector.replicate 4 0
  share := 0x19191919
  derates := 0
  derated := 0
  unattrUj := 0
  unattrNj := 0
  acct := []
  residue := []
  moved := []
  level := 0
  hints := []
  rails := 0
  clocks := 0
  relock := 0
  stopped := 0
  stretching := 0
  droops := []
  rampPrev := []
  rampNow := []
  rampOwn := 0
  rampOwed := 0
  rampSkip := 0
  ref := 0

/-- The machine right after reset. -/
def State.reset : State where
  pri := Thread.reset
  aux := Thread.reset
  cur := .pri
  auxIdle := 7
  turn := false
  core := Core.reset
  launches := []
  ctxs := []
  ctxBase := 0
  queues := []
  nextLaunch := 0
  outbox := []
  lines := []
  flight := []
  tasks := []
  rmap := []
  routes := []
  rstages := []
  fabric := []
  sent := []
  clusterTlb := []
  dieTlb := []
  shoots := Vector.replicate 4 none
  farFmt := []
  hostActhr := 256
  hostCounts := []
  mem := []
  tags := []
  poison := []
  mgmt := Mgmt.reset
  power := Power.reset
  streams := Vector.replicate 32 0
  late := []
  agenda := []
  freeCtr := 0

end Sys2Proof.Machine
end

