-- ==== Sys2Proof/Machine/Access.lean ====
section
/-! DEFINITION. The threads of the core, their registers and program counters, and the halyard counters. -/

namespace Sys2Proof.Machine

/-! ## Threads and registers -/

/-- A thread of the core. -/
def State.th (s : State) (t : ThreadId) : Thread :=
  match t with
  | .pri => s.pri
  | .aux => s.aux

/-- The state with a thread replaced. -/
def State.setTh (s : State) (t : ThreadId) (x : Thread) : State :=
  match t with
  | .pri => { s with pri := x }
  | .aux => { s with aux := x }

/-- The thread whose instruction is performed. -/
def State.me (s : State) : Thread := s.th s.cur
def State.setMe (s : State) (x : Thread) : State := s.setTh s.cur x

/-- A scalar register; s0 reads zero (R25). -/
def Thread.getS (t : Thread) (r : Fin 32) : Word := if r = 0 then 0 else t.s[r]
/-- A scalar register written; a destination of s0 writes nothing (R26). -/
def Thread.putS (t : Thread) (r : Fin 32) (v : Word) : Thread := if r = 0 then t else { t with s := t.s.set r v }
def Thread.getX (t : Thread) (n : Fin 8) : Word := t.x[n]
def Thread.putX (t : Thread) (n : Fin 8) (v : Word) : Thread := { t with x := t.x.set n v }

/-- The scalar register r of the performing thread. -/
def State.reg (s : State) (r : Fin 32) : Word := s.me.getS r
def State.setReg (s : State) (r : Fin 32) (v : Word) : State := s.setMe (s.me.putS r v)
def State.xreg (s : State) (n : Fin 8) : Word := s.me.getX n
def State.setXreg (s : State) (n : Fin 8) (v : Word) : State := s.setMe (s.me.putX n v)

/-- A 16-register field names s0 to s15 (R94, R101). -/
def low32 (r : Fin 16) : Fin 32 := Fin.castLE (by omega) r

/-- The program counter of the performing thread. -/
def State.pc (s : State) : Word := s.me.pc

/-- The next instruction is at an address; the thread no longer waits. -/
def State.goto (s : State) (a : Word) : State := s.setMe { s.me with pc := a, wake := Wake.none, retry := false, reply := none }
/-- The next instruction follows one of n bytes (R87, R108). -/
def State.advance (s : State) (n : Nat) : State := s.goto (s.pc + BitVec.ofNat 64 n)

/-- FP.FLAGS gains the flags an instruction raised (R84). -/
def State.raise (s : State) (f : Fl) : State := s.setMe { s.me with fpFlags := s.me.fpFlags ||| f }

/-- Result of an instruction: a register written and the next instruction four bytes on. -/
def State.ret (s : State) (d : Fin 32) (v : Word) : State := (s.setReg d v).advance 4

/-- One of the halyard counters advanced (R59). -/
def State.countHy (s : State) (i : Fin 6) (n : Nat) : State :=
  { s with core := { s.core with hy := s.core.hy.set i (s.core.hy[i] + BitVec.ofNat 64 n) } }

end Sys2Proof.Machine
end

