-- ==== Sys2Proof/Machine/Class.lean ====
section
/-! DEFINITION. The classes of instructions in the halyard: their sidings (R20), what they read and write through the pipe
(R25, R26), and when they are performed (R41). -/

namespace Sys2Proof.Machine

/-! ## Classes, sidings and operands (R20, R25, R26, R41) -/

/-- How R41 has an instruction performed: nothing to do, at its siding, resolved as a branch, speculatively as a load, in
the vector siding, after commit as a store, or at the commit head. -/
inductive Kind where
  | nop | alu | branch | load | vec | store | head
  deriving DecidableEq, Repr

def kindOf (i : Instr) : Kind :=
  match i with
  | .nop | .cNop => .nop
  | .add .. | .sub .. | .and .. | .or .. | .xor .. | .andn .. | .shl .. | .shr .. | .sar .. | .min .. | .max ..
  | .minu .. | .maxu .. | .slt .. | .sltu .. | .seq .. | .clz .. | .ctz .. | .popc .. | .sext .. | .zext .. | .sel ..
  | .mov .. | .mul .. | .mulh .. | .mulhu .. | .div .. | .divu .. | .rem .. | .remu .. | .li .. | .lix .. | .lxh ..
  | .movxFromX .. | .movxToX .. | .saddr .. | .lea .. | .cMov .. | .cAdd .. | .cSub .. | .cAnd .. | .cAddi ..
  | .cLi .. | .cShli .. | .cShri .. => .alu
  | .b .. | .loop .. | .bsplit .. | .j .. | .jal .. | .jr .. | .cBeqz .. | .cBnez .. | .cJ .. | .cJr .. => .branch
  | .ld .. | .ldIndexed .. | .cLdw .. | .pref .. | .kld .. | .tagtst .. => .load
  | .st .. | .stIndexed .. | .cStw .. | .stf .. | .tagset .. | .tagclr .. | .vst .. | .vsts .. | .vstx .. => .store
  | .vld .. | .vlds .. | .vldx .. | .vldb ..
  | .vaddI .. | .vsubI .. | .vmulI .. | .vminI .. | .vmaxI .. | .vabsI .. | .vnegI .. | .vclampI .. | .vaddF ..
  | .vsubF .. | .vmulF .. | .vfma .. | .vfms .. | .vfnma .. | .vminF .. | .vmaxF .. | .vabsF .. | .vnegF ..
  | .vclampF .. | .vrcp .. | .vrsq .. | .vexp2 .. | .vlog2 .. | .vand .. | .vor .. | .vxor .. | .vandn .. | .vshl ..
  | .vshr .. | .vsar .. | .vmov .. | .vcmp .. | .vsel .. | .vperm .. | .vbcast .. | .vslide .. | .viota .. | .vlut ..
  | .vext .. | .vins .. | .vredAdd .. | .vredMin .. | .vredMax .. | .vscanAdd .. | .vscanMin .. | .vscanMax ..
  | .vdot4 .. | .vcvt .. | .mand .. | .mor .. | .mxor .. | .mnot .. | .mpop .. | .mfirst .. | .mset .. | .cx .. => .vec
  | _ => .head

/-- A compute instruction of the vector siding, which VEC.OPS counts (R419). -/
def isVecOp (i : Instr) : Bool :=
  match i with
  | .vld .. | .vlds .. | .vldx .. | .vldb .. => false
  | i => decide (kindOf i = .vec)

/-- An instruction that tests VEC.CHECK (R54). -/
def testsDelay (i : Instr) : Bool :=
  match i with
  | .accAddv .. => true
  | i => decide (kindOf i = .vec)

/-- The positions of the candidate sidings, in climbing order (R20). -/
def sidings (i : Instr) : List Nat :=
  match i with
  | .mul .. | .mulh .. | .mulhu .. => [4, 6]
  | .div .. | .divu .. | .rem .. | .remu .. => [6]
  | .join => [1]
  | .cxload .. | .cxevict .. | .cxqry .. | .cxldr .. => [5]
  | .ldr .. | .stp .. | .ldf .. | .ldfe .. | .stef .. | .vstxAdd .. | .amoW .. | .amoD .. | .fence .. => [3]
  | .vld .. | .vlds .. | .vldx .. | .vldb .. => [3]
  | .chSend .. | .chRecv .. | .chProbe .. | .rsend .. | .xwin .. | .qLaunch .. | .hintSucc | .waitpred | .trap .. | .tret
  | .yield | .pwrHint .. | .jnlRd .. | .jnlRetry .. | .jnlDrop .. | .tlbInv .. | .tlbShoot .. | .csrr .. | .csrw ..
  | .csrset .. | .csrclr .. | .exit => [8]
  | i => match kindOf i with
    | .nop => []
    | .alu => [2, 4, 6]
    | .branch => [1]
    | .load | .store => [3]
    | .vec => [5]
    | .head => [7]

/-- The entries of a siding's holding track (R20). -/
def trackSize (p : Nat) : Nat := if p = 1 then 2 else if p = 3 then 32 else if p = 5 ∨ p = 7 then 8 else 4

/-- Whether an instruction is a compact form of two bytes (R87). -/
def sizeOf' (i : Instr) : Nat :=
  match i with
  | .cMov .. | .cAdd .. | .cSub .. | .cAnd .. | .cAddi .. | .cLi .. | .cShli .. | .cShri .. | .cLdw .. | .cStw ..
  | .cBeqz .. | .cBnez .. | .cJ .. | .cJr .. | .cNop => 2
  | _ => 4

def srcDest : Src → List Dest
  | .s r => [.s r]
  | _ => []
def vsrcDest : VSrc → List Dest
  | .s r => [.s (low32 r)]
  | _ => []

/-- The s and x registers an instruction reads through the pipe (R25); vector instructions name theirs in `vecReads`. -/
def scalarReads (i : Instr) : List Dest :=
  match i with
  | .add _ _ a b | .sub _ _ a b | .and _ _ a b | .or _ _ a b | .xor _ _ a b | .andn _ _ a b | .shl _ _ a b
  | .shr _ _ a b | .sar _ _ a b | .min _ _ a b | .max _ _ a b | .minu _ _ a b | .maxu _ _ a b | .slt _ _ a b
  | .sltu _ _ a b | .seq _ _ a b | .sext _ _ a b | .zext _ _ a b | .mul _ _ a b | .mulh _ _ a b | .mulhu _ _ a b
  | .div _ _ a b | .divu _ _ a b | .rem _ _ a b | .remu _ _ a b | .saddr _ a b => srcDest a ++ srcDest b
  | .sel _ _ a b => .x 4 :: srcDest a ++ srcDest b
  | .clz _ _ a | .ctz _ _ a | .popc _ _ a | .mov _ a | .movxToX _ a => srcDest a
  | .movxFromX _ n | .lxh n _ => [.x n]
  | .lea _ b .. => [.s b]
  | .b _ a b .. | .bsplit _ a b .. => [.s a, .s b]
  | .loop c _ => [.s c]
  | .jr _ a => [.s a]
  | .cMov _ r => [.s (low32 r)]
  | .cAdd d r | .cSub d r | .cAnd d r => [.s (low32 d), .s (low32 r)]
  | .cAddi d _ | .cShli d _ | .cShri d _ => [.s (low32 d)]
  | .cLdw _ b _ => [.s (low32 b)]
  | .cStw d b _ => [.s (low32 d), .s (low32 b)]
  | .cBeqz r _ | .cBnez r _ | .cJr r => [.s (low32 r)]
  | .ld _ b .. | .ldr _ b _ | .pref _ b _ | .kld _ b _ | .ldf _ b _ | .ldfe _ b _ | .tagset b _ | .tagclr b _
  | .tagtst _ b _ => [.s b]
  | .ldIndexed _ b k .. => [.s b, .s k]
  | .st d b .. | .stp d b _ | .stf d b _ | .stef d b _ => [.s d, .s b]
  | .stIndexed d b k .. => [.s d, .s b, .s k]
  | .amoW _ b v .. | .amoD _ b v .. => [.s b, .s v, .x 4]
  | _ => []

/-- The s and x registers a vector instruction reads through the pipe (R25). -/
def vecReads (i : Instr) : List Dest :=
  match i with
  | .vld _ _ b _ | .vldx _ _ b _ | .vldb _ _ b _ | .vst _ _ b _ | .vstx _ _ b _ | .vstxAdd _ _ b _ => [.s b]
  | .vlds _ _ b _ | .vsts _ _ b _ => [.s b, .x 5]
  | .vaddI _ a b .. | .vsubI _ a b .. | .vmulI _ a b .. | .vminI _ a b .. | .vmaxI _ a b .. | .vclampI _ a b ..
  | .vaddF _ a b .. | .vsubF _ a b .. | .vmulF _ a b .. | .vfma _ a b .. | .vfms _ a b .. | .vfnma _ a b ..
  | .vminF _ a b .. | .vmaxF _ a b .. | .vclampF _ a b .. | .vand _ a b _ | .vor _ a b _ | .vxor _ a b _
  | .vandn _ a b _ | .vshl _ a b _ | .vshr _ a b _ | .vsar _ a b _ | .vcmp _ a b .. | .vsel _ _ a b _ | .vperm _ a b _
  | .vbcast _ a b _ | .vslide _ a b _ | .vext _ a b _ | .vins _ a b | .vdot4 _ a b .. => vsrcDest a ++ vsrcDest b
  | .cx _ _ a b _ => .x 4 :: vsrcDest a ++ vsrcDest b
  | .vabsI _ a _ | .vnegI _ a _ | .vabsF _ a .. | .vnegF _ a .. | .vrcp _ a .. | .vrsq _ a .. | .vexp2 _ a ..
  | .vlog2 _ a .. | .vmov _ a _ | .viota _ a _ | .vlut _ a _ | .vredAdd _ a .. | .vredMin _ a .. | .vredMax _ a ..
  | .vscanAdd _ a .. | .vscanMin _ a .. | .vscanMax _ a .. | .vcvt _ a .. | .mset _ a _ => vsrcDest a
  | _ => []

/-- The s and x registers an engine, kernel or system instruction reads through the pipe (R25, R105). -/
def engineReads (i : Instr) : List Dest :=
  match i with
  | .cxload _ a | .cxldr a | .ttEnq _ a | .rlQry _ a | .subOpen _ a | .subClose a | .slotTake _ a | .coverClaim _ a | .hwr _ a
  | .chSend _ a | .csrw _ a _ | .csrset _ a _ | .csrclr _ a _ => [.s a]
  | .mma _ _ _ b .. | .mmas _ _ _ b .. => [.s b, .x 6, .x 7]
  | .accZero a b _ | .accLd a b _ | .accSt a b _ | .accMode _ a b _ | .accRawWr a b _ => [.s a, .s b, .x 6, .x 7]
  | .accTov _ _ a _ | .accAddv _ a _ _ | .accRaw _ a _ => [.s a, .x 6, .x 7]
  | .tld _ _ a b _ | .tst _ _ a b _ => [.s a, .s b, .x 7]
  | .tmov .. => [.x 7]
  | .cpy a b => [.s a, .s b, .x 4, .x 7]
  | .cpy2d a b => [.s a, .s b, .x 4, .x 5, .x 7]
  | .fork _ => [.x 2, .x 3, .x 7]
  | .ccWait _ b => [.s b]
  | .slotGive a b | .coverDone a b | .coverYield a b | .rsend a b | .xwin _ a b | .qLaunch _ a b | .tlbInv a b
  | .tlbShoot a b => [.s a, .s b]
  | _ => []

/-- Every s and x register an instruction reads through the pipe. -/
def reads (i : Instr) : List Dest := scalarReads i ++ vecReads i ++ engineReads i

/-- A scalar destination; s0 is none (R26). -/
def sDest (d : Fin 32) : Option Dest := if d = 0 then none else some (.s d)

/-- The s or x register an instruction writes (R26). -/
def dest (i : Instr) : Option Dest :=
  match i with
  | .add _ d .. | .sub _ d .. | .and _ d .. | .or _ d .. | .xor _ d .. | .andn _ d .. | .shl _ d .. | .shr _ d ..
  | .sar _ d .. | .min _ d .. | .max _ d .. | .minu _ d .. | .maxu _ d .. | .slt _ d .. | .sltu _ d .. | .seq _ d ..
  | .clz _ d _ | .ctz _ d _ | .popc _ d _ | .sext _ d .. | .zext _ d .. | .sel _ d .. | .mov d _ | .mul _ d ..
  | .mulh _ d .. | .mulhu _ d .. | .div _ d .. | .divu _ d .. | .rem _ d .. | .remu _ d .. | .li d _ | .movxFromX d _
  | .saddr d .. | .lea d .. | .loop d _ | .jr d _ | .ld d .. | .ldIndexed d .. | .ldr d .. | .kld d .. | .ldf d ..
  | .ldfe d .. | .tagtst d .. | .amoW d .. | .amoD d .. | .cxqry d _ | .accRaw d .. | .ttEnq d _ | .ccRead d _
  | .rlQry d _ | .subOpen d _ | .slotTake d _ | .taskNext d | .coverClaim d _ | .hrd d _ | .hcommit d | .chRecv d _
  | .chProbe d _ | .qLaunch d .. | .jnlRd d _ | .csrr d _ | .csrw d .. | .csrset d .. | .csrclr d .. => sDest d
  | .cMov d _ | .cAdd d _ | .cSub d _ | .cAnd d _ | .cAddi d _ | .cLi d _ | .cShli d _ | .cShri d _ | .cLdw d ..
  | .vext d .. | .mpop d .. | .mfirst d .. => sDest (low32 d)
  | .jal _ => some (.s 31)
  | .lix n _ | .lxh n _ | .movxToX n _ => some (.x n)
  | _ => none

/-- The operand value of a register. -/
def WEntry.value (e : WEntry) (d : Dest) : Word := ((e.ops.find? (·.reg = d)).map Operand.value).getD 0

/-- The packets and siding entries among some entries, which HY.KILLED counts (R36, R59). -/
def packets (l : List WEntry) : Nat :=
  (l.filter fun e => decide (e.stage = .lane) || decide (e.stage = .track) || decide (e.stage = .buffer)).length

end Sys2Proof.Machine
end

