-- ==== Sys2Proof/Machine/Lane.lean ====
section
/-! DEFINITION. The lane of the halyard (R20, R29 to R37): its positions, sidings and output buffers, and the end of a cycle, which a
kill follows (R44). -/

namespace Sys2Proof.Machine

/-! ## Tags and the last-writer table (R22, R25, R26, R46) -/

/-- a was issued before b (R22). -/
def older (a b : BitVec 7) : Bool := decide (1 ≤ (b - a).toNat) && decide ((b - a).toNat ≤ 63)
def atOrBeyond (t boundary : BitVec 7) : Bool := decide (t = boundary) || older boundary t

def Thread.get (t : Thread) : Dest → Word
  | .s r => t.getS r
  | .x n => t.getX n
def Thread.put (t : Thread) (v : Word) : Dest → Thread
  | .s r => t.putS r v
  | .x n => t.putX n v

/-- The last writer of a register: the youngest entry of the window that writes it (R25, R46); a trap writes nothing. -/
def Thread.lastWriter (t : Thread) (d : Dest) : Option WEntry := t.window.reverse.find? fun e => decide (e.dest = some d)

/-- An operand at issue (R25). -/
def Thread.operand (t : Thread) (d : Dest) : Operand :=
  match t.lastWriter d with
  | none => ⟨d, t.get d, none⟩
  | some w => match w.stage, w.comp with
    | .window, .result v => ⟨d, v, none⟩
    | _, _ => ⟨d, 0, some w.tag⟩

/-- Every operand is present. -/
def WEntry.present (e : WEntry) : Bool := e.ops.all fun o => decide (o.await = none)

/-! ## The lane (R20, R29 to R37) -/

/-- The entries of both threads' commit windows. -/
def State.entries (s : State) : List (ThreadId × WEntry) := s.pri.window.map (Prod.mk .pri) ++ s.aux.window.map (Prod.mk .aux)

/-- Every entry of both windows changed by a function. -/
def State.mapEntries (f : ThreadId → WEntry → WEntry) (s : State) : State :=
  { s with pri := { s.pri with window := s.pri.window.map (f .pri) }, aux := { s.aux with window := s.aux.window.map (f .aux) } }

/-- An instruction packet stands in the main lane at a position. -/
def State.packetAt (s : State) (p : Nat) : Bool := s.entries.any fun x => decide (x.2.stage = .lane) && decide (x.2.pos = p)

/-- A completion packet stands in the lane at a position. -/
def State.slotTaken (s : State) (p : Nat) : Bool :=
  s.entries.any fun x => decide (x.2.stage = .completion) && decide (x.2.pos = p)

/-- The entry stands in the holding track at a position until its completion has entered the lane (R36). -/
def WEntry.inTrack (e : WEntry) (p : Nat) : Bool := (decide (e.stage = .track) || decide (e.stage = .buffer)) && decide (e.pos = p)

/-- A siding's track has a free entry. -/
def State.trackFree (s : State) (p : Nat) : Bool := decide ((s.entries.filter fun x => x.2.inTrack p).length < trackSize p)

/-- The last candidate siding of a packet (R21). -/
def WEntry.last (e : WEntry) : Nat := (sidings e.instr).getLastD 0

/-- A packet awaits a tag that its position presents (R37). -/
def State.presented (s : State) (t : ThreadId) (e : WEntry) : Bool :=
  (s.th t).window.any fun w => w.inTrack e.pos && e.ops.any fun o => decide (o.await = some w.tag)

/-- A packet stands held in the lane: at its last siding with a full track, or, below it, where a tag it awaits is presented
(R35, R37, R59). -/
def State.heldPacket (s : State) (t : ThreadId) (e : WEntry) : Bool :=
  decide (e.stage = .lane) && if e.pos = e.last then !s.trackFree e.pos else s.presented t e

/-- A raised kill binds an entry at once: nothing more of it happens (R44). -/
def Thread.doomed (t : Thread) (tag : BitVec 7) : Bool :=
  match t.raised with
  | some (b, _) => atOrBeyond tag b
  | none => false

/-- A packet that its siding accepts now (R29 phase 4, R35): every operand is present, or the siding is its last one. Once an
operation of the cycle has ended (phase 5), its dispatches are over. -/
def State.dispatches (s : State) (t : ThreadId) (e : WEntry) : Bool :=
  decide (e.stage = .lane) && !e.offer && (sidings e.instr).contains e.pos && (e.present || decide (e.pos = e.last)) &&
    s.trackFree e.pos && !s.core.cyc.accepted.contains e.pos && !s.core.cyc.ended && !(s.th t).doomed e.tag

/-- Some packet is still to dispatch in this cycle. -/
def State.dispatchDue (s : State) : Bool := s.entries.any fun x => s.dispatches x.1 x.2

/-! ## Capture and strike (R33) -/

/-- An operand awaiting a tag takes a completion's value. -/
def captureOps (tag : BitVec 7) (v : Word) (ops : List Operand) : List Operand :=
  ops.map fun o => if o.await = some tag then { o with value := v, await := none } else o

/-- A packet or track entry meets a completion with a value: it captures what awaits the tag. A packet that has its last
operand by an injection at one of its candidate sidings is offered there in the next cycle (R37, R137). -/
def WEntry.capture (c : WEntry) (v : Word) (injected : Bool) (w : WEntry) : WEntry :=
  if (w.stage = .lane ∨ w.stage = .track) ∧ w.pos = c.pos ∧ !w.present then
    let w' := { w with ops := captureOps c.tag v w.ops }
    { w' with offer := injected && decide (w.stage = .lane) && w'.present && (sidings w.instr).contains w.pos }
  else w

/-- A younger packet or track entry at the completion's position that writes the same register strikes it; an entry stands in
its track until its completion has entered the lane (R36). -/
def WEntry.strikes (c w : WEntry) : Bool :=
  (decide (w.stage = .lane) || w.inTrack c.pos) && decide (w.pos = c.pos) && decide (w.dest = c.dest) && older c.tag w.tag

/-- The completion with a tag of a thread meets the packet and the track entries at its position: each captures, and then a
younger writer of its register strikes it (R33, R34). A trap completion or a status drives no comparator. A struck
completion still supplies an entry that awaits it (log 28). -/
def meet (t : ThreadId) (tag : BitVec 7) (injected : Bool) (s : State) : State :=
  match (s.th t).window.find? (·.tag = tag) with
  | some c => match c.comp, c.dest with
    | .result v, some _ =>
      let l := (s.th t).window.map (c.capture v injected)
      if !c.struck && l.any c.strikes then
        (s.setTh t { (s.th t) with window := l.map fun w => if w.tag = tag then { w with struck := true } else w }).countHy 2 1
      else s.setTh t { (s.th t) with window := l }
    | _, _ => s
  | none => s

/-- The completion at a position, if any, meets what stands there. -/
def meetAt (p : Nat) (s : State) : State :=
  match s.entries.find? fun x => decide (x.2.stage = .completion) && decide (x.2.pos = p) with
  | some (t, c) => meet t c.tag false s
  | none => s

/-! ## Injection and the output buffers (R29, R30, R36) -/

/-- The completions that wait in the output buffer of a position, the oldest first. -/
def State.buffered (s : State) (p : Nat) : List (ThreadId × BitVec 7) :=
  (s.core.outBuf.filter fun x => decide (x.1 = p) && s.entries.any fun y =>
    decide (y.1 = x.2.1) && decide (y.2.tag = x.2.2) && decide (y.2.stage = .buffer)).map Prod.snd

/-- The entry with a tag of a thread changed by a function. -/
def State.onEntry (t : ThreadId) (tag : BitVec 7) (f : WEntry → WEntry) (s : State) : State :=
  s.setTh t { (s.th t) with window := (s.th t).window.map fun w => if w.tag = tag then f w else w }

/-- A completion enters the lane at its siding's position and meets what stands there. -/
def sendComp (t : ThreadId) (tag : BitVec 7) (s : State) : State :=
  meet t tag true (s.onEntry t tag fun w => { w with stage := .completion })

/-- The siding at a position has room for one more completion: in the lane slot, or in its two-entry output buffer. -/
def State.roomFor (s : State) (p : Nat) : Bool :=
  (!s.slotTaken p && decide (s.buffered p = [])) || decide ((s.buffered p).length < 2)

/-- The siding of an entry has started its operation in this cycle, which is one start of the cycle (R36), and it ends (R29). -/
def Cycle.ends (c : Cycle) (e : WEntry) : Cycle :=
  { c with started := if e.started then c.started else e.pos :: c.started, ended := true }

/-- The operation of an entry has ended with a completion: it is injected where the slot is empty and no older completion
waits, and goes to the output buffer otherwise (R29 phase 5). -/
def endOp (t : ThreadId) (e : WEntry) (s : State) : State :=
  let s0 := s.onEntry t e.tag fun w => { w with comp := e.comp, next := e.next, pos := e.pos, late := e.late }
  let s1 := { s0 with core := { s0.core with cyc := s0.core.cyc.ends e } }
  if !s.slotTaken e.pos && decide (s.buffered e.pos = []) then sendComp t e.tag s1
  else
    let s2 := s1.onEntry t e.tag fun w => { w with stage := .buffer }
    { s2 with core := { s2.core with outBuf := s2.core.outBuf ++ [(e.pos, t, e.tag)] } }

/-- The oldest completion in an output buffer is injected where the lane slot is empty. -/
def drain (p : Nat) (s : State) : State :=
  match s.buffered p with
  | (t, tag) :: _ => if s.slotTaken p then s else sendComp t tag s
  | [] => s

/-- A divider serves one operation at a time (R124). -/
def isDivide (i : Instr) : Bool :=
  match i with
  | .div .. | .divu .. | .rem .. | .remu .. => true
  | _ => false

/-- The entry that a branch or integer siding starts next (R36): the oldest one of its track, the primary thread's first,
whose operands are present and whose functional unit is free. -/
def State.nextStart (s : State) (p : Nat) : Option (ThreadId × BitVec 7) :=
  let busy := s.entries.any fun x => decide (x.2.stage = .track) && decide (x.2.pos = p) && x.2.started && isDivide x.2.instr
  (s.entries.find? fun x => decide (x.2.stage = .track) && decide (x.2.pos = p) && !x.2.started && x.2.present &&
    !(isDivide x.2.instr && busy)).map fun x => (x.1, x.2.tag)

/-- The positions whose sidings start operations by R36's rule; the others perform in program order. -/
def startingSidings : List Nat := [1, 2, 4, 6]

/-- A siding starts its next operation, unless it has started one in this cycle or its output buffer is full (R30, R36). -/
def startAt (p : Nat) (s : State) : State :=
  if s.core.cyc.started.contains p || decide (2 ≤ (s.buffered p).length) then s
  else match s.nextStart p with
    | some (t, tag) =>
      let s1 := s.onEntry t tag fun w => { w with started := true }
      { s1 with core := { s1.core with cyc := { s1.core.cyc with started := p :: s1.core.cyc.started } } }
    | none => s

/-! ## The end of a cycle, and kills (R29 phase 1, R42, R44, R45) -/

/-- The phases that a cycle still owes are done: the completion at F is accepted (phase 2), the packets that are due dispatch
(phase 4), and the sidings start and drain (phase 5). Nothing more happens in that cycle. -/
def closeCycle (s : State) : State :=
  if s.core.cyc.closed then s
  else
    let s1 := s.mapEntries fun t e =>
      if e.stage = .completion ∧ e.pos = 0 ∧ !(s.th t).doomed e.tag then { e with stage := .window }
      else if s.dispatches t e then { e with stage := .track } else e
    let s2 := startingSidings.foldl (fun a p => startAt p a) s1
    let s3 := (List.range 9).foldl (fun a p => drain p a) s2
    { s3 with core := { s3.core with cyc := { s3.core.cyc with ended := true, committed := true, closed := true } } }

/-- A thread that has ended, or was stopped by the end of its launch, or has no work. -/
def Thread.over (t : Thread) : Bool := decide (t.run = .ended) || decide (t.run = .stopped) || decide (t.run = .noWork)

/-- A trap completion stands at a thread's commit head, and no older kill is raised: the foot raises its kill (R42). -/
def Thread.trapDue (t : Thread) : Bool :=
  match t.window with
  | e :: _ => (match e.stage, e.comp with
    | .window, .trap .. => !t.doomed e.tag
    | _, _ => false)
  | [] => false

/-- A kill that discards a thread's whole window, applied in the next cycle's first phase (R29, R44), counted with what it discards
(R59). -/
def State.stopKill (t : ThreadId) (s : State) : State :=
  let s1 := closeCycle s
  (s1.countHy 3 1).countHy 4 (packets (s1.th t).window)

/-- The kill of a thread that a launch's end or its failure stops (R239, R377); a thread that is over is killed by none. -/
def State.killRunning (t : ThreadId) (s : State) : State := if (s.th t).over then s else s.stopKill t

end Sys2Proof.Machine
end

