-- ==== Sys2Proof/Machine/Store.lean ====
section
/-! DEFINITION. Sparse storage: an association list with strictly rising keys in which no entry equals the value an
unlisted key reads as. Memory, tags, poison, tiles and every other large store of State is one of these. -/

namespace Sys2Proof.Machine

/-- The value at a key: the listed one, or what an unlisted key reads as. -/
def sget {α : Type} (d : α) : List (Nat × α) → Nat → α
  | [], _ => d
  | (k, v) :: l, a => if a = k then v else if a < k then d else sget d l a

/-- The store with one key written; writing the unlisted value removes the entry. -/
def sput {α : Type} [DecidableEq α] (d : α) (a : Nat) (x : α) : List (Nat × α) → List (Nat × α)
  | [] => if x = d then [] else [(a, x)]
  | (k, v) :: l =>
    if a = k then (if x = d then l else (a, x) :: l)
    else if a < k then (if x = d then (k, v) :: l else (a, x) :: (k, v) :: l)
    else (k, v) :: sput d a x l

/-- The keys of a store rise strictly from a lower bound, and no entry holds the unlisted value. -/
def swf {α : Type} [DecidableEq α] (d : α) : Nat → List (Nat × α) → Bool
  | _, [] => true
  | lo, (k, v) :: l => decide (lo ≤ k) && decide (v ≠ d) && swf d (k + 1) l

/-- Remove every key of [lo, hi): those keys read as the unlisted value again. -/
def sclear {α : Type} (lo hi : Nat) : List (Nat × α) → List (Nat × α)
  | [] => []
  | (k, v) :: l => if lo ≤ k ∧ k < hi then sclear lo hi l else (k, v) :: sclear lo hi l

/-- A function applied to every element of a vector. -/
def vmap {α β : Type} {n : Nat} (f : α → β) (v : Vector α n) : Vector β n := ⟨(v.toList.map f).toArray, by simp⟩

/-- The vector of n elements given by index. -/
def vmk {α : Type} (n : Nat) (f : Nat → α) : Vector α n := ⟨((List.range n).map f).toArray, by simp⟩

end Sys2Proof.Machine
end

