-- ==== Sys2Proof/Machine/Ops.lean ====
section
/-! DEFINITION. The named operations over registers, memory, contexts and messages, and taking a trap. -/

namespace Sys2Proof.Machine

/-- A word of the constant bank (R25). -/
def State.kword (s : State) (i : Nat) : BitVec 32 := sget 0 s.core.k i

/-! ## Free values -/

/-- A free value of the model (log 7): the constant of Config applied to the counter. -/
def State.free (s : State) : Word := Config.freeValue s.freeCtr
/-- The counter advanced past a free value that was used. -/
def State.tickFree (s : State) : State := { s with freeCtr := s.freeCtr + 1 }

/-! ## Outcomes inside a meaning -/

/-- Why a meaning does not complete its instruction: a trap completion with its cause and address (R38), a wait at the
commit head, or a model fault. A trap carries its INFO word (R379); `engine` marks a fault of an engine command. -/
inductive Stop where
  | trap (cause : Nat) (addr info : Word) (s : State)
  | park (w : Wake) (s : State)
  | fault (f : Fault)

/-- A computation with a value and the state after it, or a stop. -/
abbrev Res (α : Type) := Except Stop α

def trapAt {α : Type} (cause : Nat) (addr : Word) (s : State) : Res α := .error (.trap cause addr 0 s)
/-- The trap of a consumption of poison, with the key of the first bad byte (R437). -/
def trapBad {α : Type} (va : Word) (key : Nat) (s : State) : Res α := .error (.trap 0x05 va (BitVec.ofNat 64 key) s)
def parkOn {α : Type} (kind : Nat) (addr operand : Word) (s : State) : Res α :=
  .error (.park ⟨kind, false, 0, addr, operand⟩ s)

/-! ## Physical bytes -/

/-- The canonical form of memory: addresses strictly rising, and no entry equal to what an unlisted one reads as. -/
abbrev Memory.wf (m : List Host.Cell) : Bool := swf 0 0 m

/-- The byte at a key of memory (the key layout is that of `Loc.key`). -/
def State.byte (s : State) (k : Nat) : Byte := sget 0 s.mem k
def State.setByte (s : State) (k : Nat) (b : Byte) : State := { s with mem := sput 0 k b s.mem }

/-- n bytes from a key on, in ascending order. -/
def State.bytes (s : State) (k : Nat) : Nat → List Byte
  | 0 => []
  | n + 1 => s.byte k :: s.bytes (k + 1) n
def State.setBytes (s : State) (k : Nat) : List Byte → State
  | [] => s
  | b :: l => (s.setByte k b).setBytes (k + 1) l

/-- The little-endian number of some bytes (R2). -/
def leNat : List Byte → Nat
  | [] => 0
  | b :: l => b.toNat + 256 * leNat l
/-- The n little-endian bytes of a number (R2). -/
def leBytes : Nat → Nat → List Byte
  | 0, _ => []
  | n + 1, v => BitVec.ofNat 8 v :: leBytes n (v / 256)

/-- The little-endian number of n bytes at a key. -/
def State.num (s : State) (k n : Nat) : Nat := leNat (s.bytes k n)
def State.setNum (s : State) (k n v : Nat) : State := s.setBytes k (leBytes n v)
def State.word (s : State) (k : Nat) : Word := BitVec.ofNat 64 (s.num k 8)
def State.setWord (s : State) (k : Nat) (v : Word) : State := s.setNum k 8 v.toNat

/-- The full/empty tag of the word that holds a key (R16, R155). -/
def State.tag (s : State) (k : Nat) : Bool := sget false s.tags (k / 8)
def State.setTag (s : State) (k : Nat) (b : Bool) : State := { s with tags := sput false (k / 8) b s.tags }
/-- The poison mark of the word that holds a key (R436). -/
def State.poisoned (s : State) (k : Nat) : Bool := sget false s.poison (k / 8)
def State.setPoison (s : State) (k : Nat) (b : Bool) : State := { s with poison := sput false (k / 8) b s.poison }

/-! ## Locations -/

/-- A location after classification and translation (R140, R264): a scratchpad byte of a logical core of a context, a
byte of HBM, of host memory (with its page's ACE bit) or of a peer's memory. -/
inductive Loc where
  | scratch (ctx x y off : Nat)
  | hbm (pa : Nat)
  | host (pa : Nat) (counted : Bool)
  | peer (port pa : Nat)
  deriving DecidableEq, Repr

/-- The key of a location in the one store that holds all memory. HBM keys are physical addresses. -/
def Loc.key : Loc → Nat
  | .hbm p => p
  | .host p _ => 2 ^ 60 + p
  | .peer n p => 2 ^ 61 + n * 2 ^ 52 + p
  | .scratch c x y o => 2 ^ 62 + c * 2 ^ 29 + y * 2 ^ 24 + x * 2 ^ 19 + o

def Loc.isScratch : Loc → Bool
  | .scratch .. => true
  | _ => false

/-- The location n bytes on. -/
def Loc.add (n : Nat) : Loc → Loc
  | .hbm p => .hbm (p + n)
  | .host p a => .host (p + n) a
  | .peer q p => .peer q (p + n)
  | .scratch c x y o => .scratch c x y (o + n)

/-- The size of HBM (R16). -/
def hbmSize : Nat := 2 ^ 39

/-! ## Contexts -/

/-- Word w of the descriptor of context c (R372). -/
def State.desc (s : State) (c w : Nat) : Word := s.word (s.ctxBase.toNat + 128 * c + 8 * w)

/-- Bits [lo+n-1:lo] of a word, as a number. -/
def bits (w : Word) (lo n : Nat) : Nat := w.toNat / 2 ^ lo % 2 ^ n

/-- The number of the context that the core runs. -/
def State.ctxNo (s : State) : Nat := s.core.ctx.getD 0

/-- PRIV of the running context's descriptor (R372). -/
def State.priv (s : State) : Bool :=
  match s.core.ctx with
  | some c => decide (bits (s.desc c 0) 1 1 = 1)
  | none => false

/-- Width and height of a context's torus (R372). -/
def State.torusW (s : State) (c : Nat) : Nat := bits (s.desc c 1) 24 5 + 1
def State.torusH (s : State) (c : Nat) : Nat := bits (s.desc c 1) 29 5 + 1

/-- The remap entry of the logical cluster of core (x, y), as the routers hold it (R13, R373). -/
def State.remap (s : State) (c x y : Nat) : Nat := sget 0 s.rmap (c * 256 + 16 * (y / 2) + x / 2)

/-- The entry in the context's remap table in HBM, which RUN and RESUME write into the routers (R375, R390). -/
def State.tableRemap (s : State) (c x y : Nat) : Nat := s.num ((s.desc c 2).toNat + 2 * (16 * (y / 2) + x / 2)) 2

/-- The routers of a context take its remap table. -/
def State.writeRemap (s : State) (c : Nat) : State :=
  { s with rmap := (List.range 256).foldl (fun a k => sput 0 (c * 256 + k) (s.tableRemap c (2 * (k % 16)) (2 * (k / 16))) a) s.rmap }

/-- A logical core exists: inside the torus, with a valid remap entry (R143, R373). -/
def State.corePresent (s : State) (c x y : Nat) : Bool :=
  decide (x < s.torusW c) && decide (y < s.torusH c) && decide (s.remap c x y / 2 ^ 15 = 1)

/-- Logical core (x, y) of the running context is this core. -/
def State.isSelf (s : State) (x y : Nat) : Bool := decide (x = s.core.lx.val) && decide (y = s.core.ly.val)

/-- Two logical cores lie in one logical cluster (R11, R266). -/
def sameCluster (x y x' y' : Nat) : Bool := decide (x / 2 = x' / 2) && decide (y / 2 = y' / 2)

/-- The physical cluster of a physical core (R11). -/
def clusterOf (phys : Nat) : Nat := phys / 256 % 4 * 64 + phys / 16 % 16 / 2 * 8 + phys % 16 / 2

/-- The physical core of a cluster that hosts a logical core. -/
def physOf (cluster x y : Nat) : Nat :=
  cluster / 64 * 256 + (cluster / 8 % 8 * 2 + y % 2) * 16 + cluster % 8 * 2 + x % 2

/-- The physical core that a context's logical core maps to (R13). -/
def State.physAt (s : State) (c x y : Nat) : Nat :=
  if s.core.ctx = some c ∧ s.isSelf x y then s.core.phys else physOf (s.remap c x y % 256) x y

/-- The clock of the cluster that hosts a logical core is stopped: its bank ports, its event unit and its endpoints do nothing
(R407). -/
def State.coreStopped (s : State) (c x y : Nat) : Bool :=
  decide (s.power.stopped ≠ 0) && s.power.stopped.getLsbD (clusterOf (s.physAt c x y))

/-- The clock of this core's cluster is stopped. -/
def State.clockStopped (s : State) : Bool := s.power.stopped.getLsbD (clusterOf s.core.phys)

/-- The physical core of a logical core of the running context. -/
def State.physCore (s : State) (x y : Nat) : Nat := s.physAt s.ctxNo x y

/-- A counter of a context's accounting domain advances (R419). -/
def State.accountCtx (s : State) (c word n : Nat) : State :=
  let k := bits (s.desc c 1) 16 8 * 16 + word
  { s with power := { s.power with acct := sput 0 k (sget 0 s.power.acct k + BitVec.ofNat 64 n) s.power.acct } }
def State.account (s : State) (word n : Nat) : State := s.accountCtx s.ctxNo word n

/-- Payload bytes of the running context that cross Kararlink-H (word 9) or Kararlink-P (word 10) (R419); `moved` keeps those of each
domain since the last ENERGY_ATTRIBUTION. -/
def State.payload (s : State) (word n : Nat) : State :=
  if n = 0 then s
  else
    let d := bits (s.desc s.ctxNo 1) 16 8
    let s1 := s.account word n
    { s1 with power := { s1.power with moved := sput 0 d (sget 0 s1.power.moved d + n) s1.power.moved } }

/-- n payload bytes of an access to a location. -/
def State.linkBytes (s : State) (n : Nat) : Loc → State
  | .host .. => s.payload 9 n
  | .peer .. => s.payload 10 n
  | _ => s

/-- A pre-emption of the running context is pending (R387). -/
def State.saving (s : State) : Bool :=
  s.ctxs.any fun p => decide (some p.1 = s.core.ctx) && decide (p.2.state = .saving)

/-! ## Launches -/

/-- A launch the device holds. -/
def State.launch? (s : State) (id : Nat) : Option Launch := s.launches.find? (·.id = id)
/-- The launch that the core runs. -/
def State.myLaunch (s : State) : Option Launch := s.core.launch.bind s.launch?
def State.setLaunch (s : State) (l : Launch) : State :=
  { s with launches := s.launches.map fun x => if x.id = l.id then l else x }

/-- The scratch allotment of a launch in bytes (R141, R353). -/
def Launch.scratchBytes (l : Launch) : Nat := bits l.packet[11] 16 10 * 1024

/-- Width, height and origin of a launch's rectangle (R353). -/
def Launch.w (l : Launch) : Nat := bits l.packet[4] 18 6
def Launch.h (l : Launch) : Nat := bits l.packet[4] 24 6
def Launch.ox (l : Launch) : Nat := bits l.packet[4] 0 5
def Launch.oy (l : Launch) : Nat := bits l.packet[4] 5 5

/-- The logical core at launch coordinates (R235). -/
def State.rectCore (s : State) (l : Launch) (a b : Nat) : Nat × Nat :=
  ((l.ox + a) % s.torusW l.ctx, (l.oy + b) % s.torusH l.ctx)

/-- P: the cores of the rectangle. -/
def Launch.cores (l : Launch) : Nat := l.w * l.h

/-- The launch index of this core. -/
def State.launchIndex (s : State) : Nat := bits s.core.lnPos 20 10

/-- A launch is in its clusters. -/
def Launch.resident (l : Launch) : Bool := decide (l.phase = .running) || decide (l.phase = .ending)

/-- A launch names logical cluster (cx, cy) of its context (R235). -/
def State.holdsCluster (s : State) (l : Launch) (cx cy : Nat) : Bool :=
  (List.range l.w).any (fun a => decide ((s.rectCore l a 0).1 / 2 = cx)) &&
    (List.range l.h).any (fun b => decide ((s.rectCore l 0 b).2 / 2 = cy))

/-- A launch has taken residency on logical cluster (cx, cy) (R355, R358). -/
def State.holds (s : State) (l : Launch) (cx cy : Nat) : Bool :=
  l.resident && s.holdsCluster l cx cy && !l.waits.contains (cx, cy)

/-- The local offsets of the running launch's allotment; all 512 KiB where no launch runs. -/
def State.allotment (s : State) : Nat := (s.myLaunch.map Launch.scratchBytes).getD 524288

/-- SCR.ERR records the first out-of-range access (R142). -/
def State.noteRange (s : State) (cause : Nat) (addr : Word) : State :=
  if s.core.scrErr.getLsbD 63 then s
  else { s with core := { s.core with
    scrErr := BitVec.ofNat 64 (2 ^ 63 + cause % 8 * 2 ^ 56 + addr.toNat % 2 ^ 56) } }

/-! ## Control registers of one bit or field -/

/-- Bit n of a word set or cleared. -/
def setBit (w : Word) (n : Nat) (b : Bool) : Word :=
  if b then w ||| BitVec.ofNat 64 (2 ^ n) else w &&& ~~~ BitVec.ofNat 64 (2 ^ n)

/-- HMODE of TRAP.HST: the auxiliary thread is in handler mode (R382). -/
def Core.hmode (c : Core) : Bool := c.trapHst.getLsbD 63
/-- LMODE of CX.LPC: the auxiliary thread is in loader mode (R231). -/
def Core.lmode (c : Core) : Bool := c.cxLpc.getLsbD 63
/-- PEND of CX.MISS (R231). -/
def Core.pend (c : Core) : Bool := c.cxMiss.getLsbD 63

/-- The performing thread is in handler mode. -/
def State.inHandler (s : State) : Bool := decide (s.cur = .aux) && s.core.hmode
/-- The performing thread is in loader mode. -/
def State.inLoader (s : State) : Bool := decide (s.cur = .aux) && s.core.lmode && !s.core.hmode

/-- Whose code the performing thread runs. -/
def State.mode (s : State) : Mode := if s.inHandler then .handler else if s.inLoader then .loader else .work

/-! ## Messages (R379, R380) -/

/-- The parts of a trap message that differ from message to message. -/
structure MsgParts where
  cause : Nat
  term : Bool
  thr : Bool
  eng : Bool
  nest : Bool
  tag : Nat
  jv : Bool
  jidx : Nat
  pc : Word
  addr : Word
  info : Word

/-- A trap message of this core (R379). -/
def State.mkMsg (s : State) (p : MsgParts) : Msg :=
  let bit (b : Bool) (n : Nat) : Nat := if b then 2 ^ n else 0
  let w0 := p.cause % 256 + bit p.term 8 + bit p.thr 9 + bit p.eng 10 + bit p.nest 11 + p.tag % 128 * 2 ^ 16 +
    p.jidx % 16 * 2 ^ 24 + bit p.jv 28 + bits s.core.lnPos 20 10 * 2 ^ 32 + s.core.lx.val * 2 ^ 42 +
    s.core.ly.val * 2 ^ 47
  let w4 := match s.myLaunch with
    | some l => l.slot % 65536 * 2 ^ 32 + l.queue % 64
    | none => 0
  #v[BitVec.ofNat 64 w0, p.pc, p.addr, p.info, BitVec.ofNat 64 w4, 0, 0, 0]

/-- Handler core i of a context: its coordinates where it is valid (R372). -/
def State.handler? (s : State) (c i : Nat) : Option (Nat × Nat) :=
  let h := bits (s.desc c 6) (11 * i) 11
  if h / 1024 = 1 then some (h % 32, h / 32 % 32) else none

/-- The first valid handler from index i on. -/
def State.firstHandler (s : State) (c i : Nat) : Option (Nat × Nat × Nat) :=
  ([0, 1, 2, 3].filter (i ≤ ·)).findSome? fun j => (s.handler? c j).map fun p => (j, p.1, p.2)

/-- A message goes to a handler core: into this core's queue, or out to another core (log 1). -/
def State.post (s : State) (h : Nat × Nat × Nat) (m : Msg) : State :=
  if s.isSelf h.2.1 h.2.2 then { s with core := { s.core with hq := s.core.hq ++ [m], hqPos := s.core.hqPos ++ [h.1] } }
  else { s with outbox := s.outbox ++ [(h.1, m)] }

/-- A record enters the log, a ring of 65,536 (R425). -/
def State.addLog (s : State) (k : Config.LogKind) (source : Nat) (detail : List Word) : State :=
  let r : LogRec := ⟨s.mgmt.logNext, s.mgmt.standby, k, source, detail⟩
  { s with mgmt := { s.mgmt with log := (r :: s.mgmt.log).take 65536, logNext := s.mgmt.logNext + 1 } }

/-- The physical address of the word that holds a key; of one in an SRAM of a core the spec states none (log 49). -/
def State.physWord (s : State) (key : Nat) : Word :=
  let k := key / 8 * 8
  if k < 2 ^ 60 then BitVec.ofNat 64 k
  else if k < 2 ^ 61 then BitVec.ofNat 64 (k - 2 ^ 60)
  else if k < 2 ^ 62 then BitVec.ofNat 64 ((k - 2 ^ 61) % 2 ^ 52)
  else s.free

/-- The record of a consumption of poison (R437), with the physical address of the first word consumed. -/
def State.logPoison (s : State) (cause key : Nat) : State :=
  if cause = 0x05 then s.tickFree.addLog .poisonConsumed s.core.phys [s.physWord key] else s

/-- A message of a terminal trap in a context: to its first valid handler, or to the log where there is none (R380, R381). -/
def State.sendFor (s : State) (c : Nat) (m : Msg) : State :=
  match s.firstHandler c 0 with
  | some h => if s.core.ctx = some c then s.post h m else { s with outbox := s.outbox ++ [(h.1, m)] }
  | none => s.addLog .trapMessage s.core.phys (m.toList.take 5)
def State.sendTerminal (s : State) (m : Msg) : State := s.sendFor s.ctxNo m

/-! ## Slaved groups (R49 to R52) -/

/-- The performing thread follows a leader's stream (R49). -/
def State.attached (s : State) : Bool := decide (s.cur = .pri) && decide (s.core.slave.role = .attached)
/-- The performing thread leads a slaved group (R49). -/
def State.leads (s : State) : Bool := decide (s.cur = .pri) && decide (s.core.slave.role = .leader)

/-- The core with its slaving changed. -/
def State.setSlave (s : State) (k : Slaving) : State := { s with core := { s.core with slave := k } }

/-- A leader's stream carries one more item, which its log keeps until the followers have used it (R52). -/
def State.forward (i : LogItem) (s : State) : State :=
  if s.leads then s.setSlave { s.core.slave with log := s.core.slave.log ++ [i] } else s

/-- An attached follower's position in the forward log: the first instruction it has not committed (R386 kind 17). -/
def Slaving.position (k : Slaving) : Word :=
  BitVec.ofNat 64 (match k.stream with
    | f :: _ => f.seq
    | [] => k.arrived)

/-- The wait of a primary thread that has nothing to issue: an attached follower without a forwarded instruction, or a leader
with a full forward log (R52). Its instruction has not been issued. -/
def State.starveWake (s : State) : Wake := ⟨17, false, 2, 0, if s.attached then s.core.slave.position else 0⟩
def Wake.starved (w : Wake) : Bool := decide (w.kind = 17) && decide (w.aux = 2)
/-- A page wait of an instruction fetch (R386 kind 12; FETCH of R396). -/
def Wake.ofFetch (w : Wake) : Bool := decide (w.kind = 12) && w.operand.getLsbD 5
/-- A wait before the thread's instruction is issued: it has nothing to issue, or its fetch waits. -/
def Wake.unissued (w : Wake) : Bool := w.starved || w.ofFetch
/-- What remains of a page wait whose access walks again (R396): an instruction that was not issued is fetched anew, and one
that was is performed again under its own tag. -/
def Wake.walks (w : Wake) : Wake := if w.unissued then Wake.none else ⟨32, false, 0, w.addr, 0⟩

/-- The parcels that a leader's forward log holds (R52). -/
def Slaving.parcels (k : Slaving) : Nat :=
  k.log.foldl (fun n i => match i with
    | .parcels _ m => n + m
    | _ => n) 0

/-- A follower's first forwarded instruction is committed. -/
def Slaving.pop (k : Slaving) : Slaving := { k with stream := k.stream.drop 1 }
def State.popFwd (s : State) : State := if s.attached then s.setSlave s.core.slave.pop else s

/-! ## Issues (R22, R24, R59) -/

/-- An issue of a thread: counted (R59), and the cycles since the auxiliary thread last issued, up to the seven that R24
asks for. -/
def State.noteIssue (s : State) (t : ThreadId) : State :=
  { s.countHy (match t with
    | .pri => 0
    | .aux => 1) 1 with auxIdle := match t with
      | .aux => 0
      | .pri => Nat.min 7 (s.auxIdle + 1) }

/-- The performing thread issues an instruction, which has the tag after the last surviving one (R22). -/
def State.newTag (s : State) : State :=
  let s1 := s.noteIssue s.cur
  s1.setMe { s1.me with
    lastTag := s.me.lastTag + 1, rebuild := 0, anew := false
    wake := if s.me.wake.unissued then Wake.none else s.me.wake }

/-! ## Kills and the end of a launch by a fault (R44, R377) -/

/-- An instruction stands uncommitted at the thread's commit head and waits there. -/
def Thread.waits (t : Thread) : Bool := decide (t.run = .running) && decide (t.wake.kind ≠ 0) && !t.wake.unissued && !t.anew

/-- The last tag that survives when everything uncommitted is discarded (R22); an instruction that waits outside the window holds
the last one. -/
def Thread.lastKept (t : Thread) : BitVec 7 :=
  match t.window with
  | [] => if t.waits then t.lastTag - 1 else t.lastTag
  | e :: _ => e.tag - 1

/-- The tag of the commit head: the oldest of the window, or the last tag where the instruction is performed outside it. -/
def Thread.headTag (t : Thread) : BitVec 7 := (t.window.head?.map WEntry.tag).getD t.lastTag

/-- What a kill at the commit head leaves of a thread (R22, R44, R46, R53, R173): its window is empty, its last-writer table
is rebuilt over two cycles, its pending vector results count as produced and its nominal schedule starts again. -/
def Thread.killed (t : Thread) : Thread :=
  { t with
    window := []
    lastTag := t.lastKept
    rebuild := 2
    hold := false
    raised := none
    nom := none
    wake := Wake.none
    retry := false
    reply := none
    v := vmap (fun r => { r with hist := [], pend := if r.hist = [] then r.pend else none }) t.v
    m := vmap (fun r => { r with hist := [] }) t.m }

/-- The journal entries that a launch's code took are freed (R377 step 2); a handler's own stay. -/
def Thread.freeJournal (t : Thread) : Thread :=
  { t with
    journal := vmap (fun e => if e.mode = .handler then e else { e with state := .free }) t.journal
    refused := t.refused.filter fun j => decide (t.journal[j].mode = .handler) }

/-- A thread whose launch ends by a fault (R377 steps 1 and 2). -/
def Thread.ended (t : Thread) : Thread := { t.killed.freeJournal with run := .stopped }

/-- An engine without the unstarted commands of a launch (R206, R377); those of a handler stay. -/
def Engine.discard (e : Engine) : Engine := { e with queue := e.queue.filter Cmd.handler }

/-- An engine after a launch, or before one: only what a handler has given it is left. -/
def Engine.ofHandler (e : Engine) : Engine :=
  if e.running.any Cmd.handler then e.discard else { Engine.reset with queue := e.queue.filter Cmd.handler }

/-- The range locks of the commands that the engines hold (R293), and those of other cores' commands. -/
def keepLocks (m c : Engine) (l : List Lock) : List Lock :=
  l.filter fun k => k.far || (m.running.toList ++ m.queue ++ c.running.toList ++ c.queue).any fun q => decide (q.id = k.cmd)

/-- The kills of the threads of this core's launch (R239, R377): its auxiliary thread is not stopped while it runs a handler. -/
def State.killLaunchThreads (s : State) : State :=
  let s1 := s.killRunning .pri
  if s.core.hmode then s1 else s1.killRunning .aux

/-- Steps 1 and 2 of R377 on this core, for the launch that it runs. -/
def State.stopLaunchHere (s0 : State) (id : Nat) : State :=
  let s := s0.killLaunchThreads
  { s with
    tasks := s.tasks.filter fun p => match p.2 with
      | some t => t.launch ≠ some id
      | none => true
    pri := s.pri.ended
    aux := if s.core.hmode then s.aux.freeJournal else s.aux.ended
    core := { s.core with
      mat := s.core.mat.discard
      cpy := s.core.cpy.discard
      locks := keepLocks s.core.mat.discard s.core.cpy.discard s.core.locks
      loaderWanted := false
      mseq := { s.core.mseq with running := false }
      cseq := { s.core.cseq with running := false } } }

/-- A launch that fails ends with the status, detail and INFO of its first failure (R356). -/
def State.markFailed (s : State) (id : Nat) (f : Nat × Nat × Nat) : State :=
  { s with launches := s.launches.map fun l =>
      if l.id = id then { l with phase := .ending, fault := l.fault <|> some f } else l }

/-- Steps 1 and 2 of R377 for a launch that fails. A core whose clock is stopped does nothing of it before it restarts (R407). -/
def State.failLaunch (s : State) (id : Nat) (f : Nat × Nat × Nat) : State :=
  if s.core.launch = some id ∧ !s.clockStopped then (s.markFailed id f).stopLaunchHere id else s.markFailed id f

/-- A launch that ends by a terminal fault: status 2 with the cause (R377). -/
def State.killLaunch (s : State) (id cause info : Nat) : State := s.failLaunch id (2, cause, info)

/-! ## Taking a trap (R42, R376 to R381, R229, R295) -/

/-- The INFO word of a status for a fault of a thread of this core (R356). -/
def State.statusInfo (s : State) (t : ThreadId) : Nat :=
  bits s.core.lnPos 20 10 + (if t = .aux then 1024 else 0)

/-- A trap message of the performing thread. -/
def State.threadMsg (s : State) (cause : Nat) (term : Bool) (addr info : Word) : Msg :=
  s.mkMsg ⟨cause, term, decide (s.cur = .aux), false, false, s.me.lastTag.toNat, false, 0, s.pc, addr, info⟩

/-- A terminal trap of the performing thread (R377): a message, and the launch ends. -/
def takeTerminal (cause : Nat) (addr : Word) (s : State) : State :=
  let s1 := s.sendTerminal (s.threadMsg cause true addr 0)
  let s2 := s1.setMe s1.me.ended
  match s.core.launch with
  | some id => s2.killLaunch id cause (s.statusInfo s.cur)
  | none => s2

/-- The launch of the running context that a message names: its queue and slot index (R379). -/
def State.msgLaunch (s : State) (m : Msg) : Option Nat :=
  (s.launches.find? fun l => decide (l.ctx = s.ctxNo) && decide (l.queue = bits m[4] 0 6) &&
    decide (l.slot % 65536 = bits m[4] 32 16) && decide (l.phase ≠ .ended)).map Launch.id

/-- The INFO of a status for the thread that a message names (R356): its launch index and the auxiliary bit; 0 for a fault
of the event fabric. -/
def msgInfo (m : Msg) : Nat :=
  if m[0].getLsbD 23 then 0 else bits m[0] 32 10 + (if m[0].getLsbD 9 then 1024 else 0)

/-- The first index of this core in the handler chain of the running context. -/
def State.handlerIndex (s : State) : Nat :=
  (([0, 1, 2, 3].find? fun i => match s.handler? s.ctxNo i with
    | some p => s.isSelf p.1 p.2
    | none => false).getD 0)

/-- This core halts with its cluster, or is stopped by a machine check (R380, R439): what its engines, sequencers and store queues
have under way is not performed any more (log 120). -/
def State.stopUnits (s : State) : State :=
  { s with
    pri := { s.pri with stq := [] }
    aux := { s.aux with stq := [] }
    core := { s.core with
      loaderWanted := false
      mat := Engine.reset, cpy := Engine.reset, locks := s.core.locks.filter Lock.far
      mseq := { s.core.mseq with running := false }, cseq := { s.core.cseq with running := false } } }

/-- A physical cluster has halted (R380). -/
def State.clusterHalted (s : State) (k : Nat) : Bool := s.mgmt.halted.any fun h => decide (h.2 = k)

/-- A context halts when its handler chain is exhausted (R380): the cluster k of the failed handler halts, the controller is
notified, and the running launches end; the INFO of their statuses names the launch's first core (log 78). -/
def State.haltCtx (s : State) (c k : Nat) : State :=
  let s1 := { s with
    ctxs := s.ctxs.map fun p => if p.1 = c then (p.1, { p.2 with state := .halted }) else p
    mgmt := { s.mgmt with halted := s.mgmt.halted ++ [(c, k)] } }
  let s2 := if k = clusterOf s.core.phys then s1.stopUnits else s1
  (s.launches.filter fun l => decide (l.ctx = c) && decide (l.phase = .running)).foldl
    (fun a l => a.killLaunch l.id 0x0E 0) s2

/-- A fault of the thread in handler mode (R380): handler mode ends, a service subject's launch ends, and a nested
message goes to the next handler after the one that the served message was sent to, or the context halts. -/
def handlerFault (cause : Nat) (addr : Word) (s : State) : State :=
  let old := s.core.trapMsg
  let m := s.mkMsg ⟨cause, true, true, false, true, s.aux.lastTag.toNat, false, 0, s.aux.pc, addr,
    BitVec.ofNat 64 (bits old[0] 0 8)⟩
  let s1 := { s with
    aux := { s.aux.killed with run := .noWork }
    core := { s.core with trapHst := setBit s.core.trapHst 63 false } }
  let s2 := if old[0].getLsbD 8 then s1 else
    match s.msgLaunch old with
    | some id => s1.killLaunch id 0x0E (msgInfo old)
    | none => s1
  match s.firstHandler s.ctxNo (s.core.trapPos + 1) with
  | some h => s2.post h m
  | none => s2.haltCtx s.ctxNo (clusterOf s.core.phys)

/-- A service trap of cause 0x10 or 0x11 of a thread (R378, R381): a message, and the subject stands in a trap wait, with the
address at which it resumes as its program counter (R382); its launch ends where no handler is valid. -/
def takeService (m : Msg) (cause : Nat) (t : ThreadId) (s : State) : State :=
  match s.firstHandler s.ctxNo 0 with
  | some h => (s.setTh t { (s.th t) with
      run := .trapWait, pc := (s.th t).pc + (if cause = 0x10 then 4 else 0) }).post h m
  | none =>
    let s1 := s.setTh t (s.th t).ended
    match s.core.launch with
    | some id => s1.killLaunch id cause (s.statusInfo t)
    | none => s1

/-- What remains of a wake record when its thread is stopped and the instruction is issued again later (R325, R378,
R387): waits that performed nothing leave none, and a queued LOCK joins its queue again. -/
def Wake.kept (w : Wake) : Wake :=
  if w.kind = 3 then { w with aux := 0 }
  else if w.kind = 15 ∨ w.kind = 16 ∨ 17 ≤ w.kind then Wake.none
  else w

/-- The thread stopped at its commit head (R47, R378): what its wake record keeps stands. An instruction at a blocking point, the
kinds 1 to 17 of R386, keeps its tag; at any other wait the kill's boundary is the tag itself, which is used again (R22). -/
def Thread.stopHere (t : Thread) : Thread :=
  { t.killed with
    wake := t.wake.kept
    lastTag := if t.waits ∧ t.wake.kind ≤ 17 then t.headTag else t.lastKept }

/-- The auxiliary thread is stopped for the loader and fetches from CX.LDR (R229). RPC is the thread's program counter, also where
IDLE is 1 and nothing is to be resumed (log 90). A save that had stopped the auxiliary thread takes it again at the loader's own blocking
points (R232). -/
def enterLoader (s : State) : State :=
  let idle := decide (s.aux.run = .noWork) || decide (s.aux.run = .ended) || decide (s.aux.run = .stopped)
  let tw := decide (s.aux.run = .trapWait)
  let lpc := BitVec.ofNat 64 (2 ^ 63 + (if idle then 2 ^ 62 else 0) + (if tw then 2 ^ 61 else 0) +
    s.aux.pc.toNat % 2 ^ 56)
  { s with
    aux := { s.aux.stopHere with run := .running, pc := s.core.cxLdr, wake := Wake.none, stopped := false }
    core := { s.core with cxLpc := lpc, loaderWake := s.aux.wake.kept, loaderWanted := false } }

/-- CX.MISS for a miss of the performing thread (R229). -/
def State.missRecord (s : State) (n : Nat) : Word :=
  BitVec.ofNat 64 (2 ^ 63 + (if s.cur = .aux then 2 ^ 62 else 0) + n % 64 * 2 ^ 56 + s.pc.toNat % 2 ^ 56)

/-- A burgee miss of the performing thread for a custom number (R229). -/
def takeMiss (n : Nat) (s : State) : State :=
  if s.core.cxLdr = 0 then takeTerminal 0x0A 0 s
  else if s.inLoader then takeTerminal 0x0B 0 s
  else if s.core.pend then s.setMe { s.me with run := .missWait, wake := ⟨15, false, 0, 0, 0⟩ }
  else
    let s1 := { s with core := { s.core with cxMiss := s.missRecord n } }
    match s.cur with
    | .aux => enterLoader s1
    | .pri => { s1 with
        pri := { s.pri with run := .missWait, wake := ⟨15, false, 0, 0, 0⟩ }
        core := { s1.core with loaderWanted := true } }

/-- Delivering a trap: the trap completion of the performing thread is at its commit head (R42). The kill discards the
instruction and everything younger, the tag it held is used again (R22), and the trap is delivered by its cause. -/
def deliverTrap (cause : Nat) (addr info : Word) (s : State) : State :=
  let s1 := ((s.setMe { s.me.killed with wake := s.me.wake }).countHy 3 1).logPoison cause info.toNat
  let back (x : State) : State := x.setTh s.cur { (x.th s.cur) with lastTag := s.me.lastTag - 1 }
  if cause = 0x12 then
    back (s1.setMe { s1.me with run := .lockWait, wake := ⟨33, false, 0, addr, info⟩ })
  else if s.inHandler then back (handlerFault cause addr s1)
  else if cause = 0x13 then back (takeMiss info.toNat s1)
  else if cause = 0x10 then back (takeService (s1.threadMsg 0x10 false addr info) 0x10 s.cur s1.popFwd)
  else back (takeTerminal cause addr s1)

/-- Taking a trap. An instruction that stands in the commit window receives a trap completion (R38), which its commit head
delivers later (R42); outside the window (log 3) the trap is delivered at once. -/
def takeTrap (cause : Nat) (addr info : Word) (s : State) : State :=
  match s.me.window with
  | [] => deliverTrap cause addr info s
  | e :: l => s.setMe { s.me with window := { e with comp := .trap cause addr info, stage := .window } :: l }

/-- A wait at the commit head (R41, R386): the instruction stays, its wake record stands, and it is performed again
when something has happened (log 6). -/
def parkThread (w : Wake) (s : State) : State := s.setMe { s.me with wake := w, retry := false }

/-- A slaved-group wait of kind 17 (R52). -/
def slaveWait {α : Type} (s : State) : Res α :=
  parkOn 17 0 (if s.attached then s.core.slave.position else 0) s

/-- A blocking-point instruction in an attached follower is performed only after its leader's perform mark; in a leader it
forwards one (R52). -/
def blocking (s : State) (r : Res State) : Res State :=
  if s.attached then
    if s.core.slave.marks = 0 then slaveWait s
    else r.map fun t => t.setSlave { t.core.slave with marks := t.core.slave.marks - 1 }
  else r.map (State.forward .mark)

/-- The outcome of a meaning from its computation. -/
def finish (r : Res State) : Host.Outcome State Fault Refusal :=
  match r with
  | .ok s => .next s
  | .error (.trap c a i s) => .next (takeTrap c a i s)
  | .error (.park w s) => .next (parkThread w s)
  | .error (.fault f) => .fault f

end Sys2Proof.Machine
end

