-- ==== Sys2Proof/Machine/Memory.lean ====
section
/-! DEFINITION. Where an address leads (R140 to R143), translation (R393 to R396), the L1 data cache (R263) and the
plain, uncached and tagged accesses of the memory siding (R144 to R158). -/

namespace Sys2Proof.Machine

/-! ## Page tables (R393, R394) -/

/-- What an access needs of a page (R394). -/
structure Need where
  r : Bool
  w : Bool
  x : Bool

def Need.load : Need := ⟨true, false, false⟩
def Need.store : Need := ⟨false, true, false⟩
def Need.amo : Need := ⟨true, true, false⟩
def Need.fetch : Need := ⟨false, false, true⟩

/-- The levels of a walk below a node: the low bit and width of the index, and the size of the node below (R393). -/
def walkLevels : List (Nat × Nat × Nat) := [(43, 13, 65536), (30, 13, 4096), (21, 9, 256), (16, 5, 1)]

/-- A page-table entry is malformed at level `lv` with index low bit `lo` and next node size `nsz` (R393). -/
def malformed (e : Word) (lv lo nsz : Nat) : Bool :=
  let leaf := e.getLsbD 1
  let pa := bits e 8 44 * 256
  decide (bits e 57 7 ≠ 0) || (leaf && decide (lv = 1)) || (!leaf && decide (lv = 4)) ||
    decide (pa % (if leaf then 2 ^ lo else nsz) ≠ 0) || decide (bits e 5 2 = 3) || decide (11 < bits e 53 4)

/-- The walk from a node on: a leaf entry, or the REASON of its failure (1 not present, 2 malformed, R396). -/
def walkFrom (s : State) (c va : Nat) : List (Nat × Nat × Nat) → Nat → Nat → Except Nat TlbEntry
  | [], _, _ => .error 2
  | (lo, n, nsz) :: rest, lv, node =>
    let e := s.word (node + 8 * (va / 2 ^ lo % 2 ^ n))
    if !e.getLsbD 0 then .error 1
    else if malformed e lv lo nsz then .error 2
    else if e.getLsbD 1 then
      .ok ⟨c, va / 2 ^ lo * 2 ^ lo, 2 ^ lo, bits e 8 44 * 256, bits e 5 2, bits e 53 4, e.getLsbD 52, e.getLsbD 7,
        e.getLsbD 4, e.getLsbD 3, e.getLsbD 2⟩
    else walkFrom s c va rest (lv + 1) (bits e 8 44 * 256)

/-- The walk of a context's page table for an address (R393). -/
def State.walk (s : State) (c va : Nat) : Except Nat TlbEntry :=
  walkFrom s c va walkLevels 1 (bits (s.desc c 0) 16 36 * 65536)

/-- A TLB entry maps an address of a context. -/
def TlbEntry.maps (e : TlbEntry) (c va : Nat) : Bool :=
  decide (e.ctx = c) && decide (e.base ≤ va) && decide (va < e.base + e.size)

/-- The entry that translates an address, in the nearest TLB that holds it or in the page table. -/
def State.entryAt (s : State) (c va : Nat) (fetch : Bool) : Option TlbEntry :=
  (if fetch then s.core.itlb else s.core.dtlb).find? (·.maps c va) <|> s.clusterTlb.find? (·.maps c va) <|>
    s.dieTlb.find? (·.maps c va) <|> (match s.walk c va with
      | .ok e => some e
      | .error _ => none)

/-- An entry of a context maps a byte of a range; a length of 0 names the whole context. -/
def TlbEntry.meets (e : TlbEntry) (c base len : Nat) : Bool :=
  decide (e.ctx = c) && (decide (len = 0) || (decide (e.base < base + len) && decide (base < e.base + e.size)))

/-- A shoot-down blocks an access to an address: its range meets the entry of that address, or holds the address where no entry
translates it (R398). -/
def Shoot.blocks (h : Shoot) (c va : Nat) (write : Bool) (e : Option TlbEntry) : Bool :=
  decide (h.ctx = c) && (decide (h.len = 0) || (decide (h.base ≤ va) && decide (va < h.base + h.len)) ||
    e.any fun x => x.meets c h.base h.len) && (!h.migration || write)

/-- An address stands behind a blocked entry. -/
def State.blocked (s : State) (c va : Nat) (write fetch : Bool) : Bool :=
  s.shoots.toList.any fun o => match o with
    | some h => h.blocks c va write (s.entryAt c va fetch)
    | none => false

/-- Translation by the core's TLB, the cluster's, the die's, then by a walk; a walked leaf enters all three (R395). A TLB that
is full gives up the entry it took in longest ago: the spec names no replacement policy (log 82). -/
def State.translate (s : State) (c va : Nat) (fetch : Bool) : Except Nat (TlbEntry × State) :=
  let core := if fetch then s.core.itlb else s.core.dtlb
  let cap := if fetch then 32 else 64
  let fill (e : TlbEntry) : State :=
    if fetch then { s with core := { s.core with itlb := (e :: s.core.itlb).take cap } }
    else { s with core := { s.core with dtlb := (e :: s.core.dtlb).take cap } }
  match core.find? (·.maps c va) with
  | some e => .ok (e, s)
  | none =>
  match s.clusterTlb.find? (·.maps c va) with
  | some e => .ok (e, fill e)
  | none =>
  match s.dieTlb.find? (·.maps c va) with
  | some e => .ok (e, { fill e with clusterTlb := (e :: s.clusterTlb).take 2048 })
  | none =>
  match s.walk c va with
  | .ok e => .ok (e, { fill e with
      clusterTlb := (e :: s.clusterTlb).take 2048, dieTlb := (e :: s.dieTlb).take 16384 })
  | .error r => .error r

/-- The location an entry gives an address. -/
def TlbEntry.loc' (e : TlbEntry) (va : Nat) : Loc :=
  let p := e.pa + (va - e.base)
  if e.loc = 0 then .hbm p else if e.loc = 1 then .host p e.ace else .peer e.peer p

/-! ## Fault records (R396) -/

/-- The flags a fault record and the wake record of a page wait carry: WRITE, FETCH and ENGINE. -/
structure FaultKind where
  write : Bool
  fetch : Bool
  engine : Bool

def FaultKind.code (k : FaultKind) : Nat :=
  (if k.write then 16 else 0) + (if k.fetch then 32 else 0) + (if k.engine then 64 else 0)

/-- Room in a queue of the layout of R396 at an HBM address: its next record index. -/
def State.queueRoom (s : State) (q : Nat) : Option Nat :=
  let tail := s.num q 8
  if tail - s.num (q + 8) 8 < 2 ^ (s.num (q + 16) 8 % 16) then some (tail % 2 ^ (s.num (q + 16) 8 % 16)) else none

/-- A record of four words posted to such a queue: words 1 to 3, then word 0 with its tag full; REPLY's tag is left
empty for the software's answer (log 17). -/
def State.postRecord (s : State) (q slot : Nat) (w0 w1 w2 w3 : Nat) : State :=
  let r := q + 64 + 32 * slot
  let s1 := ((s.setNum (r + 8) 8 w1).setNum (r + 16) 8 w2).setNum (r + 24) 8 w3
  let s2 := ((s1.setTag (r + 24) false).setNum r 8 w0).setTag r true
  s2.setNum q 8 (s.num q 8 + 1)

/-- An access to a counted host page at Kararlink-H (R399): the table keeps its most recently counted 65,536 pages, and a
count that reaches the threshold posts a record to the context's NOTIFQ and becomes 0. -/
def State.countHost (s : State) : Loc → State
  | .host p true =>
    let pg := p / 65536
    let n := (((s.hostCounts.find? (·.1 = pg)).map Prod.snd).getD 0) + 1
    let put (c : Nat) : List (Nat × Nat) := ((pg, c) :: s.hostCounts.filter (·.1 ≠ pg)).take 65536
    let q := (s.desc s.ctxNo 5).toNat
    if bits s.hostActhr 0 16 ≤ n then
      match s.queueRoom q with
      | some slot => { s.postRecord q slot 8 (pg * 65536) n 0 with hostCounts := put 0 }
      | none => { s with hostCounts := put n }
    else { s with hostCounts := put n }
  | _ => s

/-- An access of this core with n payload bytes crosses the link of a host or peer location (R399, R419, log 128). -/
def State.cross (s : State) (n : Nat) (l : Loc) : State := (s.linkBytes n l).countHost l

/-- A page wait of the performing thread (R146, R386 kind 12): the record is posted once, when there is room, and the
wake record remembers its slot, or the reason until then. A wait on a shoot-down's block has no record (R398). -/
def pageWait {α : Type} (reason : Nat) (k : FaultKind) (va : Word) (pc : Word) (s : State) : Res α :=
  let q := (s.desc s.ctxNo 4).toNat
  if s.me.wake.kind = 12 ∧ s.me.wake.done ∧ s.me.wake.aux ≠ 0xFFFF ∧ s.me.wake.addr = va then .error (.park s.me.wake s)
  else match s.queueRoom q with
    | some slot =>
      let w0 := reason + k.code + (if s.cur = .aux then 128 else 0) + s.core.lx.val * 256 + s.core.ly.val * 8192
      .error (.park ⟨12, true, BitVec.ofNat 16 slot, va, BitVec.ofNat 64 k.code⟩ (s.postRecord q slot w0 va.toNat pc.toNat 0))
    | none => .error (.park ⟨12, false, BitVec.ofNat 16 reason, va, BitVec.ofNat 64 k.code⟩ s)

/-! ## Classification (R140, R141) -/

/-- Where one byte of an access leads: a location, an out-of-range byte with its cause, or the event window. -/
inductive Site where
  | loc (l : Loc)
  | oor (cause : Nat)
  | event
  deriving DecidableEq, Repr

/-- A byte at a local offset of logical core (x, y) of the running context (R141). -/
def State.scratchSite (s : State) (x y off : Nat) : Site :=
  if 524288 ≤ off then .oor 0 else if s.allotment ≤ off then .oor 1 else .loc (.scratch s.ctxNo x y off)

/-- The paged byte at an address, with the permissions and blocks of R146, R394 and R398. -/
def pagedSite (need : Need) (va : Word) (s : State) : Res (Site × State) :=
  let k : FaultKind := ⟨need.w, need.x, false⟩
  let a := va.toNat
  if s.blocked s.ctxNo a need.w need.x then .error (.park ⟨12, true, 0xFFFF, va, BitVec.ofNat 64 k.code⟩ s)
  else match s.translate s.ctxNo a need.x with
    | .error r => pageWait r k va s.pc s
    | .ok (e, s1) =>
      if (need.r && !e.r) || (need.w && !e.w) || (need.x && !e.x) then trapAt 0x03 va s1
      else if need.w && e.wb then pageWait 3 k va s1.pc s1
      else if e.loc = 0 ∧ hbmSize ≤ e.pa + (a - e.base) then .error (.fault .hbmBeyondEnd)
      else .ok (.loc (e.loc' a), s1)

/-- The class of an address by R140. -/
inductive AddrClass where
  | protect | scratch (x y off : Nat) | gap | paged | event
  deriving DecidableEq, Repr

def classify (s : State) (va : Word) : AddrClass :=
  let a := va.toNat
  if 2 ^ 56 ≤ a then .protect
  else if a < 0x80000 then .scratch s.core.lx.val s.core.ly.val a
  else if a < 0x1000000 then .gap
  else if a < 0x00F0000000000000 then .paged
  else if a < 0x00F0000020000000 then .scratch (a / 2 ^ 19 % 32) (a / 2 ^ 24 % 32) (a % 2 ^ 19)
  else if 0x00F1000000000000 ≤ a ∧ a < 0x00F1001000000000 then .event
  else .protect

/-- A scratchpad target that the context lacks is refused (R143); the own-core alias is always present. -/
def State.refuses (s : State) (va : Word) (x y : Nat) : Bool :=
  decide (0x80000 ≤ va.toNat) && !(s.isSelf x y || s.corePresent s.ctxNo x y)

/-- The paged bytes from an address on, each on its own page (R149). -/
def pagedSites (need : Need) (va : Word) : Nat → State → Res (List Site × State)
  | 0, s => .ok ([], s)
  | n + 1, s => do
    let (x, s1) ← pagedSite need va s
    let (l, s2) ← pagedSites need (va + 1) n s1
    .ok (x :: l, s2)

/-- A byte lies in the word of a posted-store journal entry. -/
def JEntry.covers (e : JEntry) : Site → Bool
  | .loc (.scratch _ x y off) =>
    decide (bits e.addr 19 5 = x) && decide (bits e.addr 24 5 = y) && decide (bits e.addr 0 19 / 8 = off / 8)
  | _ => false

/-- An access overlaps an older posted store of the thread that is still Posted (R275). -/
def State.behindStp (s : State) (l : List Site) : Bool :=
  s.me.journal.toList.any fun e => decide (e.state = .posted) && l.any e.covers

/-- The sites of the n bytes of an access: class, core and local offset come from its first byte (R140). An access that reads
waits at a core that refuses it while an older posted store of the thread to the same bytes has no answer (R275). -/
def sites (need : Need) (va : Word) (n : Nat) (s : State) : Res (List Site × State) :=
  match classify s va with
  | .protect => trapAt 0x03 va s
  | .event => .ok ([.event], s)
  | .gap => .ok (List.replicate n (.oor 2), s)
  | .scratch x y off =>
    let l := (List.range n).map fun j => s.scratchSite x y (off + j)
    if s.refuses va x y then (if need.r && s.behindStp l then parkOn 32 va 0 s else trapAt 0x03 va s) else .ok (l, s)
  | .paged => pagedSites need va n s

/-- SCR.ERR records the first out-of-range byte of an access (R141). -/
def State.noteSites (s : State) (va : Word) : List Site → State
  | [] => s
  | .oor c :: _ => s.noteRange c va
  | _ :: l => s.noteSites (va + 1) l

/-! ## Range locks (R294) -/

/-- A byte of a logical core's scratchpad hits a held lock. -/
def State.lockHit (s : State) (x y off : Nat) (write : Bool) : Bool :=
  s.core.locks.any fun k =>
    decide (k.x = x) && decide (k.y = y) && decide (k.bank = off / 65536) && decide (k.lo ≤ off % 65536) &&
      decide (off % 65536 ≤ k.hi) && (k.dest || write)

/-- A byte of an access by a thread hits a lock; `own` asks for this core's banks alone. -/
def State.siteLocked (s : State) (own write : Bool) : Site → Bool
  | .loc (.scratch _ a b off) => (!own || s.isSelf a b) && s.lockHit a b off write
  | _ => false

/-- The store of a journal entry waits at its port (R151, R294). -/
def JEntry.waits (e : JEntry) : Bool := decide (e.state = .posted) && decide (e.port ≠ 0)

/-- A resumed thread issues nothing while a posted store of its save is still to be performed (R276). -/
def Thread.unsettled (t : Thread) : Bool := t.settling && t.journal.toList.any JEntry.waits

/-- A journal entry of a thread has left the Posted state. -/
def Thread.leavePosted (t : Thread) (j : Fin 16) (e : JEntry) : Thread :=
  let x := { t with journal := t.journal.set j e }
  { x with settling := x.unsettled }

/-- A store overlaps an older posted store of the thread that waits at its port: it is performed after it (R275). -/
def State.behindPort (s : State) (l : List Site) : Bool := s.me.journal.toList.any fun e => e.waits && l.any e.covers

/-- A byte lies in a bank whose cluster's clock is stopped: the access waits (R407). -/
def State.siteStopped (s : State) : Site → Bool
  | .loc (.scratch c a b _) => s.coreStopped c a b
  | _ => false

/-- The wait of a store at a bank port: it commits and is performed later (R294). -/
def portWait : Nat := 35

/-- The checks at the bank ports. The lock check (R294): a hit of this core's banks is a trap, and so is any hit of an access that
reads; a store to another core's bank commits and waits at the port until the lock is free. An access to a bank whose clock is stopped
waits (R407), and a store waits behind an older posted one to the same bytes (R275); what only writes does so at the port (log 95). -/
def lockCheck (va : Word) (write rmw : Bool) (l : List Site) (s : State) : Res Unit :=
  let k := if write && !rmw then portWait else 32
  if l.any s.siteStopped then parkOn k va 0 s
  else if l.any (s.siteLocked false write) && (!write || rmw || l.any (s.siteLocked true write)) then trapAt 0x12 va s
  else if (write && s.behindPort l) || l.any (s.siteLocked false write) then parkOn k va 0 s
  else .ok ()

/-- A store that waits at its port has committed: it stands among the thread's committed stores (R41, R294), and the thread is `len`
bytes on. -/
def queueStore (i : Instr) (len : Nat) (s : State) : State :=
  (s.setMe { s.me with stq := s.me.stq ++ [⟨s.me.lastTag, i, s.pc, s.me.s, s.me.x, s.me.v⟩] }).advance len

/-- The outcome of a store, which may commit and wait at its port. -/
def finishStore (i : Instr) (len : Nat) (r : Res State) : Host.Outcome State Fault Refusal :=
  match r with
  | .error (.park w s) => if w.kind = portWait then .next (queueStore i len s) else finish r
  | r => finish r

/-! ## The L1 data cache (R263) -/

def State.l1 (s : State) (k : Nat) : Option L1Byte := sget none s.core.l1 k
def State.setL1 (s : State) (k : Nat) (b : Option L1Byte) : State :=
  { s with core := { s.core with l1 := sput none k b s.core.l1 } }

/-- A byte of the L1 is dirty. -/
def State.dirty (s : State) (k : Nat) : Bool := (s.l1 k).any L1Byte.dirty

/-- Every byte of the 64-byte line from a key on that is not dirty is filled from its point of coherence. -/
def fillLine (s : State) (k : Nat) : Nat → State
  | 0 => s
  | n + 1 => fillLine (if s.dirty k then s else s.setL1 k (some ⟨s.byte k, false, s.poisoned k⟩)) (k + 1) n

/-- The dirty bytes among n bytes of the L1 are written to their point of coherence and become clean; a bad one carries its poison to the
word (R437). -/
def writeBackBytes (s : State) (k : Nat) : Nat → State
  | 0 => s
  | n + 1 =>
    let s1 := match s.l1 k with
      | some b =>
        if b.dirty then
          let s0 := (s.setByte k b.b).setL1 k (some { b with dirty := false })
          if b.bad then s0.setPoison k true else s0
        else s
      | none => s
    writeBackBytes s1 (k + 1) n

/-- A word whose eight bytes are all dirty holds good data: its write-back clears the poison (R147, R437). -/
def State.cleansWord (s : State) (k : Nat) : Bool :=
  (List.range 8).all fun j => match s.l1 (k / 8 * 8 + j) with
    | some b => b.dirty && !b.bad
    | none => false

def cleanWords (s : State) (k : Nat) : Nat → State
  | 0 => s
  | n + 1 => cleanWords (if s.cleansWord k then s.setPoison k false else s) (k + 8) n

/-- The dirty bytes of the line that holds a key. -/
def State.dirtyCount (s : State) (k : Nat) : Nat := ((List.range 64).filter fun j => s.dirty (k / 64 * 64 + j)).length

/-- A line of host or peer memory with a dirty byte: its write-back is an access that the far side acknowledges (R284). -/
def State.farDirty (s : State) (k : Nat) : Bool :=
  decide (2 ^ 60 ≤ k) && decide (k < 2 ^ 62) && (List.range 64).any fun j => s.dirty (k / 64 * 64 + j)

/-- One more access to be acknowledged, of either thread: the L1 is shared. -/
def State.noteFar (s : State) (b : Bool) : State :=
  if b then { s with
    pri := { s.pri with unacked := s.pri.unacked + 1 }, aux := { s.aux with unacked := s.aux.unacked + 1 } }
  else s

/-- The write-back of a dirty line of host or peer memory crosses its link with the dirty bytes (R419); of a counted host page it is an
access at Kararlink-H (R399). -/
def State.countBack (s : State) (k : Nat) : State :=
  if s.farDirty k then
    let s1 := s.payload (if k < 2 ^ 61 then 9 else 10) (s.dirtyCount k)
    if k < 2 ^ 61 ∧ s.core.acePages.contains ((k - 2 ^ 60) / 65536) then s1.countHost (.host (k - 2 ^ 60) true) else s1
  else s

/-- Write-back of the line that holds a key. -/
def State.writeBackLine (s : State) (k : Nat) : State :=
  writeBackBytes (cleanWords ((s.countBack k).noteFar (s.farDirty k)) (k / 64 * 64) 8) (k / 64 * 64) 64

/-- The line that holds a key leaves the L1. -/
def State.dropLine (s : State) (k : Nat) : State :=
  { s with core := { s.core with l1 := sclear (k / 64 * 64) (k / 64 * 64 + 64) s.core.l1 } }

/-- Write-back of a list of lines. -/
def writeBackLines (s : State) (l : List Nat) : State := l.foldl State.writeBackLine s

/-- The first keys of the lines with a dirty byte. -/
def dirtyLines (l : List (Nat × Option L1Byte)) : List Nat :=
  (l.filterMap fun p => match p.2 with
    | some b => if b.dirty then some (p.1 / 64 * 64) else none
    | none => none).eraseDups

/-- Write-back of every dirty byte of the L1 (R263). -/
def State.writeBackAll (s : State) : State := writeBackLines s (dirtyLines s.core.l1)

/-- Every byte that is not dirty leaves the L1 (R263, acquire). -/
def State.dropClean (s : State) : State :=
  { s with core := { s.core with l1 := s.core.l1.filter fun p => match p.2 with
      | some b => b.dirty
      | none => false } }

/-- A write-back and drop of the line of a location, for a location the L1 may hold (R168). -/
def State.flushLoc (s : State) (l : Loc) : State :=
  if l.isScratch then s else (s.writeBackLine l.key).dropLine l.key

/-! ## Plain access -/

/-- The line of a byte that the L1 lacks is fetched. -/
def fetchSite (s : State) : Site → State
  | .loc l =>
    if l.isScratch || (s.l1 l.key).isSome then s else fillLine (s.cross 64 l) (l.key / 64 * 64) 64
  | _ => s

/-- The byte that a plain read finds once its line is there, and whether it is poisoned. -/
def readSite (s : State) : Site → Byte × Bool
  | .loc l =>
    if l.isScratch then (s.byte l.key, s.poisoned l.key)
    else match s.l1 l.key with
      | some b => (b.b, b.bad)
      | none => (s.byte l.key, s.poisoned l.key)
  | _ => (0, false)

/-- A plain read: every line it lacks is fetched, then every byte is read, so that an aligned access reads each write whole
(R263, R272). -/
def readSites (s : State) (l : List Site) : (List Byte × Bool) × State :=
  let s1 := l.foldl fetchSite s
  ((l.map fun x => (readSite s1 x).1, l.any fun x => (readSite s1 x).2), s1)

/-- The key of the first byte of a read whose word is poisoned. -/
def State.firstBadSite (s : State) (l : List Site) : Nat :=
  ((l.find? fun x => (readSite s x).2).map fun x => match x with
    | .loc a => a.key
    | _ => 0).getD 0

/-- The L1 keeps for a host page that it stores to whether the page is counted (R399). -/
def State.noteAce (s : State) : Loc → State
  | .host p a =>
    let pg := p / 65536
    let l := s.core.acePages.filter (· ≠ pg)
    { s with core := { s.core with acePages := if a then pg :: l else l } }
  | _ => s

/-- A plain write of one byte: at the bank for scratchpad, into the L1 for paged memory; dropped out of range. The word it lies
in stays poisoned (R147). -/
def writeSite (s : State) (b : Byte) : Site → State
  | .loc l =>
    if l.isScratch then s.setByte l.key b
    else (s.noteAce l).setL1 l.key (some ⟨b, true, match s.l1 l.key with
      | some o => o.bad
      | none => s.poisoned l.key⟩)
  | _ => s

def writeSites (s : State) : List Site → List Byte → State
  | x :: l, b :: r => writeSites (writeSite s b x) l r
  | _, _ => s

/-- The keys of the bytes that some sites name. -/
def siteKeys (l : List Site) : List Nat :=
  l.filterMap fun x => match x with
    | .loc k => some k.key
    | _ => none

/-- The words of which some bytes by their keys are all eight. -/
def wordsIn (l : List Nat) : List Nat :=
  l.filter fun k => decide (k % 8 = 0) && [1, 2, 3, 4, 5, 6, 7].all fun j => l.contains (k + j)

/-- A byte of the L1 holds good data. -/
def State.goodL1 (s : State) (k : Nat) : State := s.setL1 k ((s.l1 k).map fun b => { b with bad := false })

/-- A word that one store has written whole holds good data, at its bank or in the L1 (R147). -/
def State.goodWhole (s : State) (k : Nat) : State :=
  if 2 ^ 62 ≤ k then s.setPoison k false else (List.range 8).foldl (fun a j => a.goodL1 (k + j)) s

/-- A store clears the poison of the words that it writes whole (R147). -/
def State.cleanStore (s : State) (l : List Site) : State :=
  if l.length < 8 ∨ (s.poison = [] ∧ s.core.l1.all fun p => !p.2.any L1Byte.bad) then s
  else (wordsIn (siteKeys l)).foldl State.goodWhole s

/-- A plain load of n bytes, all in one step (R148, R149, log 111): translated and checked, then read; poison is consumed (R147); the first
out-of-range byte is recorded (R141). -/
def loadBytes (va : Word) (n : Nat) (s : State) : Res (List Byte × State) := do
  let (l, s1) ← sites Need.load va n s
  if l.contains .event then trapAt 0x03 va s1
  else do
    lockCheck va false false l s1
    if s1.behindStp l then parkOn 32 va 0 s1
    else
      let (r, s2) := readSites s1 l
      if r.2 then trapBad va (s2.firstBadSite l) s1 else .ok (r.1, s2.noteSites va l)

/-- The little-endian value of a plain load. -/
def loadNum (va : Word) (n : Nat) (s : State) : Res (Nat × State) := do
  let (l, s1) ← loadBytes va n s
  .ok (leNat l, s1)

/-- A plain store of some bytes, all in one step (R148, R149, log 111). -/
def storeBytes (va : Word) (b : List Byte) (s : State) : Res State := do
  let (l, s1) ← sites Need.store va b.length s
  if l.contains .event then trapAt 0x03 va s1
  else do
    lockCheck va true false l s1
    .ok (((writeSites s1 l b).cleanStore l).noteSites va l)

def storeNum (va : Word) (n v : Nat) (s : State) : Res State := storeBytes va (leBytes n v) s

/-! ## Access at the point of coherence -/

/-- A naturally aligned access of n bytes performed at its point of coherence (R150, R156, R164): the site of its first
byte. `rmw` marks a read-modify-write. An access that is both misaligned and at fault in another way takes the misaligned fault
(log 88). -/
def coherentSite (need : Need) (n : Nat) (va : Word) (rmw : Bool) (s : State) : Res (Site × State) := do
  if va.toNat % n ≠ 0 then trapAt 0x04 va s
  else
    let (l, s1) ← sites need va n s
    lockCheck va need.w rmw l s1
    if s1.behindStp l then parkOn 32 va 0 s1
    else match l with
      | .event :: _ => trapAt 0x03 va s1
      | x :: _ => .ok (x, s1)
      | [] => .ok (.oor 0, s1)

/-- A location of full/empty tags: scratchpad and HBM (R155, R147). -/
def Loc.tagged : Loc → Bool
  | .scratch .. => true
  | .hbm _ => true
  | _ => false

/-! ## Orders and scopes (R152, R166, R168, R278) -/

/-- The target core of a journal entry lies within a scope instance around this core (R152, R266). -/
def State.entryInScope (s : State) (sc : Scope) (e : JEntry) : Bool :=
  let x := bits e.addr 19 5
  let y := bits e.addr 24 5
  match sc with
  | .core => s.isSelf x y
  | .clu => sameCluster x y s.core.lx.val s.core.ly.val
  | .dev => true
  | .sys => true

/-- A release at a scope must wait: a journal entry whose target lies in the scope is not Free (R152). -/
def State.releaseWaits (s : State) (sc : Scope) : Bool :=
  s.me.journal.toList.any fun e => decide (e.state ≠ .free) && s.entryInScope sc e

/-- A release performed: at `.clu` and wider the L1 writes back its dirty lines (R168). -/
def State.release (s : State) (sc : Scope) : State := if sc = .core then s else s.writeBackAll

/-- A release at the commit head: it waits for the journal (R152), and at `.sys` for every acknowledgement (R284). -/
def releaseRes (sc : Scope) (s : State) : Res State :=
  if s.releaseWaits sc then parkOn 32 0 0 s
  else
    let s1 := s.release sc
    if sc = .sys ∧ s1.me.unacked ≠ 0 then parkOn 32 0 0 s1 else .ok s1
/-- An acquire performed: at `.clu` and wider the L1 drops every byte that is not dirty (R168, R263). -/
def State.acquire (s : State) (sc : Scope) : State := if sc = .core then s else s.dropClean

def Order.releases : Order → Bool
  | .rel | .ar | .sc => true
  | _ => false
def Order.acquires : Order → Bool
  | .acq | .ar | .sc => true
  | _ => false

/-- The natural scope of the tagged word at an address, in range or not (R267). -/
def State.naturalScope (s : State) (va : Word) : Scope :=
  match classify s va with
  | .scratch x y _ =>
    if s.isSelf x y then .core else if sameCluster x y s.core.lx.val s.core.ly.val then .clu else .dev
  | _ => .dev

end Sys2Proof.Machine
end

