-- ==== Sys2Proof/Machine/Operands.lean ====
section
/-! DEFINITION. Every operand form: the sources of format A (R92, R117), effective addresses (R95), the sources of
format V (R94, R172), and the nominal schedule under which vector registers and masks are read (R53 to R55, R173). -/

namespace Sys2Proof.Machine

/-! ## Scalar sources -/

/-- The 64-bit value of a format A source (R92, R117). -/
def State.src (s : State) : Src → Word
  | .s r => s.reg r
  | .k i => (s.kword i.val).signExtend 64
  | .lit n => n.signExtend 64

/-- Signed(v, n) of R119 on a natural number. -/
def signedOf (v n : Nat) : Int := (BitVec.ofNat n v).toInt

/-- The operating width of a w bit (R120). -/
def widthOf (w : Bool) : Nat := if w then 32 else 64

/-- Finish(x, W): wrap to W bits, then sign-extend to 64 (R120). -/
def finishW (w : Bool) (x : Int) : Word := (BitVec.ofInt (widthOf w) x).signExtend 64

/-- Unsigned(v, W) of a source (R120). -/
def unsignedW (w : Bool) (v : Word) : Nat := v.toNat % 2 ^ widthOf w
/-- Signed(v, W) of a source (R120). -/
def signedW (w : Bool) (v : Word) : Int := signedOf v.toNat (widthOf w)

/-! ## Addresses (R95) -/

/-- base + offset × scale for a signed offset field. -/
def State.eaOff {n : Nat} (s : State) (b : Fin 32) (off : BitVec n) (scale : Nat) : Word :=
  s.reg b + BitVec.ofInt 64 (off.toInt * scale)
/-- base + (index << shift). -/
def State.eaIdx (s : State) (b i : Fin 32) (sh : Fin 4) : Word := s.reg b + (s.reg i <<< sh.val)
/-- The target of a branch: its own address and a signed offset in parcels (R89). -/
def State.target {n : Nat} (s : State) (off : BitVec n) : Word := s.pc + BitVec.ofInt 64 (off.toInt * 2)

/-! ## Lanes -/

/-- The lanes of a list, padded with zero. -/
def lanesOf (l : List Lane) : Vector Lane 64 := ⟨((l ++ List.replicate 64 0).take 64).toArray, by simp⟩

/-- Lane i of a vector value, for a lane number modulo 64. -/
def laneAt (v : Vector Lane 64) (i : Nat) : Lane := v[i % 64]'(Nat.mod_lt _ (by decide))

/-- Every lane the same. -/
def splat (x : Lane) : Vector Lane 64 := lanesOf (List.replicate 64 x)

/-- One lane's result with its flags, over one, two and three sources; the flags of all lanes are united (R174). -/
def gather (l : List (Lane × Fl)) : Vector Lane 64 × Fl :=
  (lanesOf (l.map Prod.fst), l.foldl (fun a p => a ||| p.2) 0)
def lift1 (f : Lane → Lane × Fl) (a : Vector Lane 64) : Vector Lane 64 × Fl := gather (a.toList.map f)
def lift2 (f : Lane → Lane → Lane × Fl) (a b : Vector Lane 64) : Vector Lane 64 × Fl :=
  gather (List.zipWith f a.toList b.toList)
def lift3 (f : Lane → Lane → Lane → Lane × Fl) (a b c : Vector Lane 64) : Vector Lane 64 × Fl :=
  gather (List.zipWith (fun x y => f x.1 x.2 y) (List.zip a.toList b.toList) c.toList)

/-! ## The nominal schedule (R53, R54) -/

/-- The nominal start of the next delay-carrying instruction of a thread with mark d (R53). -/
def Thread.start (t : Thread) (d : Fin 8) : Nat :=
  match t.nom with
  | none => 0
  | some n => n + d.val

/-- The value a reader with nominal start n takes: that of the youngest writer whose result is due (R54). -/
def dueValue {α : Type} (n : Nat) : α → List (Nat × α) → α
  | v, [] => v
  | v, (due, prior) :: l => if due ≤ n then v else dueValue n prior l

/-- The youngest writer's result is not yet due: the short-delay case (R54). -/
def shortDelay {α : Type} (n : Nat) : List (Nat × α) → Bool
  | [] => false
  | (due, _) :: _ => decide (n < due)

/-- The history after a writer with nominal start n and a result due later (R54): writers that every later reader finds
due are forgotten. -/
def pushHist {α : Type} (n lat : Nat) (old : α) (h : List (Nat × α)) : List (Nat × α) :=
  (n + lat, old) :: h.takeWhile fun e => decide (n < e.1)

/-- VEC.CHECK.EN (R58). -/
def State.checkDelay (s : State) : Bool := s.core.vecCheck.getLsbD 0

/-- A reader with nominal start n takes a value that a matrix command still owes: it passes over every younger writer (R54,
R201). -/
def VReg.owes (v : VReg) (n : Nat) : Bool := v.pend.isSome && v.hist.all fun e => decide (n < e.1)

/-- A vector register read by a delay-carrying instruction with nominal start n (R54, R55): it waits for a value a
matrix command owes. -/
def readV (n : Nat) (r : Fin 16) (s : State) : Res (Vector Lane 64) :=
  let v := s.me.v[r]
  if s.checkDelay && shortDelay n v.hist then trapAt 0x06 0 s
  else if v.owes n then parkOn 32 0 0 s
  else .ok (dueValue n v.val v.hist)

/-- A vector register read under the interlock of R55 and R95: every older writer has produced its result. -/
def readInterlocked (r : Fin 16) (s : State) : Res (Vector Lane 64) :=
  let v := s.me.v[r]
  if v.pend ≠ none then parkOn 32 0 0 s else .ok v.val

/-- A mask read under R54; m0 reads all ones (R14). -/
def readM (n : Nat) (m : Fin 8) (s : State) : Res (BitVec 64) :=
  let r := s.me.m[m]
  if m = 0 then .ok (BitVec.allOnes 64)
  else if s.checkDelay && shortDelay n r.hist then trapAt 0x06 0 s
  else .ok (dueValue n r.val r.hist)

/-- The result of a delay-carrying writer of a vector register (R54, R173). A value that a matrix command still owes is
owed on, unless no later reader can take it. -/
def VReg.write (r : VReg) (n lat : Nat) (x : Vector Lane 64) : VReg :=
  ⟨x, pushHist n lat r.val r.hist, if r.hist.all fun e => decide (n < e.1) then r.pend else none⟩
/-- The result of an interlocked writer: every later reader sees it (R55, log 12). -/
def VReg.put (_ : VReg) (x : Vector Lane 64) : VReg := ⟨x, [], none⟩

/-- The oldest prior value of a history replaced. -/
def fillOldest {α : Type} (x : α) : List (Nat × α) → List (Nat × α)
  | [] => []
  | [e] => [(e.1, x)]
  | e :: l => e :: fillOldest x l

/-- The value that a matrix command owed has come (R201): the register's, or the one before every younger writer. -/
def VReg.settle (r : VReg) (x : Vector Lane 64) : VReg :=
  if r.hist = [] then r.put x else ⟨r.val, fillOldest x r.hist, none⟩

def State.writeV (s : State) (d : Fin 16) (n lat : Nat) (x : Vector Lane 64) : State :=
  s.setMe { s.me with v := s.me.v.set d (s.me.v[d].write n lat x) }
def State.putV (s : State) (d : Fin 16) (x : Vector Lane 64) : State :=
  s.setMe { s.me with v := s.me.v.set d (s.me.v[d].put x) }
/-- A mask written; a destination of m0 leaves it unchanged (R183). -/
def State.writeM (s : State) (d : Fin 8) (n lat : Nat) (x : BitVec 64) : State :=
  if d = 0 then s
  else s.setMe { s.me with m := s.me.m.set d ⟨x, pushHist n lat s.me.m[d].val s.me.m[d].hist⟩ }

/-- The nominal schedule moves to a delay-carrying instruction's start (R53). -/
def State.started (s : State) (n : Nat) : State := s.setMe { s.me with nom := some n }

/-! ## Vector sources (R94, R172) -/

/-- A literal as a lane of a format: exact, and untyped lanes take its two's-complement pattern. -/
def litLane (f : Fmt) (n : BitVec 4) : Lane :=
  match f with
  | .raw => n.signExtend 32
  | f => BitVec.ofNat 32 (f.encode (Exact.ofInt n.toInt)).1

/-- The lanes of a source, for a reader with nominal start n. -/
def srcV (f : Fmt) (n : Nat) (s : State) : VSrc → Res (Vector Lane 64)
  | .v r => readV n r s
  | .s r => .ok (splat ((s.reg (low32 r)).truncate 32))
  | .k i => .ok (splat (s.kword i.val))
  | .lit x => .ok (splat (litLane f x))

/-! ## Lane formats -/

end Sys2Proof.Machine

namespace Sys2Proof

def IntTy.fmt : IntTy → Machine.Fmt
  | .i32 => .i32
  | .n32 => .n32
def FltTy.fmt : FltTy → Machine.Fmt
  | .f32 => .f32
  | .bf16 => .bf16
  | .f16 => .f16
def CmpTy.fmt : CmpTy → Machine.Fmt
  | .i32 => .i32
  | .n32 => .n32
  | .f32 => .f32
def VFmt.fmt : VFmt → Machine.Fmt
  | .i32 => .i32
  | .n32 => .n32
  | .f32 => .f32
  | .bf16 => .bf16
  | .f16 => .f16
  | .i8 => .i8
  | .n8 => .n8
  | .lg6 => .lg6
def AccTy.fmt : AccTy → Machine.Fmt
  | .i32 => .i32
  | .n32 => .n32
  | .f32 => .f32
  | .bf16 => .bf16
  | .f16 => .f16

end Sys2Proof

namespace Sys2Proof.Machine

/-- A lane decoded by a format (R172, R184). -/
def decLane (f : Fmt) (x : Lane) : Exact := f.decode x.toNat

/-- An exact value written to a lane: narrow integers are sign- or zero-extended (R172, R184). -/
def encLane (f : Fmt) (x : Exact) : Lane × Fl :=
  let r := f.encode x
  match f with
  | .i8 => ((BitVec.ofNat 8 r.1).signExtend 32, r.2)
  | _ => (BitVec.ofNat 32 r.1, r.2)

end Sys2Proof.Machine
end

