-- ==== Sys2Proof/Machine/EventUnit.lean ====
section
/-! DEFINITION. Event units and their lines (R313 to R326): the operations that LD.D and ST.D reach in the event window,
and the service of a line. -/

namespace Sys2Proof.Machine

/-! ## Lines -/

/-- The number of a line: context, logical cluster and line. -/
def lineKey (c y x n : Nat) : Nat := ((c * 16 + y) * 16 + x) * 64 + n

def State.line (s : State) (k : Nat) : ELine := sget ELine.fresh s.lines k
def State.setLine (s : State) (k : Nat) (l : ELine) : State := { s with lines := sput ELine.fresh k l s.lines }

/-- The clock of the cluster that an event address names is stopped: an operation waits, unless its answer is on its way (R407). -/
def State.lineWaits (s : State) (va : Word) : Bool :=
  decide (s.me.reply = none) && s.coreStopped s.ctxNo (2 * bits va 28 4) (2 * bits va 32 4)

/-- An operation that waits so keeps what it has already done. -/
def parkLine (va : Word) (s : State) : Res State :=
  .error (.park (if s.me.wake.kind = 0 then ⟨32, false, 0, va, 0⟩ else s.me.wake) s)

/-- The line that an event address names in the running context (R314). -/
def State.evKey (s : State) (va : Word) : Nat := lineKey s.ctxNo (bits va 32 4) (bits va 28 4) (bits va 19 6)

/-- A line is unconfigured (R317). -/
def ELine.unconfigured (l : ELine) : Bool :=
  decide (l.kind = 0) && !l.pv && decide (l.cin = 0) && decide (l.expect = 0)

/-- The status word of R316, with a given PHASE. -/
def ELine.status (l : ELine) (phase : BitVec 16) : Word :=
  BitVec.ofNat 64 (l.kind * 2 ^ 62 + (if l.flag then 2 ^ 61 else 0) + (if l.pv then 2 ^ 60 else 0) + l.cin * 2 ^ 55 +
    l.arrived % 2 ^ 13 * 2 ^ 32 + l.expect % 2 ^ 12 * 2 ^ 16 + phase.toNat)

/-- A wait with a target is satisfied (R320). -/
def ELine.satisfies (l : ELine) (target : BitVec 16) : Bool := decide ((l.phase - target).toNat < 2 ^ 15)

/-! ## INIT (R317) -/

/-- A configuration word: valid, and its fields. -/
def validConfig (w : Word) : Bool :=
  let kind := bits w 62 2
  let cin := bits w 55 5
  let expect := bits w 16 12
  decide (kind ≠ 3) && decide (bits w 61 1 = 0) && decide (bits w 48 7 = 0) && decide (bits w 28 6 = 0) &&
    decide (cin ≤ 16) &&
    (if kind = 0 then decide (1 ≤ expect + cin) || decide (bits w 60 1 = 0)
     else decide (bits w 60 1 = 0) && decide (cin = 0) && decide (expect = 0))

/-- The line with the configuration of a word. -/
def ELine.configured (l : ELine) (w : Word) : ELine :=
  { l with kind := bits w 62 2, pv := w.getLsbD 60, cin := bits w 55 5, parent := bits w 34 14, expect := bits w 16 12 }

/-- The line holds the configuration of a word already. -/
def ELine.sameConfig (l : ELine) (w : Word) : Bool := decide (l.configured w = l)

/-! ## Phases (R319, R321, R322) -/

/-- The key of a line's parent. -/
def ELine.parentKey (l : ELine) (k : Nat) : Nat := k / 16384 * 16384 + l.parent

/-- A phase completes: the line and the messages it sends (R319, R322). A line that becomes unconfigured keeps the waiters that the new
phase does not satisfy (R320). -/
def ELine.complete (l : ELine) (k : Nat) : ELine × List ChainMsg :=
  let e := l.expect - l.drops
  let l1 := { l with
    phase := l.phase + 1
    expect := e
    arrived := if l.relayed then l.carry else 0
    drops := if l.relayed then l.carryDrops else 0
    relayed := false
    carry := 0
    carryDrops := 0
    kids := l.carryKids
    carryKids := [] }
  let drop := if l.pv && decide (l.expect ≠ 0) && decide (e = 0) then [.arrival (l.parentKey k) k true] else []
  (if e + l.cin = 0 then { ELine.fresh with phase := l1.phase, inbox := l.inbox, waiters := l.waiters } else l1, l.kids.map ChainMsg.completion ++ drop)

/-- Every expected arrival of the current phase is counted. -/
def ELine.ready (l : ELine) : Bool :=
  decide (l.kind = 0) && !l.unconfigured && !l.relayed && decide (l.expect + l.cin ≤ l.arrived)

/-- Step 3 of R318: an unchained line completes its phase, a chained one relays it. -/
def ELine.advance (l : ELine) (k : Nat) : ELine × List ChainMsg :=
  if l.ready then
    if l.pv then ({ l with relayed := true }, [.arrival (l.parentKey k) k false]) else l.complete k
  else (l, [])

/-- An arrival or drop counted: the line, and the phase it counts in (R318 step 2, R321). -/
def ELine.count (l : ELine) (drop : Bool) : ELine × BitVec 16 :=
  let d := if drop then 1 else 0
  if l.relayed then ({ l with carry := l.carry + 1, carryDrops := l.carryDrops + d }, l.phase + 1)
  else ({ l with arrived := l.arrived + 1, drops := l.drops + d }, l.phase)

/-! ## Waiters (R320) -/

/-- A thread waits on a line, and the line has not answered it. -/
def State.waitsOn (s : State) (t : ThreadId) (k : Nat) : Bool :=
  let w := (s.th t).wake
  (decide (w.kind = 1) || decide (w.kind = 2) || decide (w.kind = 3)) && decide (s.evKey w.addr = k) &&
    !(s.th t).stopped && decide ((s.th t).reply = none)

/-- A waiter that a line now satisfies receives its status. -/
def notifyThread (k : Nat) (t : ThreadId) (s : State) : State :=
  let x := s.th t
  let l := s.line k
  if s.waitsOn t k && decide (x.wake.kind ≠ 3) &&
      l.satisfies (BitVec.ofNat 16 x.wake.operand.toNat) then
    s.setTh t { x with reply := some (l.status l.phase) }
  else s

/-- Waiters of other cores that the line now satisfies wait no longer. -/
def ELine.notified (l : ELine) : ELine := { l with waiters := l.waiters.filter fun w => !l.satisfies w.2 }

/-- Step 5 of R318. -/
def notify (k : Nat) (s : State) : State :=
  let s1 := notifyThread k .aux (notifyThread k .pri s)
  s1.setLine k (s1.line k).notified

/-! ## Faults of the event fabric (R322) -/

/-- The event address of a line, with operation code 000 and operand 0. -/
def eventAddr (k : Nat) : Word :=
  BitVec.ofNat 64 (0x00F1000000000000 + k / 1024 % 16 * 2 ^ 32 + k / 64 % 16 * 2 ^ 28 + k % 64 * 2 ^ 19)

/-- The launch of a line's context that holds the line's cluster; one that ends still does. -/
def State.clusterLaunch (s : State) (k : Nat) : Option Launch :=
  s.launches.find? fun l => decide (l.ctx = k / 16384) && s.holds l (k / 64 % 16) (k / 1024 % 16)

/-- A chained arrival that must not be counted ends the launch of the parent's cluster, or of the child's. -/
def chainFault (parent child : Nat) (s : State) : State :=
  let l := s.clusterLaunch parent <|> s.clusterLaunch child
  let w4 := match l with
    | some l => l.slot % 65536 * 2 ^ 32 + l.queue % 64
    | none => 0
  let m : Msg := #v[BitVec.ofNat 64 (2 ^ 23 + 2 ^ 8 + 3), 0, eventAddr child, 0, BitVec.ofNat 64 w4, 0, 0, 0]
  let s1 := s.sendFor (parent / 16384) m
  match l with
  | some l => s1.killLaunch l.id 3 0
  | none => s1

/-- A chained arrival or drop taken by its parent line (R322); a drop whose parent cannot take it ends the launch as an arrival does
(log 115). -/
def chainedArrival (parent child : Nat) (drop : Bool) (s : State) : State :=
  let l := s.line parent
  let kids := if l.relayed then l.carryKids else l.kids
  if l.unconfigured || decide (l.kind ≠ 0) || (!drop && decide (l.cin ≤ kids.length)) then chainFault parent child s
  else
    let l1 := (l.count drop).1
    s.setLine parent (if drop then l1 else if l.relayed then { l1 with carryKids := kids ++ [child] }
      else { l1 with kids := kids ++ [child] })

/-- A chained arrival among those that a line has received in one cycle, which stand in ascending order of the sending line's cluster y,
x and number (R318). -/
def addArrival (x : Nat × Bool) : List (Nat × Bool) → List (Nat × Bool)
  | [] => [x]
  | y :: l => if y.1 ≤ x.1 then y :: addArrival x l else x :: y :: l

/-- A line takes every chained arrival of its inbox. -/
def takeInbox (k : Nat) : List (Nat × Bool) → State → State
  | [], s => s
  | (c, d) :: r, s => takeInbox k r (chainedArrival k c d s)

/-! ## The cycle of a line (R318) -/

/-- The agent is a thread of this core. -/
def State.isOwn (s : State) (k : Nat) (a : EAgent) : Bool := decide (s.core.ctx = some (k / 16384)) && s.isSelf a.x a.y

/-- Ascending logical core and then thread order. -/
def EAgent.rank (a : EAgent) : Nat := (a.y * 32 + a.x) * 2 + (if a.thr = .aux then 1 else 0)

/-- An operation among those of a cycle, which stand in the order of their agents. -/
def addOp (x : EAgent × LineOp) : List (EAgent × LineOp) → List (EAgent × LineOp)
  | [] => [x]
  | y :: l => if y.1.rank ≤ x.1.rank then y :: addOp x l else x :: y :: l

/-- No arrival counted, not held, no waiter (R317). -/
def State.quietLine (s : State) (k : Nat) : Bool :=
  let l := s.line k
  decide (l.arrived = 0) && decide (l.carry = 0) && !l.relayed && decide (l.owner = none) && decide (l.waiters = []) &&
    !s.waitsOn .pri k && !s.waitsOn .aux k

/-- The line after a valid INIT, or none where it faults (R317). -/
def State.initLine (s : State) (k : Nat) (w : Word) : Option ELine :=
  let l := s.line k
  if l.unconfigured then
    some (ELine.configured { ELine.fresh with
      phase := BitVec.ofNat 16 (bits w 0 16), inbox := l.inbox, ops := l.ops, waiters := l.waiters, gather := l.gather } w)
  else if l.sameConfig w then some l
  else if s.quietLine k then
    let c := l.configured w
    some { c with flag := if c.kind = l.kind then l.flag else false }
  else none

/-- The line's kind, where it is configured. -/
def ELine.isKind (l : ELine) (n : Nat) : Bool := !l.unconfigured && decide (l.kind = n)

/-- Step 1 of R318; an INIT that the line refuses is its agent's fault. -/
def opInit (k : Nat) (s : State) (x : EAgent × LineOp) : State :=
  match x.2 with
  | .init w => if validConfig w then ((s.initLine k w).map fun l => s.setLine k l).getD s else s
  | _ => s

/-- The INITs of the cycle's operations are applied. -/
def State.opened (s : State) (k : Nat) : State :=
  let l := s.line k
  let init (x : EAgent × LineOp) : Bool := match x.2 with
    | .init _ => true
    | _ => false
  (l.ops.filter init).foldl (opInit k) (s.setLine k { l with ops := l.ops.filter fun x => !init x })

/-- Step 2 of R318 for an operation of another core: the line, and the wait of its SYNC. -/
def ELine.arrival (l : ELine) (x : EAgent × LineOp) : ELine :=
  match x.2 with
  | .arrive drop => if l.isKind 0 then (l.count drop).1 else l
  | .sync => if l.isKind 0 then
      let r := l.count false
      { r.1 with waiters := r.1.waiters ++ [(x.1, r.2 + 1)] }
    else l
  | _ => l

/-- An arrival of this core that waits for the line's cycle stands in its thread's wake (aux 3; done: its release was at `.dev`).
It is counted, or goes back to be performed again: the line's kind or chain has changed (R314, R323). -/
def countOwn (k : Nat) (t : ThreadId) (s : State) : State :=
  let x := s.th t
  let w := x.wake
  let l := s.line k
  if w.kind = 32 ∧ w.aux = 3 ∧ s.evKey w.addr = k ∧ s.core.ctx.isSome then
    if !l.isKind 0 then s.setTh t { x with wake := { w with aux := if w.done then 2 else 0, done := false }, retry := true }
    else if !w.done ∧ (l.pv ∨ l.cin ≠ 0) then
      s.setTh t { x with wake := { w with aux := 1, done := true } }
    else
      let r := l.count (decide (bits w.addr 25 3 = 1))
      (s.setLine k r.1).setTh t { x with
        retry := true
        wake := if bits w.addr 25 3 = 3 then ⟨2, true, r.2, w.addr, BitVec.ofNat 64 (r.2 + 1).toNat⟩
          else ⟨32, true, 4, w.addr, BitVec.ofNat 64 r.2.toNat⟩ }
  else s

/-- A counted arrival of this core receives its status, as the line stands at the end of the cycle (R316). -/
def answerOwn (k : Nat) (t : ThreadId) (s : State) : State :=
  let x := s.th t
  if x.wake.kind = 32 ∧ x.wake.aux = 4 ∧ s.evKey x.wake.addr = k ∧ x.reply = none then
    s.setTh t { x with reply := some ((s.line k).status (BitVec.ofNat 16 x.wake.operand.toNat)) }
  else s

/-- A queued LOCK still waits; one of another core does until it is handed the line or leaves (log 6). -/
def State.queued (s : State) (k : Nat) (a : EAgent) : Bool :=
  !s.isOwn k a || (s.waitsOn a.thr k && decide ((s.th a.thr).wake.kind = 3) && decide ((s.th a.thr).wake.aux = 1))

/-- A mutex line passes to the head of its queue, or becomes Free (R321). -/
def unlockLine (k : Nat) (s : State) : State :=
  let l := { s.line k with phase := (s.line k).phase + 1 }
  match l.queue.filter (s.queued k) with
  | a :: r =>
    let l1 := { l with owner := some a, queue := r }
    let s1 := s.setLine k l1
    if s.isOwn k a then s1.setTh a.thr { (s1.th a.thr) with reply := some (l1.status l1.phase) } else s1
  | [] => s.setLine k { l with owner := none, flag := false, queue := [] }

/-- Steps 4 and 5 of R318 for one operation. -/
def opChange (k : Nat) (s : State) (x : EAgent × LineOp) : State :=
  let l := s.line k
  match x.2 with
  | .unlock => if l.isKind 1 && decide (l.owner = some x.1) then unlockLine k s else s
  | .lock =>
    if !l.isKind 1 then s
    else if l.owner = none then s.setLine k { l with owner := some x.1, flag := true }
    else s.setLine k { l with queue := l.queue.filter (· ≠ x.1) ++ [x.1] }
  | .signal => if l.isKind 2 then s.setLine k { l with flag := true, phase := l.phase + 1 } else s
  | .clear => if l.isKind 2 then s.setLine k { l with flag := false } else s
  | .wait t => s.setLine k { l with waiters := l.waiters ++ [(x.1, t)] }
  | _ => s

/-- Step 3 of R318: a completion message's phase completes, and a full phase completes or is relayed. -/
def advanceLine (k : Nat) (completed : Bool) (s : State) : State :=
  let l := s.line k
  let r := if completed && l.relayed then l.complete k else (l, [])
  let q := r.1.advance k
  { s.setLine k q.1 with flight := s.flight ++ r.2 ++ q.2 }

/-- The service of a line (R318): the operations that have reached it, in the rule's five steps. -/
def serveLine (k : Nat) (s : State) : State :=
  let s1 := s.opened k
  let l := s1.line k
  let l1 := l.ops.foldl ELine.arrival { l with ops := [], inbox := [], completed := false, gather := false }
  let s2 := takeInbox k l.inbox (countOwn k .aux (countOwn k .pri (s1.setLine k l1)))
  let s3 := l.ops.foldl (opChange k) (advanceLine k l.completed s2)
  answerOwn k .aux (answerOwn k .pri (notify k s3))

/-! ## The operations of a thread (R314, R315, R323) -/

/-- The performing thread as an agent of an event line. -/
def State.agent (s : State) : EAgent := ⟨s.core.lx.val, s.core.ly.val, s.cur⟩

/-- An operation of the performing thread reaches the line, which is served with what has reached it before. -/
def State.reach (s : State) (k : Nat) (op : LineOp) : State :=
  let l := s.line k
  serveLine k (s.setLine k { l with ops := addOp (s.agent, op) l.ops })

/-- A line on which an arrival has been counted is served with what has reached it. -/
def settle (k : Nat) (l : ELine) (s : State) : State := serveLine k (s.setLine k l)

/-- The event address lies in the core's own logical cluster. -/
def State.ownCluster (s : State) (va : Word) : Bool :=
  decide (bits va 28 4 = s.core.lx.val / 2) && decide (bits va 32 4 = s.core.ly.val / 2)

/-- The scope of an event operation (R323). -/
def State.evScope (s : State) (va : Word) : Scope :=
  let l := s.line (s.evKey va)
  if s.ownCluster va && !l.pv && decide (l.cin = 0) then .clu else .dev

/-- The operation was returned to the core, which must release at `.dev` (R323). -/
def State.returned (s : State) (va : Word) : Bool :=
  decide (s.me.wake.kind = 32) && decide (s.me.wake.addr = va) && decide (s.me.wake.aux = 2)

/-- The release part of an event operation (R323), performed by the issuing core. -/
def evRelease (va : Word) (s : State) : Res State :=
  let w := s.me.wake
  let back := s.returned va
  let sc : Scope := if s.ownCluster va && !back then .clu else .dev
  if w.kind = 32 ∧ w.addr = va ∧ w.aux = 1 then .error (.park w s)
  else if s.releaseWaits sc then .error (.park ⟨32, false, if back then 2 else 0, va, 0⟩ s)
  else if sc = .clu ∧ s.evScope va = .dev then .error (.park ⟨32, true, 1, va, 0⟩ (s.release .clu))
  else .ok (s.release sc)

/-- An operation that the line's kind does not allow (R314). -/
def evLegal (kind : Nat) (va : Word) (s : State) : Res Unit :=
  let l := s.line (s.evKey va)
  if l.unconfigured || decide (l.kind ≠ kind) then trapAt 0x03 va s else .ok ()

/-- A satisfied acquire returns its status. -/
def evDone (d : Fin 32) (va v : Word) (s : State) : State := (s.acquire (s.evScope va)).ret d v

/-- An arrival waits for its line's cycle, which takes more than this operation. -/
def gathered (va : Word) (s : State) : Res Unit :=
  if s.me.wake.kind = 32 ∧ s.me.wake.aux = 3 then .error (.park s.me.wake s)
  else if (s.line (s.evKey va)).gather then .error (.park ⟨32, !s.ownCluster va || s.returned va, 3, va, 0⟩ s)
  else .ok ()

/-- The arrival has been counted, and the line has answered it. -/
def State.answered (s : State) : Bool := decide (s.me.wake.kind = 32) && decide (s.me.wake.aux = 4)

def evArrive (drop : Bool) (d : Fin 32) (va : Word) (s : State) : Res State :=
  match s.me.reply with
  | some v => .ok (s.ret d v)
  | none => do
    if s.answered then .error (.park s.me.wake s)
    let s1 ← if s.me.wake.kind = 32 ∧ s.me.wake.aux = 3 then .ok s else evRelease va (s.opened (s.evKey va))
    evLegal 0 va s1
    gathered va s1
    let k := s1.evKey va
    let r := (s1.line k).count drop
    let s2 := settle k r.1 s1
    .ok (s2.ret d ((s2.line k).status r.2))

def evWait (d : Fin 32) (va : Word) (s : State) : Res State :=
  let l := s.line (s.evKey va)
  let t := BitVec.ofNat 16 (bits va 3 16)
  match s.me.reply with
  | some v => .ok (evDone d va v s)
  | none => if l.satisfies t then .ok (evDone d va (l.status l.phase) s)
    else .error (.park ⟨1, false, 0, va, BitVec.ofNat 64 t.toNat⟩ s)

/-- The wait of EV.SYNC after its arrival in phase p. -/
def evSyncWait (p : BitVec 16) (d : Fin 32) (va : Word) (s : State) : Res State :=
  let l := s.line (s.evKey va)
  match s.me.reply with
  | some v => .ok (evDone d va v s)
  | none => if l.satisfies (p + 1) then .ok (evDone d va (l.status l.phase) s)
    else .error (.park ⟨2, true, p, va, BitVec.ofNat 64 (p + 1).toNat⟩ s)

def evSync (d : Fin 32) (va : Word) (s : State) : Res State := do
  if s.me.wake.kind = 2 ∧ s.me.wake.done then evSyncWait s.me.wake.aux d va s
  else
    let s1 ← if s.me.wake.kind = 32 ∧ s.me.wake.aux = 3 then .ok s else evRelease va (s.opened (s.evKey va))
    evLegal 0 va s1
    gathered va s1
    let k := s1.evKey va
    let r := (s1.line k).count false
    evSyncWait r.2 d va (settle k r.1 s1)

def evLock (d : Fin 32) (va : Word) (s : State) : Res State := do
  match s.me.reply with
  | some v => evLegal 1 va s; .ok (evDone d va v s)
  | none =>
    let k := s.evKey va
    let w : Wake := ⟨3, false, 1, va, 0⟩
    if s.me.wake.kind = 3 ∧ s.me.wake.aux = 1 then evLegal 1 va s; .error (.park s.me.wake s)
    else
      let s1 := s.opened k
      evLegal 1 va s1
      let s2 := (s1.setMe { s1.me with wake := w }).reach k .lock
      let l := s2.line k
      if l.owner = some s2.agent ∧ s2.agent ∉ l.queue then
        .ok (evDone d va (l.status l.phase) (s2.setMe { s2.me with wake := s1.me.wake, reply := none }))
      else .error (.park w s2)

def evUnlock (va : Word) (s : State) : Res State := do
  let s1 ← evRelease va (s.opened (s.evKey va))
  evLegal 1 va s1
  let k := s1.evKey va
  if (s1.line k).owner ≠ some s1.agent then trapAt 0x03 va s1 else .ok ((s1.reach k .unlock).advance 4)

def evSignal (va : Word) (s : State) : Res State := do
  let s1 ← evRelease va (s.opened (s.evKey va))
  evLegal 2 va s1
  .ok ((s1.reach (s1.evKey va) .signal).advance 4)

def evClear (va : Word) (s : State) : Res State := do
  let s1 := s.opened (s.evKey va)
  evLegal 2 va s1
  .ok ((s1.reach (s1.evKey va) .clear).advance 4)

/-- INITs of the cycle whose agents come before the performing thread are applied. -/
def State.openedBefore (s : State) (k : Nat) : State :=
  let l := s.line k
  let early := l.ops.filter fun x => decide (x.1.rank < s.agent.rank)
  let late := l.ops.filter fun x => !decide (x.1.rank < s.agent.rank)
  let u := (s.setLine k { l with ops := early }).opened k
  u.setLine k { u.line k with ops := (u.line k).ops ++ late }

def evInit (w : Word) (va : Word) (s : State) : Res State :=
  if !validConfig w then trapAt 0x03 va s
  else
    let k := s.evKey va
    let s1 := s.openedBefore k
    match s1.initLine k w with
    | some l => .ok ((settle k l s1).advance 4)
    | none => trapAt 0x03 va s1

/-- An LD.D of the offset layout in the event window. -/
def eventLoad (d : Fin 32) (va : Word) (s : State) : Res State :=
  if va.toNat % 8 ≠ 0 then trapAt 0x04 va s
  else if !s.corePresent s.ctxNo (2 * bits va 28 4) (2 * bits va 32 4) then trapAt 0x03 va s
  else if bits va 25 3 ≠ 2 ∧ bits va 3 16 ≠ 0 then trapAt 0x03 va s
  else if bits va 25 3 < 5 ∧ s.lineWaits va then parkLine va s
  else match bits va 25 3 with
    | 0 => evArrive false d va s
    | 1 => evArrive true d va s
    | 2 => blocking s (evWait d va s)
    | 3 => blocking s (evSync d va s)
    | 4 => blocking s (evLock d va s)
    | _ => trapAt 0x03 va s

/-- An ST.D of the offset layout in the event window. -/
def eventStore (data : Word) (va : Word) (s : State) : Res State :=
  if va.toNat % 8 ≠ 0 then trapAt 0x04 va s
  else if !s.corePresent s.ctxNo (2 * bits va 28 4) (2 * bits va 32 4) then trapAt 0x03 va s
  else if bits va 3 16 ≠ 0 then trapAt 0x03 va s
  else if bits va 25 3 < 4 ∧ s.lineWaits va then parkLine va s
  else match bits va 25 3 with
    | 0 => evUnlock va s
    | 1 => evSignal va s
    | 2 => evClear va s
    | 3 => evInit data va s
    | _ => trapAt 0x03 va s

/-! ## Events of the event unit -/

/-- EVENT_LINE_SERVICE (R318). -/
def execEventLineService (line : Nat) (s : State) : Host.Outcome State Fault Refusal := .next (serveLine line s)

/-- CHAINED_ARRIVAL (R322): a chained arrival or drop in flight reaches its parent line, where the next service takes
it. -/
def execChainedArrival (parent child : Nat) (drop : Bool) (s : State) : Host.Outcome State Fault Refusal :=
  let m := ChainMsg.arrival parent child drop
  if s.flight.contains m then
    .next ({ s with flight := s.flight.erase m }.setLine parent
      { s.line parent with inbox := addArrival (child, drop) (s.line parent).inbox })
  else .next s

/-- CHAIN_COMPLETION_MESSAGE (R322): a completion message in flight reaches the relayed child. -/
def execChainCompletionMessage (child : Nat) (s : State) : Host.Outcome State Fault Refusal :=
  let m := ChainMsg.completion child
  if s.flight.contains m then
    .next (serveLine child ({ s with flight := s.flight.erase m }.setLine child { s.line child with completed := true }))
  else .next s

/-- EVENT_OP_RETURN (R323): an operation released at `.clu` comes back from a chained line to its core. -/
def execEventOpReturn (t : ThreadId) (s : State) : Host.Outcome State Fault Refusal :=
  let x := s.th t
  if x.wake.kind = 32 ∧ x.wake.aux = 1 then
    .next (s.setTh t { x with wake := { x.wake with done := false, aux := 2 }, retry := true })
  else .next s

end Sys2Proof.Machine
end

