-- ==== Sys2Proof/Machine/Typed.lean ====
section
/-! DEFINITION. Typed access to the elements of a scratchpad bank (R79 to R83, R160 to R163). -/

namespace Sys2Proof.Machine

/-- A bank of a logical core of a context. -/
structure BankRef where
  ctx : Nat
  x : Nat
  y : Nat
  bank : Nat
  deriving DecidableEq, Repr

/-- The key of a byte of a bank. -/
def BankRef.key (r : BankRef) (off : Nat) : Nat := (Loc.scratch r.ctx r.x r.y (r.bank * 65536 + off)).key

/-- A bank's format register (R79). Those of other cores are the environment's (log 1). -/
def State.fmtReg (s : State) (r : BankRef) : Word :=
  if s.isSelf r.x r.y && decide (r.ctx = s.ctxNo) then s.core.bankFmt[r.bank % 8]'(Nat.mod_lt _ (by decide))
  else sget 0 s.farFmt (((r.ctx * 32 + r.y) * 32 + r.x) * 8 + r.bank)

/-- The element format of a CODE (R79); reserved codes are never stored. -/
def codeFmt (c : Nat) : Fmt :=
  match c with
  | 1 => .i8
  | 2 => .n8
  | 3 => .i4
  | 4 => .n4
  | 5 => .lg6
  | 6 => .bf16
  | 7 => .f16
  | 8 => .f32
  | 9 => .i32
  | _ => .raw

/-- The format of a bank's elements. -/
def State.bankCode (s : State) (r : BankRef) : Fmt := codeFmt (bits (s.fmtReg r) 0 4)

/-- Elements in a container, bytes of a container and bits of an element (R60, R67, R160); a raw bank's elements are
bytes (R210). -/
def Fmt.per : Fmt → Nat
  | .i4 | .n4 => 2
  | .lg6 => 5
  | _ => 1
def Fmt.size : Fmt → Nat
  | .bf16 | .f16 => 2
  | .lg6 | .f32 | .i32 | .n32 => 4
  | _ => 1
def Fmt.width : Fmt → Nat
  | .i4 | .n4 => 4
  | .lg6 => 6
  | .bf16 | .f16 => 16
  | .f32 | .i32 | .n32 => 32
  | _ => 8

/-- ElemIndex of R160. -/
def elemIndex (f : Fmt) (o : Nat) : Nat := o / f.size * f.per
/-- The bank offset of an element's container. -/
def elemOff (f : Fmt) (e : Int) : Int := e / f.per * f.size

/-- The end of a bank for typed access: below the row exponents while ROWSCALE is 1 (R81, R160). -/
def typedEnd (reg : Word) : Nat := if reg.getLsbD 16 then 64512 else 65536

/-- The byte that holds the exponent of the row at a bank offset, where the format logic uses one: ROWSCALE is 1, the row has
one (bytes 65,520 on are not used), and it lies in the allotment (R80, R81). -/
def State.rowExp (s : State) (r : BankRef) (off : Nat) : Option Nat :=
  let j := 64512 + off / 64
  if (s.fmtReg r).getLsbD 16 && decide (off < 64512) && decide (r.bank * 65536 + j < s.allotment) then some (r.key j) else none

/-- The bank offset of the row exponent that the format logic reads with a bank offset, where it lies beyond the allotment (R80,
R141). -/
def State.rowExpOor (s : State) (r : BankRef) (off : Nat) : Option Nat :=
  let j := 64512 + off / 64
  if (s.fmtReg r).getLsbD 16 && decide (off < 64512) && decide (s.allotment ≤ r.bank * 65536 + j) then some j else none

/-- The scale of the row that holds a bank offset (R80); a row exponent that is not used reads as zero. -/
def State.scaleAt (s : State) (r : BankRef) (off : Nat) : Int :=
  (BitVec.ofNat 8 (bits (s.fmtReg r) 8 8)).toInt + match s.rowExp r off with
    | some k => (s.byte k).toInt
    | none => 0

/-- The exponent of a row is poisoned. -/
def State.scaleBad (s : State) (r : BankRef) (off : Nat) : Bool := (s.rowExp r off).any s.poisoned

/-- An element of a bank, or an out-of-range element with its cause and the address recorded (R141, R160). -/
inductive Elt where
  | ok (r : BankRef) (f : Fmt) (e : Nat)
  | oor (cause : Nat) (va : Word)
  deriving DecidableEq, Repr

/-- Element e of a bank, where `va0` is the address of the bank's first byte. -/
def State.elt (s : State) (r : BankRef) (va0 : Word) (e : Int) : Elt :=
  let f := s.bankCode r
  let off := elemOff f e
  let va := va0 + BitVec.ofInt 64 off
  if e < 0 ∨ (typedEnd (s.fmtReg r) / f.size * f.per : Nat) ≤ e then .oor 4 va
  else if s.allotment ≤ r.bank * 65536 + off.toNat then .oor 1 va
  else .ok r f e.toNat

/-- The container of element e, as a number. -/
def State.container (s : State) (r : BankRef) (f : Fmt) (e : Nat) : Nat := s.num (r.key (e / f.per * f.size)) f.size

/-- The bits of element e. -/
def State.eltBits (s : State) (r : BankRef) (f : Fmt) (e : Nat) : Nat :=
  s.container r f e / 2 ^ (e % f.per * f.width) % 2 ^ f.width

/-- The container with the bits of element e replaced; bits [31:30] of an LG6 word become zero (R162). -/
def patch (f : Fmt) (c e v : Nat) : Nat :=
  let lo := e % f.per * f.width
  let c1 := c / 2 ^ (lo + f.width) * 2 ^ (lo + f.width) + v % 2 ^ f.width * 2 ^ lo + c % 2 ^ lo
  if f = .lg6 then c1 % 2 ^ 30 else c1

def State.putBits (s : State) (r : BankRef) (f : Fmt) (e v : Nat) : State :=
  s.setNum (r.key (e / f.per * f.size)) f.size (patch f (s.container r f e) e v)

/-- The exact value of an element with its row's scale (R80). -/
def State.readElt (s : State) (r : BankRef) (f : Fmt) (e : Nat) : Exact :=
  (f.decode (s.eltBits r f e)).scale (s.scaleAt r (e / f.per * f.size))

/-- The element's word is poisoned. -/
def State.eltPoisoned (s : State) (r : BankRef) (f : Fmt) (e : Nat) : Bool := s.poisoned (r.key (e / f.per * f.size))

/-- An exact value written to an element, with the flags of its conversion (R80, R162). -/
def State.writeElt (s : State) (r : BankRef) (f : Fmt) (e : Nat) (x : Exact) : State × Fl :=
  let v := f.encode (x.scale (-(s.scaleAt r (e / f.per * f.size))))
  (s.putBits r f e v.1, v.2)

/-- The bank an address leads to, with the address of the bank's first byte and the offset within it; nothing for an
address that is not scratchpad. -/
def State.bankAt (s : State) (va : Word) : Option (BankRef × Word × Nat) :=
  match classify s va with
  | .scratch x y off => some (⟨s.ctxNo, x, y, off / 65536⟩, va - BitVec.ofNat 64 (off % 65536), off % 65536)
  | _ => none

end Sys2Proof.Machine
end

