-- ==== Sys2Proof/Machine/LoadStore.lean ====
section
/-! DEFINITION. Scalar loads and stores, uncached and posted accesses, tagged words, atomics and fences (chapter 07). -/

namespace Sys2Proof.Machine

/-! ## LD and ST (R148, R149, R169) -/

/-- Bytes of a load, and its extension. -/
def LdSize.bytes' : LdSize → Nat
  | .b | .bu => 1
  | .h | .hu => 2
  | .w | .wu => 4
  | .d => 8
def LdSize.extend (z : LdSize) (v : Nat) : Word :=
  match z with
  | .b => (BitVec.ofNat 8 v).signExtend 64
  | .h => (BitVec.ofNat 16 v).signExtend 64
  | .w => (BitVec.ofNat 32 v).signExtend 64
  | _ => BitVec.ofNat 64 v
def StSize.bytes' : StSize → Nat
  | .b => 1
  | .h => 2
  | .w => 4
  | .d => 8

/-- A load at an address into a register; the instruction has `len` bytes. -/
def loadTo (d : Fin 32) (va : Word) (z : LdSize) (len : Nat) (s : State) : Res State := do
  let (v, s1) ← loadNum va (LdSize.bytes' z) s
  .ok ((s1.setReg d (LdSize.extend z v)).advance len)

/-- A store at an address. -/
def storeFrom (v va : Word) (z : StSize) (len : Nat) (s : State) : Res State := do
  let s1 ← storeNum va (StSize.bytes' z) v.toNat s
  .ok (s1.advance len)

/-- LD.D of the offset layout: an event operation in the event window, a load elsewhere. -/
def loadD (d : Fin 32) (va : Word) (s : State) : Res State :=
  if classify s va = .event then eventLoad d va s else loadTo d va .d 4 s

/-- ST.D of the offset layout. -/
def storeD (v va : Word) (s : State) : Res State :=
  if classify s va = .event then eventStore v va s else storeFrom v va .d 4 s

def execLd (d b : Fin 32) (off : BitVec 11) (sz : LdSize) (s : State) : Host.Outcome State Fault Refusal :=
  let va := s.eaOff b off (LdSize.bytes' sz)
  finish (if sz = .d then loadD d va s else loadTo d va sz 4 s)

def execLdIndexed (d b i : Fin 32) (sh : Fin 4) (sz : LdSize) (s : State) : Host.Outcome State Fault Refusal :=
  finish (loadTo d (s.eaIdx b i sh) sz 4 s)

def execSt (d b : Fin 32) (off : BitVec 11) (sz : StSize) (s : State) : Host.Outcome State Fault Refusal :=
  let va := s.eaOff b off (StSize.bytes' sz)
  finishStore (.st d b off sz) 4 (if sz = .d then storeD (s.reg d) va s else storeFrom (s.reg d) va sz 4 s)

def execStIndexed (d b i : Fin 32) (sh : Fin 4) (sz : StSize) (s : State) : Host.Outcome State Fault Refusal :=
  finishStore (.stIndexed d b i sh sz) 4 (storeFrom (s.reg d) (s.eaIdx b i sh) sz 4 s)

/-- C.LDW and C.STW: a word at base + 4 × o, two bytes long (R108). -/
def execCLdw (d b : Fin 16) (o : Fin 8) (s : State) : Host.Outcome State Fault Refusal :=
  finish (loadTo (low32 d) (s.reg (low32 b) + BitVec.ofNat 64 (4 * o.val)) .w 2 s)

def execCStw (d b : Fin 16) (o : Fin 8) (s : State) : Host.Outcome State Fault Refusal :=
  finishStore (.cStw d b o) 2 (storeFrom (s.reg (low32 d)) (s.reg (low32 b) + BitVec.ofNat 64 (4 * o.val)) .w 2 s)

/-! ## The event aliases (R113, R315, R326): each is the LD.D or ST.D of its operand form -/

def execEvArrive (d b : Fin 32) (off : BitVec 11) (s : State) : Host.Outcome State Fault Refusal :=
  finish (loadD d (s.eaOff b off 8) s)

def execEvDrop (d b : Fin 32) (off : BitVec 11) (s : State) : Host.Outcome State Fault Refusal :=
  finish (loadD d (s.eaOff b off 8) s)

def execEvWait (d b : Fin 32) (off : BitVec 11) (s : State) : Host.Outcome State Fault Refusal :=
  finish (loadD d (s.eaOff b off 8) s)

def execEvSync (d b : Fin 32) (off : BitVec 11) (s : State) : Host.Outcome State Fault Refusal :=
  finish (loadD d (s.eaOff b off 8) s)

def execEvLock (d b : Fin 32) (off : BitVec 11) (s : State) : Host.Outcome State Fault Refusal :=
  finish (loadD d (s.eaOff b off 8) s)

def execEvUnlock (b : Fin 32) (off : BitVec 11) (s : State) : Host.Outcome State Fault Refusal :=
  finish (storeD 0 (s.eaOff b off 8) s)

def execEvSignal (b : Fin 32) (off : BitVec 11) (s : State) : Host.Outcome State Fault Refusal :=
  finish (storeD 0 (s.eaOff b off 8) s)

def execEvClear (b : Fin 32) (off : BitVec 11) (s : State) : Host.Outcome State Fault Refusal :=
  finish (storeD 0 (s.eaOff b off 8) s)

def execEvInit (d b : Fin 32) (off : BitVec 11) (s : State) : Host.Outcome State Fault Refusal :=
  finish (storeD (s.reg d) (s.eaOff b off 8) s)

/-! ## LDR, STP, PREF and KLD (R150 to R154) -/

/-- A location lies outside the core (R150). -/
def State.outside (s : State) : Loc → Bool
  | .scratch _ x y _ => !s.isSelf x y
  | _ => true

/-- LDR at its point of coherence; the L1's line is written back before and dropped after (R263). Outside the core it is a blocking
point, at which a save stops the thread (R150, R386). -/
def ldrAt (d : Fin 32) (va : Word) (s : State) : Res State := do
  let (x, s1) ← coherentSite Need.load 8 va false s
  match x with
  | .loc l =>
    let s2 := if l.isScratch then s1 else s1.writeBackLine l.key
    if s1.outside l && s.saving then parkOn 7 va 0 s2
    else if s2.poisoned l.key then trapBad va l.key s2
    else
      let s3 := ((s2.cross 8 l).flushLoc l).ret d (s2.word l.key)
      if s1.outside l then blocking s (.ok s3) else .ok s3
  | _ => .ok ((s1.noteSites va [x]).ret d 0)

def execLdr (d b : Fin 32) (off : BitVec 11) (s : State) : Host.Outcome State Fault Refusal :=
  finish (ldrAt d (s.eaOff b off 8) s)

/-- The lowest free journal entry. -/
def Thread.freeEntry (t : Thread) : Option (Fin 16) :=
  (List.finRange 16).find? fun j => decide (t.journal[j].state = .free)

/-- The target core of a posted store refuses it (R143, R152). -/
def State.entryRefused (s : State) (a : Word) : Bool :=
  !(s.isSelf (bits a 19 5) (bits a 24 5) || s.corePresent s.ctxNo (bits a 19 5) (bits a 24 5))

/-- The eight bytes of a posted store at its target. -/
def State.postSites (s : State) (a : Word) : List Site :=
  (List.range 8).map fun j => s.scratchSite (bits a 19 5) (bits a 24 5) (bits a 0 19 + j)

/-- A posted store waits at its port: behind a lock (R294), or while the clock of its target is stopped (R407). -/
def State.postLocked (s : State) (a : Word) : Bool :=
  (s.postSites a).any (s.siteLocked false true) || (s.postSites a).any s.siteStopped

/-- Two posted stores have one target core (R151). -/
def sameTarget (a b : Word) : Bool := decide (bits a 19 10 = bits b 19 10)

/-- The place of a posted store of a thread among those that wait at their ports: 0 where it is performed as it is sent; it waits
behind a lock, and behind an older one that waits to be performed at the same core (R151). -/
def Thread.portFor (t : Thread) (a : Word) (s : State) : Nat :=
  if s.postLocked a || t.journal.toList.any fun e => e.waits && sameTarget e.addr a then
    1 + t.journal.toList.foldl (fun n e => max n e.port) 0
  else 0

/-- The waiting store of an entry is the oldest one of its thread to its core. -/
def Thread.portTurn (t : Thread) (e : JEntry) : Bool :=
  !t.journal.toList.any fun o => o.waits && sameTarget o.addr e.addr && decide (o.port < e.port)

/-- A posted store performed at its target as it is sent, unless it waits at the port; dropped out of range or where the target
refuses it. -/
def sendPosted (a data : Word) (port : Nat) (s : State) : State :=
  if s.entryRefused a || decide (port ≠ 0) then s
  else (writeSites s (s.postSites a) (leBytes 8 data.toNat)).cleanStore (s.postSites a)

/-- STP (R151, R152). Behind a lock of another core's bank, or an older STP to the same core that waits, it commits, and its store waits
at the port (R294). An address outside the scratchpad window is a protection violation, be it aligned or not (log 88). -/
def execStp (d b : Fin 32) (off : BitVec 11) (s : State) : Host.Outcome State Fault Refusal :=
  let va := s.eaOff b off 8
  finish (
    if va.toNat < 0x00F0000000000000 ∨ 0x00F0000020000000 ≤ va.toNat then trapAt 0x03 va s
    else if va.toNat % 8 ≠ 0 then trapAt 0x04 va s
    else if (s.postSites va).any (s.siteLocked true true) then trapAt 0x12 va s
    else match s.me.freeEntry with
      | none => parkOn 32 va 0 s
      | some j =>
        let n := s.me.portFor va s
        let s1 := s.setMe { s.me with
          journal := s.me.journal.set j ⟨.posted, va, s.reg d, s.me.lastTag, s.mode, n⟩ }
        .ok ((sendPosted va (s.reg d) n s1).advance 4))

/-- PREF (R153) changes nothing that a program can read: PREF.L1 may bring a readable, present, clean line into the
L1; every other case is dropped. -/
def execPref (llc : Bool) (b : Fin 32) (off : BitVec 11) (s : State) : Host.Outcome State Fault Refusal :=
  let va := s.eaOff b off 64
  let s1 :=
    if llc || decide (classify s va ≠ .paged) || s.blocked s.ctxNo va.toNat false false then s
    else match s.translate s.ctxNo va.toNat false with
      | .ok (e, s1) =>
        let l := e.loc' va.toNat
        if e.r && (decide (e.loc ≠ 0) || decide (e.pa + (va.toNat - e.base) < hbmSize)) &&
            !(List.range 8).any (fun j => s.poisoned (l.key / 64 * 64 + 8 * j)) then
          fillLine (s1.cross 64 l) (l.key / 64 * 64) 64
        else s
      | .error _ => s
  .next (s1.advance 4)

def execKld (d b : Fin 32) (off : BitVec 11) (s : State) : Host.Outcome State Fault Refusal :=
  let idx := s.reg b + off.signExtend 64
  if idx.toNat ≤ 255 then .next (s.ret d ((s.kword idx.toNat).signExtend 64))
  else .next ((s.noteRange 3 idx).ret d 0)

/-! ## Full/empty tagged words (R155 to R158) -/

/-- The site of a tagged access: scratchpad, HBM or out of range. -/
def taggedSite (need : Need) (rmw : Bool) (va : Word) (s : State) : Res (Site × State) := do
  let (x, s1) ← coherentSite need 8 va rmw s
  match x with
  | .loc l => if l.tagged then .ok (x, s1.flushLoc l) else trapAt 0x07 va s1
  | _ => .ok (x, s1)

/-- The tag at a site; an out-of-range word is empty (R155). -/
def State.siteTag (s : State) : Site → Bool
  | .loc l => s.tag l.key
  | _ => false

/-- LDF and LDFE: the word is read when its tag is full, LDFE empties it, and the read is an acquire (R267). A word out of range is
empty for ever (R155), so that it never completes and records nothing (R141). -/
def tagLoad (kind : Nat) (empty : Bool) (d : Fin 32) (va : Word) (s : State) : Res State := do
  let (x, s1) ← taggedSite Need.load empty va s
  match x with
  | .loc l =>
    if !s1.tag l.key then parkOn kind va 0 s1
    else if s1.poisoned l.key then trapBad va l.key s1
    else
      let s2 := if empty then s1.setTag l.key false else s1
      .ok ((s2.acquire (s2.naturalScope va)).ret d (s1.word l.key))
  | _ => parkOn kind va 0 s1

def execLdf (d b : Fin 32) (off : BitVec 11) (s : State) : Host.Outcome State Fault Refusal :=
  finish (blocking s (tagLoad 4 false d (s.eaOff b off 8) s))

def execLdfe (d b : Fin 32) (off : BitVec 11) (s : State) : Host.Outcome State Fault Refusal :=
  finish (blocking s (tagLoad 5 true d (s.eaOff b off 8) s))

/-- The write of STF and STEF: the word, its tag full, as a release at its natural scope (R156, R267). -/
def tagWrite (v va : Word) (x : Site) (s : State) : State :=
  match x with
  | .loc l => ((s.setWord l.key v).setPoison l.key false).setTag l.key true
  | _ => s.noteSites va [x]

def execStf (d b : Fin 32) (off : BitVec 11) (s : State) : Host.Outcome State Fault Refusal :=
  let va := s.eaOff b off 8
  finishStore (.stf d b off) 4 do
    let (x, s1) ← taggedSite Need.store false va s
    let s2 ← releaseRes (s1.naturalScope va) s1
    .ok ((tagWrite (s.reg d) va x s2).advance 4)

def execStef (d b : Fin 32) (off : BitVec 11) (s : State) : Host.Outcome State Fault Refusal :=
  let va := s.eaOff b off 8
  finish (blocking s do
    let (x, s1) ← taggedSite Need.store true va s
    let s2 ← releaseRes (s1.naturalScope va) s1
    if s2.siteTag x then parkOn 6 va (s.reg d) s2 else .ok ((tagWrite (s.reg d) va x s2).advance 4))

/-- A tag set or cleared at a site. -/
def State.setSiteTag (s : State) (va : Word) (b : Bool) : Site → State
  | .loc l => s.setTag l.key b
  | x => s.noteSites va [x]

def execTagset (b : Fin 32) (off : BitVec 11) (s : State) : Host.Outcome State Fault Refusal :=
  let va := s.eaOff b off 8
  finishStore (.tagset b off) 4 do
    let (x, s1) ← taggedSite Need.store false va s
    let s2 ← releaseRes (s1.naturalScope va) s1
    .ok ((s2.setSiteTag va true x).advance 4)

def execTagclr (b : Fin 32) (off : BitVec 11) (s : State) : Host.Outcome State Fault Refusal :=
  let va := s.eaOff b off 8
  finishStore (.tagclr b off) 4 do
    let (x, s1) ← taggedSite Need.store false va s
    .ok ((s1.setSiteTag va false x).advance 4)

def execTagtst (d b : Fin 32) (off : BitVec 11) (s : State) : Host.Outcome State Fault Refusal :=
  let va := s.eaOff b off 8
  finish do
    let (x, s1) ← taggedSite Need.load false va s
    .ok ((s1.noteSites va [x]).ret d (if s1.siteTag x then 1 else 0))

/-! ## Atomics and fences (R164 to R168) -/

/-- The new word of an atomic of w bits (R164); `cmp` is x4. -/
def amoNew (op : AmoOp) (w : Nat) (old v cmp : Nat) : Nat :=
  let so := signedOf old w
  let sv := signedOf v w
  match op with
  | .add => (old + v) % 2 ^ w
  | .and => old &&& v
  | .or => old ||| v
  | .xor => old ^^^ v
  | .xchg => v
  | .inc => (old + 1) % 2 ^ w
  | .min => if so ≤ sv then old else v
  | .max => if sv ≤ so then old else v
  | .minu => Nat.min old v
  | .maxu => Nat.max old v
  | .cas => if old = cmp then v else old
  | .fadd => (FFmt.f32.encode (Exact.add (FFmt.f32.decode old) (FFmt.f32.decode v)).1).1

/-- The release and acquire parts of an order at a scope. -/
def relPart (o : Order) (sc : Scope) (s : State) : Res State := if Order.releases o then releaseRes sc s else .ok s
def acqPart (o : Order) (sc : Scope) (s : State) : State := if Order.acquires o then s.acquire sc else s

/-- An atomic of n bytes at the address va. -/
def amoAt (n : Nat) (d : Fin 32) (va v : Word) (op : AmoOp) (o : Order) (sc : Scope) (s : State) : Res State := do
  let (x, s1) ← coherentSite Need.amo n va true s
  let s2 ← relPart o sc s1
  match x with
  | .loc l =>
    if op = .fadd ∧ !l.tagged then trapAt 0x03 va s1
    else
      let s3 := (s2.cross (if op = .cas then 3 * n else 2 * n) l).flushLoc l
      if s3.poisoned l.key then trapBad va l.key s3
      else
        let old := s3.num l.key n
        let new := amoNew op (8 * n) old (v.toNat % 2 ^ (8 * n)) ((s.xreg 4).toNat % 2 ^ (8 * n))
        .ok ((acqPart o sc (s3.setNum l.key n new)).ret d (finishW (decide (n = 4)) old))
  | _ => .ok ((acqPart o sc (s2.noteSites va [x])).ret d 0)

def execAmoW (d b v : Fin 32) (op : AmoOp) (o : Order) (sc : Scope) (s : State) : Host.Outcome State Fault Refusal :=
  finish (amoAt 4 d (s.reg b) (s.reg v) op o sc s)

def execAmoD (d b v : Fin 32) (op : AmoOp) (o : Order) (sc : Scope) (s : State) : Host.Outcome State Fault Refusal :=
  finish (amoAt 8 d (s.reg b) (s.reg v) op o sc s)

def execFence (o : Order) (sc : Scope) (s : State) : Host.Outcome State Fault Refusal :=
  finish do
    let s1 ← relPart o sc s
    .ok ((acqPart o sc s1).advance 4)

/-! ## Events of the memory siding -/

/-- A posted store that waits at its port is performed where no lock holds it any more (R294). -/
def servePort (e : JEntry) (s : State) : State := if e.port ≠ 0 then sendPosted e.addr e.data 0 s else s

/-- POSTED_STORE_ACK (R152): the target has performed the store and acknowledges; out-of-range bytes are recorded (R141). -/
def execPostedStoreAck (t : ThreadId) (j : Fin 16) (s : State) : Host.Outcome State Fault Refusal :=
  let e := (s.th t).journal[j]
  if e.state = .posted ∧ !s.entryRefused e.addr ∧ (e.port = 0 ∨ (!s.postLocked e.addr ∧ (s.th t).portTurn e)) then
    let s0 := servePort e s
    let s1 := s0.setTh t ((s.th t).leavePosted j { e with state := .free, addr := 0, data := 0, port := 0 })
    .next (s1.noteSites e.addr [s.scratchSite (bits e.addr 19 5) (bits e.addr 24 5) (bits e.addr 0 19)])
  else .next s

/-- POSTED_STORE_REFUSAL (R152): the entry is Refused, and its thread is to be stopped with a service trap (R378); a
thread that has ended or is stopped by its launch's end sends none. -/
def execPostedStoreRefusal (t : ThreadId) (j : Fin 16) (s : State) : Host.Outcome State Fault Refusal :=
  let x := s.th t
  let e := x.journal[j]
  if e.state = .posted ∧ s.entryRefused e.addr then
    let ends := decide (x.run = .ended) || decide (x.run = .stopped) || decide (e.mode = .finished)
    .next (s.setTh t { (x.leavePosted j { e with state := .refused, port := 0 }) with
      refused := if ends then x.refused else x.refused ++ [j] })
  else .next s

/-- A line leaves the L1: its dirty bytes are written back and it is dropped. -/
def State.evict (s : State) (line : Nat) : State := (s.writeBackLine (line * 64)).dropLine (line * 64)

/-- L1_EVICTION (R263). -/
def execL1Eviction (line : Nat) (s : State) : Host.Outcome State Fault Refusal := .next (s.evict line)

/-- The lines that the L1 holds a byte of, the lowest first. -/
def l1Lines : List (Nat × Option L1Byte) → List Nat
  | [] => []
  | [p] => [p.1 / 64]
  | p :: q :: l => if p.1 / 64 = q.1 / 64 then l1Lines (q :: l) else p.1 / 64 :: l1Lines (q :: l)

/-- An L1 of 64 KiB keeps 1,024 lines (R14): what a step allocates beyond them is evicted, each line by a free value
(log 94). -/
def trimL1 (s : State) : Nat → State
  | 0 => s
  | n + 1 =>
    let l := l1Lines s.core.l1
    if l.length ≤ 1024 then s
    else trimL1 (s.tickFree.evict (l.getD (s.free.toNat % l.length) 0)) n
def State.trimL1 (s : State) : State :=
  if s.core.l1.length ≤ 1024 then s else Machine.trimL1 s ((l1Lines s.core.l1).length - 1024)

/-- LINK_ACK (R284): a far side acknowledges an access of a thread. -/
def execLinkAck (t : ThreadId) (s : State) : Host.Outcome State Fault Refusal :=
  .next (s.setTh t { (s.th t) with unacked := (s.th t).unacked - 1 })

/-- The tag condition that a waiting LDF, LDFE or STEF tests (R157). -/
def tagReady (t : ThreadId) (s : State) : Bool :=
  let w := (s.th t).wake
  let c := match sites (if w.kind = 6 then Need.store else Need.load) w.addr 8 { s with cur := t } with
    | .ok (x :: _, _) => some (s.siteTag x)
    | _ => none
  if w.kind = 4 ∨ w.kind = 5 then decide (c = some true) else decide (w.kind = 6) && decide (c = some false)

/-- TAG_WAITER_WAKE (R157): the port tests a waiter again; its instruction is served when the condition holds. -/
def execTagWaiterWake (t : ThreadId) (s : State) : Host.Outcome State Fault Refusal :=
  if tagReady t s then .next (s.setTh t { (s.th t) with retry := true }) else .next s

/-- PAGE_WAIT_PARK (R146, R396): a parked access posts its fault record, with the reason it parked for, once the queue has
room. -/
def execPageWaitPark (t : ThreadId) (s : State) : Host.Outcome State Fault Refusal :=
  let x := s.th t
  if x.wake.kind = 12 ∧ !x.wake.done then
    let s1 := { s with cur := t }
    let code := x.wake.operand.toNat
    let k : FaultKind := ⟨decide (code / 16 % 2 = 1), decide (code / 32 % 2 = 1), false⟩
    match (pageWait x.wake.aux.toNat k x.wake.addr x.pc s1 : Res State) with
    | .error (.park w s2) => .next { (s2.setTh t { x with wake := w, retry := false }) with cur := s.cur }
    | _ => .next s
  else .next s

/-- The REPLY word of a thread's fault record (R396). -/
def replyKey (t : ThreadId) (s : State) : Nat := (s.desc s.ctxNo 4).toNat + 64 + 32 * (s.th t).wake.aux.toNat + 24

/-- FAULT_REPLY (R396): a full REPLY of 0 makes the access walk again; 1 makes it a precise protection violation: for a
fetch, of the instruction that is issued with it (R28). -/
def execFaultReply (t : ThreadId) (s : State) : Host.Outcome State Fault Refusal :=
  let x := s.th t
  let k := replyKey t s
  if x.wake.kind = 12 ∧ x.wake.done ∧ x.wake.aux ≠ 0xFFFF ∧ s.tag k then
    if s.word k = 0 then .next (s.setTh t { x with wake := x.wake.walks, retry := !x.wake.unissued })
    else
      let s1 := { s with cur := t }
      let s2 := if x.wake.unissued then s1.newTag else s1.setMe { x with wake := Wake.none }
      .next { (takeTrap 0x03 x.wake.addr 0 s2) with cur := s.cur }
  else .next s

end Sys2Proof.Machine
end

