-- ==== Sys2Proof/Machine/VecMem.lean ====
section
/-! DEFINITION. Vector loads and stores (R159 to R163). -/

namespace Sys2Proof.Machine

/-- Where a lane leads: the bytes of a raw lane, or an element of a bank. -/
inductive LaneT where
  | raw (va : Word) (l : List Site)
  | elt (va : Word) (e : Elt)
  deriving DecidableEq, Repr

/-- The lane type of a typed access. -/
def memFmt : MemTy → Fmt
  | .raw => .raw
  | .i32 => .i32
  | .n32 => .n32
  | .f32 => .f32

/-- A raw lane of four bytes. -/
def rawLane (need : Need) (va : Word) (s : State) : Res (LaneT × State) := do
  let (l, s1) ← sites need va 4 s
  if l.contains .event then trapAt 0x03 va s1 else .ok (.raw va l, s1)

/-- The target of a lane: element ElemIndex(va) + rel of a typed bank, else four bytes at va + 4 × rel (R159, R161). -/
def laneTarget (need : Need) (typed : Bool) (va : Word) (rel : Int) (s : State) : Res (LaneT × State) :=
  match s.bankAt va with
  | some (r, va0, off) =>
    if typed && decide (s.bankCode r ≠ .raw) then
      if s.refuses va r.x r.y then trapAt 0x03 va s
      else .ok (.elt va (s.elt r va0 (elemIndex (s.bankCode r) off + rel)), s)
    else rawLane need (va + BitVec.ofInt 64 (4 * rel)) s
  | none => rawLane need (va + BitVec.ofInt 64 (4 * rel)) s

/-- The targets of all lanes. -/
def laneTargets (need : Need) (typed : Bool) : List (Word × Int) → State → Res (List LaneT × State)
  | [], s => .ok ([], s)
  | (va, rel) :: l, s => do
    let (t, s1) ← laneTarget need typed va rel s
    let (r, s2) ← laneTargets need typed l s1
    .ok (t :: r, s2)

/-- The bytes a lane touches. -/
def LaneT.sites : LaneT → List Site
  | .raw _ l => l
  | .elt _ (.ok r f e) => (List.range f.size).map fun j => .loc (.scratch r.ctx r.x r.y (r.bank * 65536 + e / f.per * f.size + j))
  | .elt _ (.oor c _) => [.oor c]

/-- The bytes of a raw lane, which a store writes whole. -/
def LaneT.rawSites : LaneT → List Site
  | .raw _ l => l
  | .elt _ _ => []

/-- The bank offset of the container that a typed lane accesses. -/
def eltOffset (f : Fmt) (e : Nat) : Nat := e / f.per * f.size

/-- SCR.ERR records a lane's out-of-range byte, be it its row's exponent (R80, R141). -/
def State.noteLane (s : State) : LaneT → State
  | .raw va l => s.noteSites va l
  | .elt _ (.oor c va) => s.noteRange c va
  | .elt va (.ok r f e) => match s.bankAt va, s.rowExpOor r (eltOffset f e) with
    | some b, some j => s.noteRange 1 (b.2.1 + BitVec.ofNat 64 j)
    | _, _ => s
def State.noteLanes (s : State) (l : List LaneT) : State := l.foldl State.noteLane s

/-- The bytes that a lane of a load reads: a typed lane reads its row's exponent, too (R80). -/
def LaneT.readSites (s : State) : LaneT → List Site
  | .elt va (.ok r f e) => (LaneT.elt va (.ok r f e)).sites ++
    if (s.rowExp r (eltOffset f e)).isSome then [.loc (.scratch r.ctx r.x r.y (r.bank * 65536 + 64512 + eltOffset f e / 64))] else []
  | t => t.sites

/-- The checks of an access after its translation: range locks and older posted stores (R294, R275). -/
def laneChecks (write rmw : Bool) (va : Word) (l : List LaneT) (s : State) : Res Unit := do
  let all := l.flatMap LaneT.sites
  lockCheck va write rmw all s
  if s.behindStp all then parkOn 32 va 0 s else .ok ()

/-! ## Loads -/

/-- The value of a lane: its bits, its flags, and whether a word it reads is poisoned. -/
def readLane (f : Fmt) (t : LaneT) (s : State) : (Lane × Fl × Bool) × State :=
  match t with
  | .raw _ l =>
    let (r, s1) := readSites s l
    ((BitVec.ofNat 32 (leNat r.1), 0, r.2), s1)
  | .elt _ (.ok r g e) =>
    let v := encLane f (s.readElt r g e)
    ((v.1, v.2, s.eltPoisoned r g e || s.scaleBad r (eltOffset g e)), s)
  | .elt _ (.oor _ _) => ((0, 0, false), s)

def readLanes (f : Fmt) : List LaneT → State → List (Lane × Fl × Bool) × State
  | [], s => ([], s)
  | t :: l, s =>
    let (x, s1) := readLane f t s
    let (r, s2) := readLanes f l s1
    (x :: r, s2)

/-- A vector load of the lanes at some addresses into v<d>, under the interlock of R55; all lanes in one step (log 111). -/
def vload (d : Fin 16) (ty : MemTy) (lanes : List (Word × Int)) (s : State) : Res State := do
  let va := (lanes.headD (0, 0)).1
  let (ts, s1) ← laneTargets Need.load (decide (ty ≠ .raw)) lanes s
  laneChecks false false va ts s1
  let (r, s2) := readLanes (memFmt ty) ts s1
  if r.any (·.2.2) then trapBad va (s2.firstBadSite (ts.flatMap (LaneT.readSites s2))) s1
  else
    let flags := r.foldl (fun a p => a ||| p.2.1) 0
    .ok ((((s2.noteLanes ts).putV d (lanesOf (r.map (·.1)))).raise flags).advance 4)

/-- The lane addresses of the four forms (R161). -/
def lanesPlain (a : Word) : List (Word × Int) := (List.range 64).map fun (i : Nat) => (a, (i : Int))
def lanesStrided (a x5 : Word) : List (Word × Int) := (List.range 64).map fun i => (a + BitVec.ofNat 64 i * x5, 0)
def lanesIndexed (a : Word) (x : Vector Lane 64) : List (Word × Int) := x.toList.map fun i => (a, i.toInt)
def lanesSplat (a : Word) : List (Word × Int) := List.replicate 64 (a, 0)

def execVld (v : Fin 16) (ty : MemTy) (b : Fin 32) (off : BitVec 10) (s : State) : Host.Outcome State Fault Refusal :=
  finish (vload v ty (lanesPlain (s.eaOff b off 256)) s)

def execVlds (v : Fin 16) (ty : MemTy) (b : Fin 32) (off : BitVec 10) (s : State) : Host.Outcome State Fault Refusal :=
  finish (vload v ty (lanesStrided (s.eaOff b off 256) (s.xreg 5)) s)

def execVldx (v : Fin 16) (ty : MemTy) (b : Fin 32) (x : Fin 16) (s : State) : Host.Outcome State Fault Refusal :=
  finish do
    let i ← readInterlocked x s
    vload v ty (lanesIndexed (s.reg b) i) s

def execVldb (v : Fin 16) (ty : MemTy) (b : Fin 32) (off : BitVec 10) (s : State) : Host.Outcome State Fault Refusal :=
  finish (vload v ty (lanesSplat (s.eaOff b off 4)) s)

/-! ## Stores -/

/-- One lane written, with the flags of its conversion. -/
def writeLane (f : Fmt) (t : LaneT) (x : Lane) (s : State) : State × Fl :=
  match t with
  | .raw _ l => (writeSites s l (leBytes 4 x.toNat), 0)
  | .elt _ (.ok r g e) => s.writeElt r g e (decLane f x)
  | .elt _ (.oor _ _) => (s, 0)

/-- The lanes written in ascending order (R163), with the union of their flags. -/
def writeLanes (f : Fmt) : List LaneT → List Lane → State → State × Fl
  | t :: l, x :: r, s =>
    let (s1, a) := writeLane f t x s
    let (s2, b) := writeLanes f l r s1
    (s2, a ||| b)
  | _, _, s => (s, 0)

/-- A vector store of v<v> to the lanes at some addresses: every lane is checked before any is performed (R159), then all are performed in
one step (log 111), in ascending order also for VST and VSTS (log 116). The raw lanes together count as a store of the words that they
cover, the typed ones do not (log 126). -/
def vstore (v : Fin 16) (ty : MemTy) (lanes : List (Word × Int)) (s : State) : Res State := do
  let va := (lanes.headD (0, 0)).1
  let data ← readInterlocked v s
  let (ts, s1) ← laneTargets Need.store (decide (ty ≠ .raw)) lanes s
  laneChecks true false va ts s1
  let (s2, flags) := writeLanes (memFmt ty) ts data.toList s1
  .ok ((((s2.cleanStore (ts.flatMap LaneT.rawSites)).noteLanes ts).raise flags).advance 4)

def execVst (v : Fin 16) (ty : MemTy) (b : Fin 32) (off : BitVec 10) (s : State) : Host.Outcome State Fault Refusal :=
  finishStore (.vst v ty b off) 4 (vstore v ty (lanesPlain (s.eaOff b off 256)) s)

def execVsts (v : Fin 16) (ty : MemTy) (b : Fin 32) (off : BitVec 10) (s : State) : Host.Outcome State Fault Refusal :=
  finishStore (.vsts v ty b off) 4 (vstore v ty (lanesStrided (s.eaOff b off 256) (s.xreg 5)) s)

def execVstx (v : Fin 16) (ty : MemTy) (b : Fin 32) (x : Fin 16) (s : State) : Host.Outcome State Fault Refusal :=
  finishStore (.vstx v ty b x) 4 do
    let i ← readInterlocked x s
    vstore v ty (lanesIndexed (s.reg b) i) s

/-! ## VSTX.ADD (R163) -/

/-- One lane added at its element's port; the sum in a raw bank, where no element format applies, is a free value
(log 18). The bank's add sets no flag (R78). -/
def addLane (f : Fmt) (t : LaneT) (x : Lane) (s : State) : State :=
  match t with
  | .raw _ l => (writeSites s l (leBytes 4 s.free.toNat)).tickFree
  | .elt _ (.ok r g e) => (s.writeElt r g e (Exact.add (s.readElt r g e) (decLane f x)).1).1
  | .elt _ (.oor _ _) => s

def addLanes (f : Fmt) : List LaneT → List Lane → State → State
  | t :: l, x :: r, s => addLanes f l r (addLane f t x s)
  | _, _, s => s

/-- The word a lane reads is poisoned. -/
def lanePoisoned (s : State) (t : LaneT) : Bool :=
  (t.readSites s).any fun x => match x with
    | .loc l => s.poisoned l.key
    | _ => false

/-- A lane of VSTX.ADD targets a scratchpad bank (R163). -/
def laneAtBank (va : Word) (rel : Int) (s : State) : Bool :=
  match s.bankAt va with
  | some (r, _, _) => decide (s.bankCode r ≠ .raw) || (s.bankAt (va + BitVec.ofInt 64 (4 * rel))).isSome
  | none => false

def execVstxAdd (v : Fin 16) (ty : MemTy) (b : Fin 32) (x : Fin 16) (s : State) : Host.Outcome State Fault Refusal :=
  finish do
    let i ← readInterlocked x s
    let data ← readInterlocked v s
    let va := s.reg b
    if (lanesIndexed va i).any fun p => !laneAtBank p.1 p.2 s then trapAt 0x03 va s
    else
      let (ts, s1) ← laneTargets Need.amo true (lanesIndexed va i) s
      laneChecks true true va ts s1
      if ts.any (lanePoisoned s1) then trapBad va (s1.firstBadSite (ts.flatMap (LaneT.readSites s1))) s1
      else .ok (((addLanes (memFmt ty) ts data.toList s1).noteLanes ts).advance 4)

end Sys2Proof.Machine
end

