-- ==== Sys2Proof/Machine/Engine.lean ====
section
/-! DEFINITION. What every engine command shares: completion counters (R290), range locks (R205, R293), acceptance
into a queue (R198, R297), the bytes of scratchpad rows (R204), and the faults of engines. -/

namespace Sys2Proof.Machine

/-- The performing thread as the giver of a command (R264). -/
def State.owner (s : State) : Agent :=
  match s.cur with
  | .pri => .pri
  | .aux => .aux

/-- The task record that a sequencer serves (R305). -/
def State.recordOf (s : State) (own : Agent) : Option Nat :=
  match own with
  | .mseq => s.core.mseq.record
  | .cseq => s.core.cseq.record
  | _ => none

/-- A command with the values it captures at its start at P7. -/
def State.command (s : State) (own : Agent) (i : Instr) (a b : Fin 32) (lanes : Vector Lane 64) : Cmd :=
  ⟨s.core.cmdCtr, own, s.pc, s.me.lastTag, i, s.reg a, s.reg b, s.xreg 4, s.xreg 5, s.xreg 6, s.xreg 7, lanes,
    s.recordOf own, s.inHandler && decide (own = .aux)⟩

/-- No lanes. -/
def noLanes : Vector Lane 64 := Vector.replicate 64 0

/-! ## Counters (R290) -/

/-- The counter an x7 names, unless it says NOCNT (R105). -/
def counterOf (x7 : Word) : Option (Fin 16) :=
  if x7.getLsbD 4 then none else some ⟨bits x7 0 4, by unfold bits; omega⟩

/-- x7 is well formed (R106). -/
def x7ok (x7 : Word) : Bool := decide (bits x7 5 59 = 0)
/-- x6 is well formed (R106). -/
def x6ok (x6 : Word) : Bool := decide (bits x6 19 45 = 0) && decide (bits x6 16 2 ≠ 3)

/-- The accepting instruction must wait: its counter stands at 255. -/
def State.counterFull (s : State) (c : Option (Fin 16)) : Bool :=
  match c with
  | some i => decide (s.core.cc[i] = 255)
  | none => false

/-- The counter incremented at acceptance, in acceptance order. -/
def State.countUp (s : State) (c : Option (Fin 16)) (id : Nat) : State :=
  match c with
  | some i => { s with core := { s.core with
      cc := s.core.cc.set i (s.core.cc[i] + 1)
      counted := s.core.counted ++ [⟨i, id, false⟩] } }
  | none => s

/-- The counted commands of counter i that have completed before every older uncompleted one. -/
def readyCount (i : Fin 16) : List Counted → Nat
  | [] => 0
  | c :: l => if c.cc = i then (if c.complete then readyCount i l + 1 else 0) else readyCount i l

/-- The counted commands without the first n of counter i. -/
def dropCounted (i : Fin 16) : Nat → List Counted → List Counted
  | 0, l => l
  | _, [] => []
  | n + 1, c :: l => if c.cc = i then dropCounted i n l else c :: dropCounted i (n + 1) l

/-- A command completes: its counter is decremented once every older command on it has been counted down (R290). -/
def State.countDown (s : State) (id : Nat) : State :=
  let l := s.core.counted.map fun c => if c.id = id then { c with complete := true } else c
  match s.core.counted.find? (·.id = id) with
  | none => s
  | some e =>
    let n := readyCount e.cc l
    { s with core := { s.core with
      cc := s.core.cc.set e.cc (s.core.cc[e.cc] - BitVec.ofNat 8 n)
      counted := dropCounted e.cc n l } }

/-! ## Range locks (R205, R293) -/

/-- A byte range of a bank with its role. -/
structure Range where
  x : Nat
  y : Nat
  bank : Nat
  lo : Nat
  hi : Nat
  dest : Bool
  deriving DecidableEq, Repr

/-- The range widened to a byte span of one bank, one range for each bank and role. -/
def addRange (r : Range) : List Range → List Range
  | [] => [r]
  | q :: l =>
    if q.x = r.x ∧ q.y = r.y ∧ q.bank = r.bank ∧ q.dest = r.dest then
      { q with lo := min q.lo r.lo, hi := max q.hi r.hi } :: l
    else q :: addRange r l

/-- The ranges of n bytes from a local offset on, cut at the bank ends; bytes beyond the core's 512 KiB have none. -/
def spanRanges (x y off n : Nat) (dest : Bool) (l : List Range) : List Range :=
  ((List.range 8).filter fun b => decide (off < (b + 1) * 65536) && decide (b * 65536 < off + n)).foldl
    (fun a b => addRange ⟨x, y, b, max off (b * 65536) - b * 65536, min (off + n) ((b + 1) * 65536) - 1 - b * 65536, dest⟩ a) l

/-- A free lock of a bank: the model takes the lowest (R293, log 91). -/
def freeLock (l : List Lock) (r : Range) : Option Nat :=
  [0, 1, 2, 3].find? fun j => !l.any fun k => decide (k.x = r.x) && decide (k.y = r.y) && decide (k.bank = r.bank) &&
    decide (k.slot = j)

/-- Locks registered for some ranges, or none where a bank has no free lock. -/
def registerLocks (id : Nat) (c : Option (Fin 16)) : List Range → List Lock → Option (List Lock)
  | [], l => some l
  | r :: rs, l => match freeLock l r with
    | some j => registerLocks id c rs (l ++ [⟨id, r.x, r.y, r.bank, j, r.lo, r.hi, r.dest, c, false⟩])
    | none => none

/-- An older posted store of the thread that gives a command still waits at a port of one of the command's ranges (R204): the command is
accepted once it has been performed. -/
def State.storeWaits (s : State) (own : Agent) (l : List Range) : Bool :=
  decide (own = s.owner) && s.me.journal.toList.any fun e => e.waits && l.any fun r =>
    decide (bits e.addr 19 5 = r.x) && decide (bits e.addr 24 5 = r.y) && decide (bits e.addr 16 3 = r.bank) &&
      decide (r.lo ≤ bits e.addr 0 16 + 7) && decide (bits e.addr 0 16 ≤ r.hi)

/-- The locks of a command are freed. -/
def State.freeLocks (s : State) (id : Nat) : State :=
  { s with core := { s.core with locks := s.core.locks.filter fun k => k.far || decide (k.cmd ≠ id) } }

/-! ## Faults of engines (R204, R298, R299) -/

/-- A terminal fault that an engine, a copy or a sequencer raises: a message with ENG = 1 and the end of the launch. -/
def engineFault (cause : Nat) (addr pc : Word) (tag : BitVec 7) (owner : Agent) (s : State) : State :=
  let aux := decide (owner = .aux)
  let s1 := s.sendTerminal (s.mkMsg ⟨cause, true, aux, true, false, tag.toNat, false, 0, pc, addr, 0⟩)
  match s.core.launch with
  | some id => s1.killLaunch id cause (s.statusInfo (if aux then .aux else .pri))
  | none => s1

/-- An engine, a copy or a sequencer consumes a poisoned word (R437). -/
def engineBad (key : Nat) (addr pc : Word) (tag : BitVec 7) (owner : Agent) (s : State) : State :=
  engineFault 0x05 addr pc tag owner (s.logPoison 0x05 key)

/-- The key of a word in an SRAM of a core that is no scratchpad word. -/
def coreWord : Nat := 2 ^ 62

/-! ## Scratchpad bytes as an engine reads them (R204) -/

/-- A scratchpad operand of the issuing core's cluster: its core and local offset (R203). -/
def engineCore (va : Word) (s : State) : Res (Nat × Nat × Nat) :=
  match classify s va with
  | .scratch x y off =>
    if s.refuses va x y then trapAt 0x03 va s
    else if sameCluster x y s.core.lx.val s.core.ly.val then .ok (x, y, off)
    else trapAt 0x03 va s
  | _ => trapAt 0x03 va s

/-- Why a byte of an engine access is out of range (R81, R141); a byte beyond the allotment is recorded as that also where it lies
in the row exponents (log 106). -/
def State.engineOor (s : State) (x y off : Nat) : Option Nat :=
  if 524288 ≤ off then some 0
  else if s.allotment ≤ off then some 1
  else if typedEnd (s.fmtReg ⟨s.ctxNo, x, y, off / 65536⟩) ≤ off % 65536 then some 4
  else none

/-- n bytes at a local offset; an out-of-range byte reads as zero. -/
def State.engineBytes (s : State) (x y off : Nat) : Nat → List Byte
  | 0 => []
  | n + 1 => (match s.engineOor x y off with
      | some _ => 0
      | none => s.byte (Loc.scratch s.ctxNo x y off).key) :: s.engineBytes x y (off + 1) n

/-- The first out-of-range byte among n bytes, with its cause and its distance. -/
def State.engineFirstOor (s : State) (x y off : Nat) (n : Nat) : Option (Nat × Nat) :=
  (List.range n).findSome? fun j => (s.engineOor x y (off + j)).map fun c => (c, j)

/-- A word among n bytes is poisoned. -/
def State.enginePoisoned (s : State) (x y off n : Nat) : Bool :=
  (List.range n).any fun j => (s.engineOor x y (off + j)).isNone && s.poisoned (Loc.scratch s.ctxNo x y (off + j)).key

/-- Bytes written at a local offset; an out-of-range byte is dropped, and a whole word's store clears its poison. -/
def State.engineWrite (s : State) (x y off : Nat) : List Byte → State
  | [] => s
  | b :: l =>
    let k := (Loc.scratch s.ctxNo x y off).key
    let s1 := if (s.engineOor x y off).isNone then s.setByte k b else s
    let s2 := if off % 8 = 0 ∧ 7 ≤ l.length ∧ (s.engineOor x y off).isNone then s1.setPoison k false else s1
    s2.engineWrite x y (off + 1) l

/-- The running matrix command's first out-of-range byte is remembered (R204). -/
def Engine.note (e : Engine) (cause : Nat) (va : Word) : Engine :=
  match e.oor with
  | some _ => e
  | none => { e with oor := some (cause, va) }

/-- A command in an engine that completes: its out-of-range byte is recorded, its locks are freed and its counter falls
(R200, R204, R293). -/
def State.endCommand (s : State) (e : Engine) (c : Cmd) : State :=
  let s1 := match e.oor with
    | some (k, va) => s.noteRange k va
    | none => s
  (s1.freeLocks c.id).countDown c.id

end Sys2Proof.Machine
end

