-- ==== Sys2Proof/WellFormed.lean ====
section
/-! DEFINITION. The checks of R110 on an instruction that the types of `Instr` do not already make: an instruction
that passes is one that the encoding tables of chapter 04 can hold. -/

namespace Sys2Proof

/-- A literal source of a natural lane type must not be negative (R94). -/
def VSrc.natOk : VSrc → Bool
  | .lit n => decide (n.toNat < 8)
  | _ => true

/-- The literal rule of a VINT source pair (R94, R102). -/
def IntTy.srcOk (t : IntTy) (a : VSrc) : Bool := if t = .n32 then a.natOk else true

/-- The literal rule of a VCMP, VRED or VSCAN source (R94, R102). -/
def CmpTy.srcOk (t : CmpTy) (a : VSrc) : Bool := if t = .n32 then a.natOk else true

/-- The literal rule of a VDOT4 source (R94, R102). -/
def DotTy.srcOk (t : DotTy) (a : VSrc) : Bool := if t = .n8 then a.natOk else true

/-- The literal rule of a VCVT source by its source format (R184). -/
def VFmt.srcOk (f : VFmt) (a : VSrc) : Bool :=
  match a, f with
  | .lit _, .lg6 => false
  | .lit n, .n32 => decide (n.toNat < 8)
  | .lit n, .n8 => decide (n.toNat < 8)
  | _, _ => true

/-- A mask-source form of MSET: kind 00 is reserved (R190). -/
def VSrc.notVec : VSrc → Bool
  | .v _ => false
  | _ => true

/-- A compact register field names s1 to s15 (R107). -/
def compactReg (r : Fin 16) : Bool := r ≠ 0

/-- The operand of AMO that INC must leave zero (R104). -/
def amoOk (op : AmoOp) (v : Fin 32) (wide : Bool) : Bool :=
  (op ≠ .inc || v = 0) && (op ≠ .fadd || !wide)

/-- The instruction has an encoding (R87 to R113). The events have none. -/
def encodable : Instr → Bool
  | .vclampI _ a b t _ | .vaddI _ a b t _ | .vsubI _ a b t _ | .vmulI _ a b t _ | .vminI _ a b t _
  | .vmaxI _ a b t _ => t.srcOk a && t.srcOk b
  | .vcmp _ a b c t _ => t.srcOk a && t.srcOk b && (c ≠ .un || t = .f32)
  | .vredAdd _ a t _ | .vredMin _ a t _ | .vredMax _ a t _ | .vscanAdd _ a t _ | .vscanMin _ a t _
  | .vscanMax _ a t _ => t.srcOk a
  | .vdot4 _ a b t _ => t.srcOk a && t.srcOk b
  | .vcvt _ a s d _ => s ≠ d && s.srcOk a
  | .mset _ a _ => a.notVec
  | .vstxAdd _ ty _ _ => ty ≠ .raw
  | .loop c _ => c ≠ 0
  | .cMov d s | .cAdd d s | .cSub d s | .cAnd d s => compactReg d && compactReg s
  | .cAddi d i => compactReg d && decide (-16 ≤ i.toInt ∧ i.toInt ≤ 15)
  | .cLi d _ => compactReg d
  | .cShli d i | .cShri d i => compactReg d && decide (1 ≤ i.toInt ∧ i.toInt ≤ 15)
  | .cLdw d b _ | .cStw d b _ => compactReg d && compactReg b
  | .cBeqz s _ | .cBnez s _ => compactReg s
  | .cJr s => compactReg s
  | .amoW _ _ v op _ _ => amoOk op v false
  | .amoD _ _ v op _ _ => amoOk op v true
  | .fence o _ => o ≠ .rlx
  | .hwr i _ => decide (i.val < 14)
  | .pwrHint n => decide (n.val < 3)
  | .csrr _ c | .csrw _ _ c | .csrset _ _ c | .csrclr _ _ c => Config.csrImplemented c
  | _ => true

/-- Well-formed instructions: the encodable ones. An event is well-formed whatever its arguments. -/
def Instr.wf (i : Instr) : Bool := encodable i

end Sys2Proof
end

