-- ==== Sys2Proof/Decode.lean ====
section
/-! DEFINITION. The decoder of the instruction stream (R87 to R111) and, after it, the encoder. Every 32-bit layout
and every compact layout is a structure of its fields, read from a word by `of` and written by `word`; the decoder of
each group turns a layout's fields into an instruction or rejects them by name. -/

namespace Sys2Proof

/-- Why a bit pattern is no instruction: the rows of R110. -/
inductive Reject where
  /-- reserved major, function, cond, op, order, pair, Mc or type code; the permanently illegal patterns -/
  | reservedCode
  /-- a non-zero bit in a field that the layout or form marks zero or unused -/
  | nonzeroField
  /-- kind 00 in a format A slot that is read, or a kind the form does not allow -/
  | sourceKind
  /-- w = 1 where R100 does not allow it -/
  | wBit
  /-- a compact register field of 0, or a compact immediate out of range -/
  | compactField
  /-- a combination R102, R104, R184 or R300 reserves -/
  | combination
  /-- a control register number the device does not implement -/
  | csrNumber
  /-- fewer bytes than the instruction has -/
  | truncated
  deriving DecidableEq, Repr

/-- The decoder's answers. -/
abbrev Dec (α : Type) := Except Reject α

/-- `need c e r` is `r` where the check holds and the rejection `e` where it fails. -/
def need {α : Type} (c : Bool) (e : Reject) (r : Dec α) : Dec α := if c then r else .error e

/-! ## Layouts -/

/-- Bits [lo+n-1:lo] of a word. -/
def field (w lo n : Nat) : Nat := w / 2 ^ lo % 2 ^ n

/-- Format A (R91). -/
structure FmtA where
  d : Fin 32
  k1 : Fin 4
  a : Fin 32
  k2 : Fin 4
  b : Fin 32
  fn : Fin 8
  w : Fin 2
  z : Fin 2

/-- Format A's immediate layout (R91). -/
structure FmtI where
  d : Fin 32
  imm : BitVec 16
  fn : Fin 8

/-- Format M, offset layout (R95). -/
structure FmtM where
  d : Fin 32
  b : Fin 32
  off : BitVec 11
  fn : Fin 8

/-- Format M, indexed layout (R95). -/
structure FmtX where
  d : Fin 32
  b : Fin 32
  i : Fin 32
  sh : Fin 4
  z : Fin 16
  fn : Fin 8

/-- Format M, vector layout with an offset (R95). -/
structure FmtVM where
  v : Fin 16
  ty : Fin 4
  b : Fin 32
  off : BitVec 10
  fn : Fin 8

/-- Format M, vector layout with an index vector (R95). -/
structure FmtVX where
  v : Fin 16
  ty : Fin 4
  b : Fin 32
  x : Fin 16
  z : Fin 64
  fn : Fin 8

/-- Format B (R96). -/
structure FmtB where
  c : Fin 8
  s1 : Fin 32
  s2 : Fin 32
  h : Fin 2
  off : BitVec 10

/-- Format V (R93). -/
structure FmtV where
  v : Fin 16
  k1 : Fin 4
  a : Fin 16
  k2 : Fin 4
  b : Fin 16
  fn : Fin 8
  t : Fin 4
  dl : Fin 8

/-- Format E, multiply layout (R98). -/
structure FmtE where
  m : Fin 4
  n : Fin 64
  t : Fin 8
  b : Fin 32
  p : Fin 8
  c : Fin 2
  u : Fin 2
  dl : Fin 8

/-- Format E, tile layout (R98). -/
structure FmtT where
  fn : Fin 8
  a : Fin 32
  t : Fin 8
  b : Fin 32
  v : Fin 16
  p : Fin 2
  dl : Fin 8

/-- Format S, generic layout (R99). -/
structure FmtS where
  d : Fin 32
  a : Fin 32
  b : Fin 32
  imm : Fin 64
  fn : Fin 8

/-- Format S, atomic layout (R99). -/
structure FmtAt where
  d : Fin 32
  b : Fin 32
  v : Fin 32
  op : Fin 16
  o : Fin 8
  c : Fin 4

/-- Format S, control-register layout (R99). -/
structure FmtC where
  d : Fin 32
  a : Fin 32
  c : BitVec 12
  fn : Fin 4

/-- Compact layouts CR and CM (R107). -/
structure FmtCR where
  d : Fin 16
  s : Fin 16
  z : Fin 8

/-- Compact layouts CI and CB (R107). -/
structure FmtCI where
  d : Fin 16
  i : BitVec 7

/-- The word of a major opcode and its 24 low bits (R87, R90). -/
def majorWord (m : Fin 64) (low : Nat) : Nat := (192 + m.val) * 2 ^ 24 + low

def FmtA.of (w : Nat) : FmtA :=
  ⟨Fin.ofNat 32 (field w 19 5), Fin.ofNat 4 (field w 17 2), Fin.ofNat 32 (field w 12 5), Fin.ofNat 4 (field w 10 2),
   Fin.ofNat 32 (field w 5 5), Fin.ofNat 8 (field w 2 3), Fin.ofNat 2 (field w 1 1), Fin.ofNat 2 (field w 0 1)⟩
def FmtA.word (m : Fin 64) (f : FmtA) : Nat :=
  majorWord m (f.d * 2 ^ 19 + f.k1 * 2 ^ 17 + f.a * 2 ^ 12 + f.k2 * 2 ^ 10 + f.b * 2 ^ 5 + f.fn * 2 ^ 2 + f.w * 2 + f.z)

def FmtI.of (w : Nat) : FmtI :=
  ⟨Fin.ofNat 32 (field w 19 5), BitVec.ofNat 16 (field w 3 16), Fin.ofNat 8 (field w 0 3)⟩
def FmtI.word (m : Fin 64) (f : FmtI) : Nat := majorWord m (f.d * 2 ^ 19 + f.imm.toNat * 2 ^ 3 + f.fn)

def FmtM.of (w : Nat) : FmtM :=
  ⟨Fin.ofNat 32 (field w 19 5), Fin.ofNat 32 (field w 14 5), BitVec.ofNat 11 (field w 3 11), Fin.ofNat 8 (field w 0 3)⟩
def FmtM.word (m : Fin 64) (f : FmtM) : Nat :=
  majorWord m (f.d * 2 ^ 19 + f.b * 2 ^ 14 + f.off.toNat * 2 ^ 3 + f.fn)

def FmtX.of (w : Nat) : FmtX :=
  ⟨Fin.ofNat 32 (field w 19 5), Fin.ofNat 32 (field w 14 5), Fin.ofNat 32 (field w 9 5), Fin.ofNat 4 (field w 7 2),
   Fin.ofNat 16 (field w 3 4), Fin.ofNat 8 (field w 0 3)⟩
def FmtX.word (m : Fin 64) (f : FmtX) : Nat :=
  majorWord m (f.d * 2 ^ 19 + f.b * 2 ^ 14 + f.i * 2 ^ 9 + f.sh * 2 ^ 7 + f.z * 2 ^ 3 + f.fn)

def FmtVM.of (w : Nat) : FmtVM :=
  ⟨Fin.ofNat 16 (field w 20 4), Fin.ofNat 4 (field w 18 2), Fin.ofNat 32 (field w 13 5), BitVec.ofNat 10 (field w 3 10),
   Fin.ofNat 8 (field w 0 3)⟩
def FmtVM.word (m : Fin 64) (f : FmtVM) : Nat :=
  majorWord m (f.v * 2 ^ 20 + f.ty * 2 ^ 18 + f.b * 2 ^ 13 + f.off.toNat * 2 ^ 3 + f.fn)

def FmtVX.of (w : Nat) : FmtVX :=
  ⟨Fin.ofNat 16 (field w 20 4), Fin.ofNat 4 (field w 18 2), Fin.ofNat 32 (field w 13 5), Fin.ofNat 16 (field w 9 4),
   Fin.ofNat 64 (field w 3 6), Fin.ofNat 8 (field w 0 3)⟩
def FmtVX.word (m : Fin 64) (f : FmtVX) : Nat :=
  majorWord m (f.v * 2 ^ 20 + f.ty * 2 ^ 18 + f.b * 2 ^ 13 + f.x * 2 ^ 9 + f.z * 2 ^ 3 + f.fn)

def FmtB.of (w : Nat) : FmtB :=
  ⟨Fin.ofNat 8 (field w 21 3), Fin.ofNat 32 (field w 16 5), Fin.ofNat 32 (field w 11 5), Fin.ofNat 2 (field w 10 1),
   BitVec.ofNat 10 (field w 0 10)⟩
def FmtB.word (m : Fin 64) (f : FmtB) : Nat :=
  majorWord m (f.c * 2 ^ 21 + f.s1 * 2 ^ 16 + f.s2 * 2 ^ 11 + f.h * 2 ^ 10 + f.off.toNat)

def FmtV.of (w : Nat) : FmtV :=
  ⟨Fin.ofNat 16 (field w 20 4), Fin.ofNat 4 (field w 18 2), Fin.ofNat 16 (field w 14 4), Fin.ofNat 4 (field w 12 2),
   Fin.ofNat 16 (field w 8 4), Fin.ofNat 8 (field w 5 3), Fin.ofNat 4 (field w 3 2), Fin.ofNat 8 (field w 0 3)⟩
def FmtV.word (m : Fin 64) (f : FmtV) : Nat :=
  majorWord m (f.v * 2 ^ 20 + f.k1 * 2 ^ 18 + f.a * 2 ^ 14 + f.k2 * 2 ^ 12 + f.b * 2 ^ 8 + f.fn * 2 ^ 5 + f.t * 2 ^ 3 +
    f.dl)

def FmtE.of (w : Nat) : FmtE :=
  ⟨Fin.ofNat 4 (field w 22 2), Fin.ofNat 64 (field w 16 6), Fin.ofNat 8 (field w 13 3), Fin.ofNat 32 (field w 8 5),
   Fin.ofNat 8 (field w 5 3), Fin.ofNat 2 (field w 4 1), Fin.ofNat 2 (field w 3 1), Fin.ofNat 8 (field w 0 3)⟩
def FmtE.word (m : Fin 64) (f : FmtE) : Nat :=
  majorWord m (f.m * 2 ^ 22 + f.n * 2 ^ 16 + f.t * 2 ^ 13 + f.b * 2 ^ 8 + f.p * 2 ^ 5 + f.c * 2 ^ 4 + f.u * 2 ^ 3 + f.dl)

def FmtT.of (w : Nat) : FmtT :=
  ⟨Fin.ofNat 8 (field w 21 3), Fin.ofNat 32 (field w 16 5), Fin.ofNat 8 (field w 13 3), Fin.ofNat 32 (field w 8 5),
   Fin.ofNat 16 (field w 4 4), Fin.ofNat 2 (field w 3 1), Fin.ofNat 8 (field w 0 3)⟩
def FmtT.word (m : Fin 64) (f : FmtT) : Nat :=
  majorWord m (f.fn * 2 ^ 21 + f.a * 2 ^ 16 + f.t * 2 ^ 13 + f.b * 2 ^ 8 + f.v * 2 ^ 4 + f.p * 2 ^ 3 + f.dl)

def FmtS.of (w : Nat) : FmtS :=
  ⟨Fin.ofNat 32 (field w 19 5), Fin.ofNat 32 (field w 14 5), Fin.ofNat 32 (field w 9 5), Fin.ofNat 64 (field w 3 6),
   Fin.ofNat 8 (field w 0 3)⟩
def FmtS.word (m : Fin 64) (f : FmtS) : Nat :=
  majorWord m (f.d * 2 ^ 19 + f.a * 2 ^ 14 + f.b * 2 ^ 9 + f.imm * 2 ^ 3 + f.fn)

def FmtAt.of (w : Nat) : FmtAt :=
  ⟨Fin.ofNat 32 (field w 19 5), Fin.ofNat 32 (field w 14 5), Fin.ofNat 32 (field w 9 5), Fin.ofNat 16 (field w 5 4),
   Fin.ofNat 8 (field w 2 3), Fin.ofNat 4 (field w 0 2)⟩
def FmtAt.word (m : Fin 64) (f : FmtAt) : Nat :=
  majorWord m (f.d * 2 ^ 19 + f.b * 2 ^ 14 + f.v * 2 ^ 9 + f.op * 2 ^ 5 + f.o * 2 ^ 2 + f.c)

def FmtC.of (w : Nat) : FmtC :=
  ⟨Fin.ofNat 32 (field w 19 5), Fin.ofNat 32 (field w 14 5), BitVec.ofNat 12 (field w 2 12), Fin.ofNat 4 (field w 0 2)⟩
def FmtC.word (m : Fin 64) (f : FmtC) : Nat :=
  majorWord m (f.d * 2 ^ 19 + f.a * 2 ^ 14 + f.c.toNat * 2 ^ 2 + f.fn)

def FmtCR.of (p : Nat) : FmtCR := ⟨Fin.ofNat 16 (field p 7 4), Fin.ofNat 16 (field p 3 4), Fin.ofNat 8 (field p 0 3)⟩
def FmtCR.parcel (op : Fin 24) (f : FmtCR) : Nat := op.val * 2 ^ 11 + f.d * 2 ^ 7 + f.s * 2 ^ 3 + f.z

def FmtCI.of (p : Nat) : FmtCI := ⟨Fin.ofNat 16 (field p 7 4), BitVec.ofNat 7 (field p 0 7)⟩
def FmtCI.parcel (op : Fin 24) (f : FmtCI) : Nat := op.val * 2 ^ 11 + f.d * 2 ^ 7 + f.i.toNat

/-! ## Operand fields -/

/-- A source that format A reads (R92). -/
def Src.of (k : Fin 4) (sel : Fin 32) : Dec Src :=
  match k with
  | 0 => .error .sourceKind
  | 1 => .ok (.s sel)
  | 2 => .ok (.k sel)
  | _ => .ok (.lit (BitVec.ofFin sel))
def Src.kind : Src → Fin 4
  | .s _ => 1
  | .k _ => 2
  | .lit _ => 3
def Src.selector : Src → Fin 32
  | .s r => r
  | .k i => i
  | .lit n => n.toFin

/-- A source of format V (R94). -/
def VSrc.of (k : Fin 4) (sel : Fin 16) : VSrc :=
  match k with
  | 0 => .v sel
  | 1 => .s sel
  | 2 => .k sel
  | _ => .lit (BitVec.ofFin sel)
def VSrc.kind : VSrc → Fin 4
  | .v _ => 0
  | .s _ => 1
  | .k _ => 2
  | .lit _ => 3
def VSrc.selector : VSrc → Fin 16
  | .v r => r
  | .s r => r
  | .k i => i
  | .lit n => n.toFin

def IntTy.of : Fin 4 → Dec IntTy
  | 0 => .ok .i32
  | 1 => .ok .n32
  | _ => .error .reservedCode
def IntTy.code : IntTy → Fin 4
  | .i32 => 0
  | .n32 => 1

def FltTy.of : Fin 4 → Dec FltTy
  | 0 => .ok .f32
  | 1 => .ok .bf16
  | 2 => .ok .f16
  | _ => .error .reservedCode
def FltTy.code : FltTy → Fin 4
  | .f32 => 0
  | .bf16 => 1
  | .f16 => 2

def CmpTy.of : Fin 4 → Dec CmpTy
  | 0 => .ok .i32
  | 1 => .ok .n32
  | 2 => .ok .f32
  | _ => .error .reservedCode
def CmpTy.code : CmpTy → Fin 4
  | .i32 => 0
  | .n32 => 1
  | .f32 => 2

def DotTy.of : Fin 4 → Dec DotTy
  | 0 => .ok .i8
  | 1 => .ok .n8
  | _ => .error .reservedCode
def DotTy.code : DotTy → Fin 4
  | .i8 => 0
  | .n8 => 1

def MemTy.of : Fin 4 → MemTy
  | 0 => .raw
  | 1 => .i32
  | 2 => .n32
  | _ => .f32
def MemTy.code : MemTy → Fin 4
  | .raw => 0
  | .i32 => 1
  | .n32 => 2
  | .f32 => 3

def VFmt.of : Fin 8 → VFmt
  | 0 => .i32
  | 1 => .n32
  | 2 => .f32
  | 3 => .bf16
  | 4 => .f16
  | 5 => .i8
  | 6 => .n8
  | _ => .lg6
def VFmt.code : VFmt → Fin 8
  | .i32 => 0
  | .n32 => 1
  | .f32 => 2
  | .bf16 => 3
  | .f16 => 4
  | .i8 => 5
  | .n8 => 6
  | .lg6 => 7

def AccTy.of : Fin 8 → Dec AccTy
  | 0 => .ok .i32
  | 1 => .ok .n32
  | 2 => .ok .f32
  | 3 => .ok .bf16
  | 4 => .ok .f16
  | _ => .error .reservedCode
def AccTy.code : AccTy → Fin 8
  | .i32 => 0
  | .n32 => 1
  | .f32 => 2
  | .bf16 => 3
  | .f16 => 4

def Cond.of : Fin 8 → Dec Cond
  | 0 => .ok .eq
  | 1 => .ok .ne
  | 2 => .ok .lt
  | 3 => .ok .ge
  | 4 => .ok .ltu
  | 5 => .ok .geu
  | _ => .error .reservedCode
def Cond.code : Cond → Fin 8
  | .eq => 0
  | .ne => 1
  | .lt => 2
  | .ge => 3
  | .ltu => 4
  | .geu => 5

def VCond.of : Fin 8 → Dec VCond
  | 0 => .ok .eq
  | 1 => .ok .ne
  | 2 => .ok .lt
  | 3 => .ok .le
  | 4 => .ok .gt
  | 5 => .ok .ge
  | 6 => .ok .un
  | _ => .error .reservedCode
def VCond.code : VCond → Fin 8
  | .eq => 0
  | .ne => 1
  | .lt => 2
  | .le => 3
  | .gt => 4
  | .ge => 5
  | .un => 6

def LdSize.of : Fin 8 → Dec LdSize
  | 0 => .ok .b
  | 1 => .ok .bu
  | 2 => .ok .h
  | 3 => .ok .hu
  | 4 => .ok .w
  | 5 => .ok .wu
  | 6 => .ok .d
  | _ => .error .reservedCode
def LdSize.code : LdSize → Fin 8
  | .b => 0
  | .bu => 1
  | .h => 2
  | .hu => 3
  | .w => 4
  | .wu => 5
  | .d => 6

def StSize.of : Fin 8 → Dec StSize
  | 0 => .ok .b
  | 2 => .ok .h
  | 4 => .ok .w
  | 6 => .ok .d
  | _ => .error .reservedCode
def StSize.code : StSize → Fin 8
  | .b => 0
  | .h => 2
  | .w => 4
  | .d => 6

def AmoOp.of : Fin 16 → Dec AmoOp
  | 0 => .ok .add
  | 1 => .ok .and
  | 2 => .ok .or
  | 3 => .ok .xor
  | 4 => .ok .min
  | 5 => .ok .max
  | 6 => .ok .minu
  | 7 => .ok .maxu
  | 8 => .ok .xchg
  | 9 => .ok .cas
  | 10 => .ok .fadd
  | 11 => .ok .inc
  | _ => .error .reservedCode
def AmoOp.code : AmoOp → Fin 16
  | .add => 0
  | .and => 1
  | .or => 2
  | .xor => 3
  | .min => 4
  | .max => 5
  | .minu => 6
  | .maxu => 7
  | .xchg => 8
  | .cas => 9
  | .fadd => 10
  | .inc => 11

def Order.of : Fin 8 → Dec Order
  | 0 => .ok .rlx
  | 1 => .ok .acq
  | 2 => .ok .rel
  | 3 => .ok .ar
  | 4 => .ok .sc
  | _ => .error .reservedCode
def Order.code : Order → Fin 8
  | .rlx => 0
  | .acq => 1
  | .rel => 2
  | .ar => 3
  | .sc => 4

def Scope.of : Fin 4 → Scope
  | 0 => .core
  | 1 => .clu
  | 2 => .dev
  | _ => .sys
def Scope.code : Scope → Fin 4
  | .core => 0
  | .clu => 1
  | .dev => 2
  | .sys => 3

def MSize.of : Fin 4 → Dec MSize
  | 0 => .ok .m16
  | 1 => .ok .m32
  | 2 => .ok .m64
  | _ => .error .reservedCode
def MSize.code : MSize → Fin 4
  | .m16 => 0
  | .m32 => 1
  | .m64 => 2

def Pair.of : Fin 8 → Pair
  | 0 => .i8
  | 1 => .n8
  | 2 => .i4
  | 3 => .n4
  | 4 => .lg6
  | 5 => .bf16
  | 6 => .f16
  | _ => .f32
def Pair.code : Pair → Fin 8
  | .i8 => 0
  | .n8 => 1
  | .i4 => 2
  | .n4 => 3
  | .lg6 => 4
  | .bf16 => 5
  | .f16 => 6
  | .f32 => 7

def AccMode.of : Fin 8 → Dec AccMode
  | 0 => .ok .int40
  | 1 => .ok .q40
  | 2 => .ok .fp40
  | _ => .error .reservedCode
def AccMode.code : AccMode → Fin 8
  | .int40 => 0
  | .q40 => 1
  | .fp40 => 2

def Port.of : Fin 2 → Port
  | 0 => .row
  | _ => .col
def Port.code : Port → Fin 2
  | .row => 0
  | .col => 1

def ForkSel.of : Fin 64 → Dec ForkSel
  | 1 => .ok .matrix
  | 2 => .ok .copy
  | 3 => .ok .both
  | _ => .error .combination
def ForkSel.code : ForkSel → Fin 64
  | .matrix => 1
  | .copy => 2
  | .both => 3

/-- A one-bit field as a Bool. -/
def flag (x : Fin 2) : Bool := x = 1
def unflag (x : Bool) : Fin 2 := if x then 1 else 0

/-- The low three, two or four bits that some forms use of a wider field. -/
def low8 {n : Nat} (x : Fin n) : Fin 8 := Fin.ofNat 8 x.val
def wide {n : Nat} (m : Nat) [NeZero m] (x : Fin n) : Fin m := Fin.ofNat m x.val

/-! ## Groups -/

/-- Majors 0x00, 0x01 and 0x03: two sources, w allowed (R100). -/
def aluOp (m fn : Nat) : Option (Bool → Fin 32 → Src → Src → Instr) :=
  match m, fn with
  | 0, 0 => some .add | 0, 1 => some .sub | 0, 2 => some .and | 0, 3 => some .or
  | 0, 4 => some .xor | 0, 5 => some .andn | 0, 6 => some .shl | 0, 7 => some .shr
  | 1, 0 => some .sar | 1, 1 => some .min | 1, 2 => some .max | 1, 3 => some .minu
  | 1, 4 => some .maxu | 1, 5 => some .slt | 1, 6 => some .sltu | 1, 7 => some .seq
  | 3, 0 => some .mul | 3, 1 => some .mulh | 3, 2 => some .mulhu | 3, 3 => some .div
  | 3, 4 => some .divu | 3, 5 => some .rem | 3, 6 => some .remu
  | _, _ => none

/-- Two sources that the instruction reads (R92). -/
def twoSrc (f : FmtA) (k : Src → Src → Instr) : Dec Instr := do
  let x ← Src.of f.k1 f.a
  let y ← Src.of f.k2 f.b
  need (f.z = 0) .nonzeroField (.ok (k x y))

/-- One source in slot 1, slot 2 unread (R92). -/
def oneSrc (f : FmtA) (k : Src → Instr) : Dec Instr := do
  let x ← Src.of f.k1 f.a
  need (f.k2 = 0 && f.b = 0 && f.z = 0) .nonzeroField (.ok (k x))

def instrAlu (m : Nat) (f : FmtA) : Dec Instr :=
  match aluOp m f.fn.val with
  | some op => twoSrc f (op (flag f.w) f.d)
  | none => .error .reservedCode

/-- Major 0x02 (R100, R122). -/
def instrBits (f : FmtA) : Dec Instr :=
  match f.fn with
  | 0 => oneSrc f (.clz (flag f.w) f.d)
  | 1 => oneSrc f (.ctz (flag f.w) f.d)
  | 2 => oneSrc f (.popc (flag f.w) f.d)
  | 3 => twoSrc f (.sext (flag f.w) f.d)
  | 4 => twoSrc f (.zext (flag f.w) f.d)
  | 5 => twoSrc f (.sel (flag f.w) f.d)
  | 6 => need (f.w = 0) .wBit (oneSrc f (.mov f.d))
  | _ => .error .reservedCode

/-- Major 0x04 (R101). -/
def instrImm (f : FmtI) : Dec Instr :=
  match f.fn with
  | 0 => .ok (.li f.d f.imm)
  | 1 => need (f.d.val < 8) .nonzeroField (.ok (.lix (low8 f.d) f.imm))
  | 2 => need (f.d.val < 8) .nonzeroField (.ok (.lxh (low8 f.d) f.imm))
  | _ => .error .reservedCode

/-- Major 0x05 (R101, R126, R127). -/
def instrXreg (f : FmtA) : Dec Instr :=
  need (f.w = 0) .wBit <|
  match f.fn with
  | 0 => need (f.k1 = 0) .sourceKind <| need (f.a.val < 8 && f.k2 = 0 && f.b = 0 && f.z = 0) .nonzeroField <|
      .ok (.movxFromX f.d (low8 f.a))
  | 1 => need (f.d.val < 8) .nonzeroField (oneSrc f (.movxToX (low8 f.d)))
  | 2 => twoSrc f (.saddr f.d)
  | _ => .error .reservedCode

/-- Major 0x0C (R101). -/
def instrCtl (f : FmtA) : Dec Instr :=
  need (f.w = 0) .wBit <|
  match f.fn with
  | 0 => need (f.k1 = 1) .sourceKind <| need (f.k2 = 0 && f.b = 0 && f.z = 0) .nonzeroField (.ok (.jr f.d f.a))
  | 1 => need (f.d = 0 && f.k1 = 0 && f.a = 0 && f.k2 = 0 && f.b = 0 && f.z = 0) .nonzeroField (.ok .join)
  | 2 => need (f.d = 0 && f.k1 = 0 && f.a = 0 && f.k2 = 0 && f.b = 0 && f.z = 0) .nonzeroField (.ok .nop)
  | 3 => need (f.d = 0 && f.k1 = 0 && f.a = 0 && f.k2 = 0 && f.b = 0 && f.z = 0) .nonzeroField (.ok .exit)
  | _ => .error .reservedCode

/-- Major 0x06 (R100, R128). -/
def instrLea (f : FmtM) : Dec Instr :=
  match f.fn with
  | 0 => .ok (.lea f.d f.b f.off 0)
  | 1 => .ok (.lea f.d f.b f.off 1)
  | 2 => .ok (.lea f.d f.b f.off 2)
  | 3 => .ok (.lea f.d f.b f.off 3)
  | _ => .error .reservedCode

/-- Majors 0x08 and 0x09 (R96). -/
def instrBr (f : FmtB) : Dec Instr :=
  match f.c with
  | 6 => need (f.s1 ≠ 0 && f.s2 = 0 && f.h = 0) .nonzeroField (.ok (.loop f.s1 f.off))
  | _ => do
    let c ← Cond.of f.c
    .ok (.b c f.s1 f.s2 (flag f.h) f.off)

def instrBsplit (f : FmtB) : Dec Instr := do
  let c ← Cond.of f.c
  .ok (.bsplit c f.s1 f.s2 (flag f.h) f.off)

/-- Majors 0x10 to 0x13 (R95, R100). -/
def instrLd (f : FmtM) : Dec Instr := do
  let sz ← LdSize.of f.fn
  .ok (.ld f.d f.b f.off sz)
def instrLdX (f : FmtX) : Dec Instr := do
  let sz ← LdSize.of f.fn
  need (f.z = 0) .nonzeroField (.ok (.ldIndexed f.d f.b f.i f.sh sz))
def instrSt (f : FmtM) : Dec Instr := do
  let sz ← StSize.of f.fn
  .ok (.st f.d f.b f.off sz)
def instrStX (f : FmtX) : Dec Instr := do
  let sz ← StSize.of f.fn
  need (f.z = 0) .nonzeroField (.ok (.stIndexed f.d f.b f.i f.sh sz))

/-- Major 0x14 (R101, R150 to R154). -/
def instrMemx (f : FmtM) : Dec Instr :=
  match f.fn with
  | 0 => .ok (.ldr f.d f.b f.off)
  | 1 => .ok (.stp f.d f.b f.off)
  | 2 => need (f.d.val < 2) .nonzeroField (.ok (.pref (f.d = 1) f.b f.off))
  | 3 => .ok (.kld f.d f.b f.off)
  | _ => .error .reservedCode

/-- Major 0x15 (R156). -/
def instrTag (f : FmtM) : Dec Instr :=
  match f.fn with
  | 0 => .ok (.ldf f.d f.b f.off)
  | 1 => .ok (.ldfe f.d f.b f.off)
  | 2 => .ok (.stf f.d f.b f.off)
  | 3 => .ok (.stef f.d f.b f.off)
  | 4 => need (f.d = 0) .nonzeroField (.ok (.tagset f.b f.off))
  | 5 => need (f.d = 0) .nonzeroField (.ok (.tagclr f.b f.off))
  | 6 => .ok (.tagtst f.d f.b f.off)
  | _ => .error .reservedCode

/-- Major 0x16 (R95, R101). -/
def instrVmem (f : FmtVM) (g : FmtVX) : Dec Instr :=
  match f.fn with
  | 0 => .ok (.vld f.v (.of f.ty) f.b f.off)
  | 1 => .ok (.vlds f.v (.of f.ty) f.b f.off)
  | 2 => need (g.z = 0) .nonzeroField (.ok (.vldx g.v (.of g.ty) g.b g.x))
  | 3 => .ok (.vldb f.v (.of f.ty) f.b f.off)
  | 4 => .ok (.vst f.v (.of f.ty) f.b f.off)
  | 5 => .ok (.vsts f.v (.of f.ty) f.b f.off)
  | 6 => need (g.z = 0) .nonzeroField (.ok (.vstx g.v (.of g.ty) g.b g.x))
  | _ => need (g.z = 0) .nonzeroField <| need (MemTy.of g.ty ≠ .raw) .combination <|
      .ok (.vstxAdd g.v (.of g.ty) g.b g.x)

/-- Majors 0x18 and 0x19 (R104). -/
def instrAmo (wideForm : Bool) (f : FmtAt) : Dec Instr :=
  if f.op = 15 then
    need (!wideForm) .reservedCode <| need (f.d = 0 && f.b = 0 && f.v = 0) .nonzeroField <| do
      let o ← Order.of f.o
      need (o ≠ .rlx) .combination (.ok (.fence o (.of f.c)))
  else do
    let op ← AmoOp.of f.op
    let o ← Order.of f.o
    need (amoOk op f.v wideForm) .combination <|
      .ok (if wideForm then .amoD f.d f.b f.v op o (.of f.c) else .amoW f.d f.b f.v op o (.of f.c))

/-- A vector form of two sources (R94). -/
def vTwo (f : FmtV) (k : VSrc → VSrc → Instr) : Dec Instr := .ok (k (.of f.k1 f.a) (.of f.k2 f.b))
/-- A vector form of one source: k2 and sel2 zero (R94). -/
def vOne (f : FmtV) (k : VSrc → Instr) : Dec Instr :=
  need (f.k2 = 0 && f.b = 0) .nonzeroField (.ok (k (.of f.k1 f.a)))

/-- Major 0x20 (R102, R176). -/
def instrVint (f : FmtV) : Dec Instr := do
  let t ← IntTy.of f.t
  need (t.srcOk (.of f.k1 f.a) && t.srcOk (.of f.k2 f.b)) .combination <|
  match f.fn with
  | 0 => vTwo f (.vaddI f.v · · t f.dl)
  | 1 => vTwo f (.vsubI f.v · · t f.dl)
  | 2 => vTwo f (.vmulI f.v · · t f.dl)
  | 3 => vTwo f (.vminI f.v · · t f.dl)
  | 4 => vTwo f (.vmaxI f.v · · t f.dl)
  | 5 => need (t = .i32) .combination (vOne f (.vabsI f.v · f.dl))
  | 6 => need (t = .i32) .combination (vOne f (.vnegI f.v · f.dl))
  | _ => vTwo f (.vclampI f.v · · t f.dl)

/-- Major 0x21 (R178). -/
def instrVflt (f : FmtV) : Dec Instr := do
  let t ← FltTy.of f.t
  match f.fn with
  | 0 => vTwo f (.vaddF f.v · · t f.dl)
  | 1 => vTwo f (.vsubF f.v · · t f.dl)
  | 2 => vTwo f (.vmulF f.v · · t f.dl)
  | 3 => vTwo f (.vfma f.v · · t f.dl)
  | 4 => vTwo f (.vfms f.v · · t f.dl)
  | 5 => vTwo f (.vfnma f.v · · t f.dl)
  | 6 => vTwo f (.vminF f.v · · t f.dl)
  | _ => vTwo f (.vmaxF f.v · · t f.dl)

/-- Major 0x22 (R179, R180). -/
def instrVfun (f : FmtV) : Dec Instr := do
  let t ← FltTy.of f.t
  match f.fn with
  | 0 => vOne f (.vabsF f.v · t f.dl)
  | 1 => vOne f (.vnegF f.v · t f.dl)
  | 2 => vTwo f (.vclampF f.v · · t f.dl)
  | 3 => vOne f (.vrcp f.v · t f.dl)
  | 4 => vOne f (.vrsq f.v · t f.dl)
  | 5 => vOne f (.vexp2 f.v · t f.dl)
  | 6 => vOne f (.vlog2 f.v · t f.dl)
  | _ => .error .reservedCode

/-- Major 0x23 (R177). -/
def instrVlog (f : FmtV) : Dec Instr :=
  need (f.t = 0) .reservedCode <|
  match f.fn with
  | 0 => vTwo f (.vand f.v · · f.dl)
  | 1 => vTwo f (.vor f.v · · f.dl)
  | 2 => vTwo f (.vxor f.v · · f.dl)
  | 3 => vTwo f (.vandn f.v · · f.dl)
  | 4 => vTwo f (.vshl f.v · · f.dl)
  | 5 => vTwo f (.vshr f.v · · f.dl)
  | 6 => vTwo f (.vsar f.v · · f.dl)
  | _ => vOne f (.vmov f.v · f.dl)

/-- Major 0x24 (R181). -/
def instrVcmp (f : FmtV) : Dec Instr := do
  let c ← VCond.of f.fn
  let t ← CmpTy.of f.t
  need (f.v.val < 8) .nonzeroField <|
  need (t.srcOk (.of f.k1 f.a) && t.srcOk (.of f.k2 f.b) && (c ≠ .un || t = .f32)) .combination <|
  vTwo f (.vcmp (low8 f.v) · · c t f.dl)

/-- Major 0x25 (R182, R188, R189). -/
def instrVprm (f : FmtV) : Dec Instr :=
  match f.fn with
  | 0 => vTwo f (.vsel f.v f.t · · f.dl)
  | 1 => need (f.t = 0) .reservedCode (vTwo f (.vperm f.v · · f.dl))
  | 2 => need (f.t = 0) .reservedCode (vTwo f (.vbcast f.v · · f.dl))
  | 3 => need (f.t = 0) .reservedCode (vTwo f (.vslide f.v · · f.dl))
  | 4 => need (f.t = 0) .reservedCode (vOne f (.viota f.v · f.dl))
  | 5 => need (f.t = 0) .reservedCode (vOne f (.vlut f.v · f.dl))
  | 6 => need (f.t = 0) .reservedCode (vTwo f (.vext f.v · · f.dl))
  | _ => need (f.t = 0) .reservedCode <| need (f.dl = 0) .nonzeroField (vTwo f (.vins f.v · ·))

/-- Major 0x26 (R185 to R187). -/
def instrVred (f : FmtV) : Dec Instr :=
  if f.fn = 6 then do
    let t ← DotTy.of f.t
    need (t.srcOk (.of f.k1 f.a) && t.srcOk (.of f.k2 f.b)) .combination (vTwo f (.vdot4 f.v · · t f.dl))
  else do
    let t ← CmpTy.of f.t
    need (t.srcOk (.of f.k1 f.a)) .combination <|
    match f.fn with
    | 0 => vOne f (.vredAdd f.v · t f.dl)
    | 1 => vOne f (.vredMin f.v · t f.dl)
    | 2 => vOne f (.vredMax f.v · t f.dl)
    | 3 => vOne f (.vscanAdd f.v · t f.dl)
    | 4 => vOne f (.vscanMin f.v · t f.dl)
    | 5 => vOne f (.vscanMax f.v · t f.dl)
    | _ => .error .reservedCode

/-- Major 0x27 (R184). -/
def instrVcvt (f : FmtV) : Dec Instr :=
  need (f.t = 0 && f.k2 = 0 && f.b.val < 8) .nonzeroField <|
  need (VFmt.of (low8 f.b) ≠ VFmt.of f.fn && (VFmt.of (low8 f.b)).srcOk (.of f.k1 f.a)) .combination <|
  .ok (.vcvt f.v (.of f.k1 f.a) (.of (low8 f.b)) (.of f.fn) f.dl)

/-- A mask field: kind 00, the top bit zero (R190). -/
def maskOk (k : Fin 4) (sel : Fin 16) : Bool := k = 0 && sel.val < 8

/-- Major 0x28 (R190). -/
def instrVmsk (f : FmtV) : Dec Instr :=
  need (f.t = 0) .reservedCode <|
  match f.fn with
  | 0 => need (f.v.val < 8 && maskOk f.k1 f.a && maskOk f.k2 f.b) .nonzeroField
      (.ok (.mand (low8 f.v) (low8 f.a) (low8 f.b) f.dl))
  | 1 => need (f.v.val < 8 && maskOk f.k1 f.a && maskOk f.k2 f.b) .nonzeroField
      (.ok (.mor (low8 f.v) (low8 f.a) (low8 f.b) f.dl))
  | 2 => need (f.v.val < 8 && maskOk f.k1 f.a && maskOk f.k2 f.b) .nonzeroField
      (.ok (.mxor (low8 f.v) (low8 f.a) (low8 f.b) f.dl))
  | 3 => need (f.v.val < 8 && maskOk f.k1 f.a && f.k2 = 0 && f.b = 0) .nonzeroField
      (.ok (.mnot (low8 f.v) (low8 f.a) f.dl))
  | 4 => need (maskOk f.k1 f.a && f.k2 = 0 && f.b = 0) .nonzeroField (.ok (.mpop f.v (low8 f.a) f.dl))
  | 5 => need (maskOk f.k1 f.a && f.k2 = 0 && f.b = 0) .nonzeroField (.ok (.mfirst f.v (low8 f.a) f.dl))
  | 6 => need (f.v.val < 8 && f.k2 = 0 && f.b = 0) .nonzeroField <| need (f.k1 ≠ 0) .sourceKind <|
      .ok (.mset (low8 f.v) (.of f.k1 f.a) f.dl)
  | _ => .error .reservedCode

/-- Majors 0x2A and 0x2B: the custom number is Major[0] × 32 + fn × 4 + type (R101, R222). -/
def instrCx (high : Bool) (f : FmtV) : Dec Instr :=
  vTwo f (.cx (Fin.ofNat 64 ((if high then 32 else 0) + f.fn * 4 + f.t)) f.v · · f.dl)

/-- Majors 0x2C and 0x2D (R98). -/
def instrMma (f : FmtE) : Dec Instr := do
  let m ← MSize.of f.m
  .ok (.mma m f.n f.t f.b (.of f.p) (flag f.c) (flag f.u) f.dl)
def instrMmas (f : FmtE) : Dec Instr := do
  let m ← MSize.of f.m
  need (Pair.of f.p = .lg6) .reservedCode (.ok (.mmas m f.n f.t f.b (flag f.c) (flag f.u) f.dl))

/-- Major 0x2E (R210). -/
def instrTile (f : FmtT) : Dec Instr :=
  match f.fn with
  | 0 => need (f.v = 0) .nonzeroField (.ok (.tld (.of f.p) f.t f.a f.b f.dl))
  | 1 => need (f.v = 0) .nonzeroField (.ok (.tst (.of f.p) f.t f.a f.b f.dl))
  | 2 => need (f.v = 0 && f.a.val < 8 && f.b = 0) .nonzeroField (.ok (.tmov (.of f.p) f.t (low8 f.a) f.dl))
  | _ => .error .reservedCode

/-- Major 0x2F (R212). -/
def instrAcc (f : FmtT) : Dec Instr :=
  match f.fn with
  | 0 => need (f.v = 0 && f.t = 0 && f.p = 0) .nonzeroField (.ok (.accZero f.a f.b f.dl))
  | 1 => need (f.v = 0 && f.t = 0 && f.p = 0) .nonzeroField (.ok (.accLd f.a f.b f.dl))
  | 2 => need (f.v = 0 && f.t = 0 && f.p = 0) .nonzeroField (.ok (.accSt f.a f.b f.dl))
  | 3 => need (f.b = 0 && f.p = 0) .nonzeroField <| do
      let t ← AccTy.of f.t
      .ok (.accTov t f.v f.a f.dl)
  | 4 => need (f.b = 0 && f.p = 0) .nonzeroField <| do
      let t ← AccTy.of f.t
      .ok (.accAddv t f.a f.v f.dl)
  | 5 => need (f.v = 0 && f.p = 0) .nonzeroField <| do
      let m ← AccMode.of f.t
      .ok (.accMode m f.a f.b f.dl)
  | 6 => need (f.v = 0 && f.t = 0) .nonzeroField <|
      .ok (if f.p = 0 then .accRaw f.b f.a f.dl else .accRawWr f.a f.b f.dl)
  | _ => .error .reservedCode

/-- The fields a generic format S form leaves unused must be zero (R103). -/
def zeroS (f : FmtS) (d a b imm : Bool) (i : Instr) : Dec Instr :=
  need ((d || f.d = 0) && (a || f.a = 0) && (b || f.b = 0) && (imm || f.imm = 0)) .nonzeroField (.ok i)

/-- Forms whose number occupies imm6[3:0] (R103). -/
def low16 (f : FmtS) (r : Dec Instr) : Dec Instr := need (f.imm.val < 16) .nonzeroField r

/-- Major 0x29 (R103). -/
def instrCxm (f : FmtS) : Dec Instr :=
  match f.fn with
  | 0 => zeroS f false true false true (.cxload f.imm f.a)
  | 1 => zeroS f false false false true (.cxevict f.imm)
  | 2 => zeroS f true false false true (.cxqry f.d f.imm)
  | 3 => zeroS f false true false false (.cxldr f.a)
  | _ => .error .reservedCode

/-- Major 0x30 (R103). -/
def instrEng (f : FmtS) : Dec Instr :=
  match f.fn with
  | 0 => do
      let q ← ForkSel.of f.imm
      zeroS f false false false true (.fork q)
  | 1 => zeroS f false false false false .rdv
  | 2 => zeroS f true true false false (.ttEnq f.d f.a)
  | 3 => zeroS f false true true false (.cpy f.a f.b)
  | 4 => zeroS f false true true false (.cpy2d f.a f.b)
  | 5 => low16 f (zeroS f false false true true (.ccWait (wide 16 f.imm) f.b))
  | 6 => low16 f (zeroS f true false false true (.ccRead f.d (wide 16 f.imm)))
  | _ => zeroS f true true false false (.rlQry f.d f.a)

/-- Major 0x31 (R103). -/
def instrStrm (f : FmtS) : Dec Instr :=
  match f.fn with
  | 0 => zeroS f true true false false (.subOpen f.d f.a)
  | 1 => zeroS f false true false false (.subClose f.a)
  | 2 => zeroS f true true false false (.slotTake f.d f.a)
  | 3 => zeroS f false true true false (.slotGive f.a f.b)
  | _ => .error .reservedCode

/-- Major 0x32 (R103, R261). -/
def instrKrn (f : FmtS) : Dec Instr :=
  match f.fn with
  | 0 => zeroS f false false false false .sstep
  | 1 => zeroS f true false false false (.taskNext f.d)
  | 2 => zeroS f true true false false (.coverClaim f.d f.a)
  | 3 => zeroS f false true true false (.coverDone f.a f.b)
  | 4 => zeroS f false true true false (.coverYield f.a f.b)
  | 5 => low16 f (zeroS f true false false true (.hrd f.d (wide 16 f.imm)))
  | 6 => low16 f (need (f.imm.val < 14) .combination (zeroS f false true false true (.hwr (wide 16 f.imm) f.a)))
  | _ => zeroS f true false false false (.hcommit f.d)

/-- Major 0x33 (R103). -/
def instrChn (f : FmtS) : Dec Instr :=
  match f.fn with
  | 0 => zeroS f false true false true (.chSend f.imm f.a)
  | 1 => zeroS f true false false true (.chRecv f.d f.imm)
  | 2 => zeroS f true false false true (.chProbe f.d f.imm)
  | 3 => zeroS f false true true false (.rsend f.a f.b)
  | 4 => zeroS f false true true true (.xwin f.imm f.a f.b)
  | 5 => zeroS f true true true false (.qLaunch f.d f.a f.b)
  | 6 => zeroS f false false false false .hintSucc
  | _ => zeroS f false false false false .waitpred

/-- Major 0x38 (R103, R389). -/
def instrSys (f : FmtS) : Dec Instr :=
  match f.fn with
  | 0 => zeroS f false false false true (.trap f.imm)
  | 1 => zeroS f false false false false .tret
  | 2 => zeroS f false false false false .yield
  | 3 => need (f.imm.val < 3) .combination (zeroS f false false false true (.pwrHint f.imm))
  | 4 => low16 f (zeroS f true false false true (.jnlRd f.d (wide 16 f.imm)))
  | 5 => low16 f (zeroS f false false false true (.jnlRetry (wide 16 f.imm)))
  | 6 => low16 f (zeroS f false false false true (.jnlDrop (wide 16 f.imm)))
  | _ => .error .reservedCode

/-- Major 0x39 (R103). -/
def instrTlb (f : FmtS) : Dec Instr :=
  match f.fn with
  | 0 => zeroS f false true true false (.tlbInv f.a f.b)
  | 1 => zeroS f false true true false (.tlbShoot f.a f.b)
  | _ => .error .reservedCode

/-- Major 0x3A (R101, R392). -/
def instrCsr (f : FmtC) : Dec Instr :=
  need (Config.csrImplemented f.c) .csrNumber <|
  match f.fn with
  | 0 => need (f.a = 0) .nonzeroField (.ok (.csrr f.d f.c))
  | 1 => .ok (.csrw f.d f.a f.c)
  | 2 => .ok (.csrset f.d f.a f.c)
  | _ => .ok (.csrclr f.d f.a f.c)

/-! ## Words, parcels and bytes -/

/-- A 32-bit word, by its major opcode (R90). -/
def decodeWord (w : Nat) : Dec Instr :=
  match field w 24 8 with
  | 0xC0 => instrAlu 0 (.of w)
  | 0xC1 => instrAlu 1 (.of w)
  | 0xC2 => instrBits (.of w)
  | 0xC3 => instrAlu 3 (.of w)
  | 0xC4 => instrImm (.of w)
  | 0xC5 => instrXreg (.of w)
  | 0xC6 => instrLea (.of w)
  | 0xC8 => instrBr (.of w)
  | 0xC9 => instrBsplit (.of w)
  | 0xCA => .ok (.j (BitVec.ofNat 24 (field w 0 24)))
  | 0xCB => .ok (.jal (BitVec.ofNat 24 (field w 0 24)))
  | 0xCC => instrCtl (.of w)
  | 0xD0 => instrLd (.of w)
  | 0xD1 => instrLdX (.of w)
  | 0xD2 => instrSt (.of w)
  | 0xD3 => instrStX (.of w)
  | 0xD4 => instrMemx (.of w)
  | 0xD5 => instrTag (.of w)
  | 0xD6 => instrVmem (.of w) (.of w)
  | 0xD8 => instrAmo false (.of w)
  | 0xD9 => instrAmo true (.of w)
  | 0xE0 => instrVint (.of w)
  | 0xE1 => instrVflt (.of w)
  | 0xE2 => instrVfun (.of w)
  | 0xE3 => instrVlog (.of w)
  | 0xE4 => instrVcmp (.of w)
  | 0xE5 => instrVprm (.of w)
  | 0xE6 => instrVred (.of w)
  | 0xE7 => instrVcvt (.of w)
  | 0xE8 => instrVmsk (.of w)
  | 0xE9 => instrCxm (.of w)
  | 0xEA => instrCx false (.of w)
  | 0xEB => instrCx true (.of w)
  | 0xEC => instrMma (.of w)
  | 0xED => instrMmas (.of w)
  | 0xEE => instrTile (.of w)
  | 0xEF => instrAcc (.of w)
  | 0xF0 => instrEng (.of w)
  | 0xF1 => instrStrm (.of w)
  | 0xF2 => instrKrn (.of w)
  | 0xF3 => instrChn (.of w)
  | 0xF8 => instrSys (.of w)
  | 0xF9 => instrTlb (.of w)
  | 0xFA => instrCsr (.of w)
  | _ => .error .reservedCode

/-- Compact layout CR with both registers named (R107). -/
def compactRR (f : FmtCR) (i : Instr) : Dec Instr :=
  need (compactReg f.d && compactReg f.s) .compactField (need (f.z = 0) .nonzeroField (.ok i))

/-- Compact layout CI with an immediate in a range (R108). -/
def compactI (f : FmtCI) (lo hi : Int) (i : Instr) : Dec Instr :=
  need (compactReg f.d && decide (lo ≤ f.i.toInt ∧ f.i.toInt ≤ hi)) .compactField (.ok i)

/-- A compact parcel, by its compact opcode (R107, R108). -/
def decodeParcel (p : Nat) : Dec Instr :=
  let r := FmtCR.of p
  let c := FmtCI.of p
  match field p 11 5 with
  | 0x01 => compactRR r (.cMov r.d r.s)
  | 0x02 => compactRR r (.cAdd r.d r.s)
  | 0x03 => compactRR r (.cSub r.d r.s)
  | 0x04 => compactRR r (.cAnd r.d r.s)
  | 0x05 => compactI c (-16) 15 (.cAddi c.d c.i)
  | 0x06 => compactI c (-64) 63 (.cLi c.d c.i)
  | 0x07 => compactI c 1 15 (.cShli c.d c.i)
  | 0x08 => compactI c 1 15 (.cShri c.d c.i)
  | 0x09 => need (compactReg r.d && compactReg r.s) .compactField (.ok (.cLdw r.d r.s r.z))
  | 0x0A => need (compactReg r.d && compactReg r.s) .compactField (.ok (.cStw r.d r.s r.z))
  | 0x0B => compactI c (-64) 63 (.cBeqz c.d c.i)
  | 0x0C => compactI c (-64) 63 (.cBnez c.d c.i)
  | 0x0D => .ok (.cJ (BitVec.ofNat 11 (field p 0 11)))
  | 0x0E => need (compactReg c.d) .compactField (need (c.i = 0) .nonzeroField (.ok (.cJr c.d)))
  | 0x0F => need (field p 0 11 = 0) .nonzeroField (.ok .cNop)
  | _ => .error .reservedCode

/-- A parcel is the first half of a 32-bit word (R87). -/
def isLong (p : Nat) : Bool := field p 14 2 = 3

/-- A parcel from its two bytes, the lower address first (R2, R88). -/
def parcelOf (b0 b1 : Byte) : Nat := b0.toNat + 256 * b1.toNat

/-- An instruction from its first parcel and the parcel after it (R87), with its length in bytes. -/
def decodeParcels (p q : Nat) : Dec (Instr × Nat) :=
  if isLong p then (decodeWord (p * 65536 + q)).map (·, 4) else (decodeParcel p).map (·, 2)

/-- The first instruction of a stream of bytes (R87, R88), with its length. -/
def decodeBytes : List Byte → Dec (Instr × Nat)
  | b0 :: b1 :: rest =>
    if isLong (parcelOf b0 b1) then
      match rest with
      | b2 :: b3 :: _ => decodeParcels (parcelOf b0 b1) (parcelOf b2 b3)
      | _ => .error .truncated
    else decodeParcels (parcelOf b0 b1) 0
  | _ => .error .truncated

/-- The bytes of a row of the opcode table as the hardware stores them: a 32-bit row is numbered as the word W of R87,
whose first parcel is its high half (log 15); a 16-bit row is a compact parcel. -/
def tableBytes (nbits w : Nat) : List Byte :=
  if nbits ≤ 16 then [BitVec.ofNat 8 w, BitVec.ofNat 8 (w / 256), 0, 0]
  else [BitVec.ofNat 8 (w / 65536), BitVec.ofNat 8 (w / 16777216), BitVec.ofNat 8 w, BitVec.ofNat 8 (w / 256)]

/-- The instruction the decoder reads from an opcode-table word. -/
def decodeTableWord (nbits w : Nat) : Option Instr :=
  match decodeBytes (tableBytes nbits w) with
  | .ok (i, _) => some i
  | .error _ => none

/-! ## The encoder -/

/-- Format A with two sources (R91, R92). -/
def wordA2 (m : Fin 64) (fn : Fin 8) (w : Bool) (d : Fin 32) (x y : Src) : Nat :=
  FmtA.word m ⟨d, x.kind, x.selector, y.kind, y.selector, fn, unflag w, 0⟩

/-- Format A with one source (R91, R92). -/
def wordA1 (m : Fin 64) (fn : Fin 8) (w : Bool) (d : Fin 32) (x : Src) : Nat :=
  FmtA.word m ⟨d, x.kind, x.selector, 0, 0, fn, unflag w, 0⟩

/-- Format V with two sources (R93, R94). -/
def wordV2 (m : Fin 64) (fn : Fin 8) (v : Fin 16) (x y : VSrc) (t : Fin 4) (dl : Fin 8) : Nat :=
  FmtV.word m ⟨v, x.kind, x.selector, y.kind, y.selector, fn, t, dl⟩

/-- Format V with one source (R93, R94). -/
def wordV1 (m : Fin 64) (fn : Fin 8) (v : Fin 16) (x : VSrc) (t : Fin 4) (dl : Fin 8) : Nat :=
  FmtV.word m ⟨v, x.kind, x.selector, 0, 0, fn, t, dl⟩

/-- The word of an instruction, or the parcel of a compact one (R90 to R108, R113); an event has none. -/
def encode : Instr → Option Nat
  | .add w d x y => some (wordA2 0 0 w d x y)
  | .sub w d x y => some (wordA2 0 1 w d x y)
  | .and w d x y => some (wordA2 0 2 w d x y)
  | .or w d x y => some (wordA2 0 3 w d x y)
  | .xor w d x y => some (wordA2 0 4 w d x y)
  | .andn w d x y => some (wordA2 0 5 w d x y)
  | .shl w d x y => some (wordA2 0 6 w d x y)
  | .shr w d x y => some (wordA2 0 7 w d x y)
  | .sar w d x y => some (wordA2 1 0 w d x y)
  | .min w d x y => some (wordA2 1 1 w d x y)
  | .max w d x y => some (wordA2 1 2 w d x y)
  | .minu w d x y => some (wordA2 1 3 w d x y)
  | .maxu w d x y => some (wordA2 1 4 w d x y)
  | .slt w d x y => some (wordA2 1 5 w d x y)
  | .sltu w d x y => some (wordA2 1 6 w d x y)
  | .seq w d x y => some (wordA2 1 7 w d x y)
  | .clz w d x => some (wordA1 2 0 w d x)
  | .ctz w d x => some (wordA1 2 1 w d x)
  | .popc w d x => some (wordA1 2 2 w d x)
  | .sext w d x y => some (wordA2 2 3 w d x y)
  | .zext w d x y => some (wordA2 2 4 w d x y)
  | .sel w d x y => some (wordA2 2 5 w d x y)
  | .mov d x => some (wordA1 2 6 false d x)
  | .mul w d x y => some (wordA2 3 0 w d x y)
  | .mulh w d x y => some (wordA2 3 1 w d x y)
  | .mulhu w d x y => some (wordA2 3 2 w d x y)
  | .div w d x y => some (wordA2 3 3 w d x y)
  | .divu w d x y => some (wordA2 3 4 w d x y)
  | .rem w d x y => some (wordA2 3 5 w d x y)
  | .remu w d x y => some (wordA2 3 6 w d x y)
  | .li d imm => some (FmtI.word 4 ⟨d, imm, 0⟩)
  | .lix n imm => some (FmtI.word 4 ⟨wide 32 n, imm, 1⟩)
  | .lxh n imm => some (FmtI.word 4 ⟨wide 32 n, imm, 2⟩)
  | .movxFromX d n => some (FmtA.word 5 ⟨d, 0, wide 32 n, 0, 0, 0, 0, 0⟩)
  | .movxToX n x => some (wordA1 5 1 false (wide 32 n) x)
  | .saddr d x y => some (wordA2 5 2 false d x y)
  | .lea d r off sc => some (FmtM.word 6 ⟨d, r, off, wide 8 sc⟩)
  | .b c s1 s2 h off => some (FmtB.word 8 ⟨c.code, s1, s2, unflag h, off⟩)
  | .loop c off => some (FmtB.word 8 ⟨6, c, 0, 0, off⟩)
  | .bsplit c s1 s2 h off => some (FmtB.word 9 ⟨c.code, s1, s2, unflag h, off⟩)
  | .j off => some (majorWord 10 off.toNat)
  | .jal off => some (majorWord 11 off.toNat)
  | .jr d r => some (FmtA.word 12 ⟨d, 1, r, 0, 0, 0, 0, 0⟩)
  | .join => some (FmtA.word 12 ⟨0, 0, 0, 0, 0, 1, 0, 0⟩)
  | .nop => some (FmtA.word 12 ⟨0, 0, 0, 0, 0, 2, 0, 0⟩)
  | .exit => some (FmtA.word 12 ⟨0, 0, 0, 0, 0, 3, 0, 0⟩)
  | .cMov d r => some (FmtCR.parcel 1 ⟨d, r, 0⟩)
  | .cAdd d r => some (FmtCR.parcel 2 ⟨d, r, 0⟩)
  | .cSub d r => some (FmtCR.parcel 3 ⟨d, r, 0⟩)
  | .cAnd d r => some (FmtCR.parcel 4 ⟨d, r, 0⟩)
  | .cAddi d imm => some (FmtCI.parcel 5 ⟨d, imm⟩)
  | .cLi d imm => some (FmtCI.parcel 6 ⟨d, imm⟩)
  | .cShli d imm => some (FmtCI.parcel 7 ⟨d, imm⟩)
  | .cShri d imm => some (FmtCI.parcel 8 ⟨d, imm⟩)
  | .cLdw d r o => some (FmtCR.parcel 9 ⟨d, r, o⟩)
  | .cStw d r o => some (FmtCR.parcel 10 ⟨d, r, o⟩)
  | .cBeqz r off => some (FmtCI.parcel 11 ⟨r, off⟩)
  | .cBnez r off => some (FmtCI.parcel 12 ⟨r, off⟩)
  | .cJ off => some (13 * 2 ^ 11 + off.toNat)
  | .cJr r => some (FmtCI.parcel 14 ⟨r, 0⟩)
  | .cNop => some (15 * 2 ^ 11)
  | .ld d r off sz => some (FmtM.word 16 ⟨d, r, off, sz.code⟩)
  | .ldIndexed d r x sh sz => some (FmtX.word 17 ⟨d, r, x, sh, 0, sz.code⟩)
  | .st d r off sz => some (FmtM.word 18 ⟨d, r, off, sz.code⟩)
  | .stIndexed d r x sh sz => some (FmtX.word 19 ⟨d, r, x, sh, 0, sz.code⟩)
  | .ldr d r off => some (FmtM.word 20 ⟨d, r, off, 0⟩)
  | .stp d r off => some (FmtM.word 20 ⟨d, r, off, 1⟩)
  | .pref l r off => some (FmtM.word 20 ⟨if l then 1 else 0, r, off, 2⟩)
  | .kld d r off => some (FmtM.word 20 ⟨d, r, off, 3⟩)
  | .ldf d r off => some (FmtM.word 21 ⟨d, r, off, 0⟩)
  | .ldfe d r off => some (FmtM.word 21 ⟨d, r, off, 1⟩)
  | .stf d r off => some (FmtM.word 21 ⟨d, r, off, 2⟩)
  | .stef d r off => some (FmtM.word 21 ⟨d, r, off, 3⟩)
  | .tagset r off => some (FmtM.word 21 ⟨0, r, off, 4⟩)
  | .tagclr r off => some (FmtM.word 21 ⟨0, r, off, 5⟩)
  | .tagtst d r off => some (FmtM.word 21 ⟨d, r, off, 6⟩)
  | .vld v ty r off => some (FmtVM.word 22 ⟨v, ty.code, r, off, 0⟩)
  | .vlds v ty r off => some (FmtVM.word 22 ⟨v, ty.code, r, off, 1⟩)
  | .vldx v ty r x => some (FmtVX.word 22 ⟨v, ty.code, r, x, 0, 2⟩)
  | .vldb v ty r off => some (FmtVM.word 22 ⟨v, ty.code, r, off, 3⟩)
  | .vst v ty r off => some (FmtVM.word 22 ⟨v, ty.code, r, off, 4⟩)
  | .vsts v ty r off => some (FmtVM.word 22 ⟨v, ty.code, r, off, 5⟩)
  | .vstx v ty r x => some (FmtVX.word 22 ⟨v, ty.code, r, x, 0, 6⟩)
  | .vstxAdd v ty r x => some (FmtVX.word 22 ⟨v, ty.code, r, x, 0, 7⟩)
  | .amoW d r v op o sc => some (FmtAt.word 24 ⟨d, r, v, op.code, o.code, sc.code⟩)
  | .amoD d r v op o sc => some (FmtAt.word 25 ⟨d, r, v, op.code, o.code, sc.code⟩)
  | .fence o sc => some (FmtAt.word 24 ⟨0, 0, 0, 15, o.code, sc.code⟩)
  | .evArrive d r off => some (FmtM.word 16 ⟨d, r, off, 6⟩)
  | .evDrop d r off => some (FmtM.word 16 ⟨d, r, off, 6⟩)
  | .evWait d r off => some (FmtM.word 16 ⟨d, r, off, 6⟩)
  | .evSync d r off => some (FmtM.word 16 ⟨d, r, off, 6⟩)
  | .evLock d r off => some (FmtM.word 16 ⟨d, r, off, 6⟩)
  | .evUnlock r off => some (FmtM.word 18 ⟨0, r, off, 6⟩)
  | .evSignal r off => some (FmtM.word 18 ⟨0, r, off, 6⟩)
  | .evClear r off => some (FmtM.word 18 ⟨0, r, off, 6⟩)
  | .evInit d r off => some (FmtM.word 18 ⟨d, r, off, 6⟩)
  | .vaddI v x y t dl => some (wordV2 32 0 v x y t.code dl)
  | .vsubI v x y t dl => some (wordV2 32 1 v x y t.code dl)
  | .vmulI v x y t dl => some (wordV2 32 2 v x y t.code dl)
  | .vminI v x y t dl => some (wordV2 32 3 v x y t.code dl)
  | .vmaxI v x y t dl => some (wordV2 32 4 v x y t.code dl)
  | .vabsI v x dl => some (wordV1 32 5 v x 0 dl)
  | .vnegI v x dl => some (wordV1 32 6 v x 0 dl)
  | .vclampI v x y t dl => some (wordV2 32 7 v x y t.code dl)
  | .vaddF v x y t dl => some (wordV2 33 0 v x y t.code dl)
  | .vsubF v x y t dl => some (wordV2 33 1 v x y t.code dl)
  | .vmulF v x y t dl => some (wordV2 33 2 v x y t.code dl)
  | .vfma v x y t dl => some (wordV2 33 3 v x y t.code dl)
  | .vfms v x y t dl => some (wordV2 33 4 v x y t.code dl)
  | .vfnma v x y t dl => some (wordV2 33 5 v x y t.code dl)
  | .vminF v x y t dl => some (wordV2 33 6 v x y t.code dl)
  | .vmaxF v x y t dl => some (wordV2 33 7 v x y t.code dl)
  | .vabsF v x t dl => some (wordV1 34 0 v x t.code dl)
  | .vnegF v x t dl => some (wordV1 34 1 v x t.code dl)
  | .vclampF v x y t dl => some (wordV2 34 2 v x y t.code dl)
  | .vrcp v x t dl => some (wordV1 34 3 v x t.code dl)
  | .vrsq v x t dl => some (wordV1 34 4 v x t.code dl)
  | .vexp2 v x t dl => some (wordV1 34 5 v x t.code dl)
  | .vlog2 v x t dl => some (wordV1 34 6 v x t.code dl)
  | .vand v x y dl => some (wordV2 35 0 v x y 0 dl)
  | .vor v x y dl => some (wordV2 35 1 v x y 0 dl)
  | .vxor v x y dl => some (wordV2 35 2 v x y 0 dl)
  | .vandn v x y dl => some (wordV2 35 3 v x y 0 dl)
  | .vshl v x y dl => some (wordV2 35 4 v x y 0 dl)
  | .vshr v x y dl => some (wordV2 35 5 v x y 0 dl)
  | .vsar v x y dl => some (wordV2 35 6 v x y 0 dl)
  | .vmov v x dl => some (wordV1 35 7 v x 0 dl)
  | .vcmp m x y c t dl => some (wordV2 36 c.code (wide 16 m) x y t.code dl)
  | .vsel v m x y dl => some (wordV2 37 0 v x y m dl)
  | .vperm v x y dl => some (wordV2 37 1 v x y 0 dl)
  | .vbcast v x y dl => some (wordV2 37 2 v x y 0 dl)
  | .vslide v x y dl => some (wordV2 37 3 v x y 0 dl)
  | .viota v x dl => some (wordV1 37 4 v x 0 dl)
  | .vlut v x dl => some (wordV1 37 5 v x 0 dl)
  | .vext v x y dl => some (wordV2 37 6 v x y 0 dl)
  | .vins v x y => some (wordV2 37 7 v x y 0 0)
  | .vredAdd v x t dl => some (wordV1 38 0 v x t.code dl)
  | .vredMin v x t dl => some (wordV1 38 1 v x t.code dl)
  | .vredMax v x t dl => some (wordV1 38 2 v x t.code dl)
  | .vscanAdd v x t dl => some (wordV1 38 3 v x t.code dl)
  | .vscanMin v x t dl => some (wordV1 38 4 v x t.code dl)
  | .vscanMax v x t dl => some (wordV1 38 5 v x t.code dl)
  | .vdot4 v x y t dl => some (wordV2 38 6 v x y t.code dl)
  | .vcvt v x s t dl => some (FmtV.word 39 ⟨v, x.kind, x.selector, 0, wide 16 s.code, t.code, 0, dl⟩)
  | .mand m x y dl => some (FmtV.word 40 ⟨wide 16 m, 0, wide 16 x, 0, wide 16 y, 0, 0, dl⟩)
  | .mor m x y dl => some (FmtV.word 40 ⟨wide 16 m, 0, wide 16 x, 0, wide 16 y, 1, 0, dl⟩)
  | .mxor m x y dl => some (FmtV.word 40 ⟨wide 16 m, 0, wide 16 x, 0, wide 16 y, 2, 0, dl⟩)
  | .mnot m x dl => some (FmtV.word 40 ⟨wide 16 m, 0, wide 16 x, 0, 0, 3, 0, dl⟩)
  | .mpop d x dl => some (FmtV.word 40 ⟨d, 0, wide 16 x, 0, 0, 4, 0, dl⟩)
  | .mfirst d x dl => some (FmtV.word 40 ⟨d, 0, wide 16 x, 0, 0, 5, 0, dl⟩)
  | .mset m x dl => some (wordV1 40 6 (wide 16 m) x 0 dl)
  | .cx n v x y dl => some (wordV2 (if n.val < 32 then 42 else 43) (Fin.ofNat 8 (n.val % 32 / 4)) v x y (Fin.ofNat 4 n.val) dl)
  | .cxload n r => some (FmtS.word 41 ⟨0, r, 0, n, 0⟩)
  | .cxevict n => some (FmtS.word 41 ⟨0, 0, 0, n, 1⟩)
  | .cxqry d n => some (FmtS.word 41 ⟨d, 0, 0, n, 2⟩)
  | .cxldr r => some (FmtS.word 41 ⟨0, r, 0, 0, 3⟩)
  | .mma m n t r p c u dl => some (FmtE.word 44 ⟨m.code, n, t, r, p.code, unflag c, unflag u, dl⟩)
  | .mmas m n t r c u dl => some (FmtE.word 45 ⟨m.code, n, t, r, 4, unflag c, unflag u, dl⟩)
  | .tld p t x y dl => some (FmtT.word 46 ⟨0, x, t, y, 0, p.code, dl⟩)
  | .tst p t x y dl => some (FmtT.word 46 ⟨1, x, t, y, 0, p.code, dl⟩)
  | .tmov p t u dl => some (FmtT.word 46 ⟨2, wide 32 u, t, 0, 0, p.code, dl⟩)
  | .accZero x y dl => some (FmtT.word 47 ⟨0, x, 0, y, 0, 0, dl⟩)
  | .accLd x y dl => some (FmtT.word 47 ⟨1, x, 0, y, 0, 0, dl⟩)
  | .accSt x y dl => some (FmtT.word 47 ⟨2, x, 0, y, 0, 0, dl⟩)
  | .accTov t v x dl => some (FmtT.word 47 ⟨3, x, t.code, 0, v, 0, dl⟩)
  | .accAddv t x v dl => some (FmtT.word 47 ⟨4, x, t.code, 0, v, 0, dl⟩)
  | .accMode m x y dl => some (FmtT.word 47 ⟨5, x, m.code, y, 0, 0, dl⟩)
  | .accRaw d x dl => some (FmtT.word 47 ⟨6, x, 0, d, 0, 0, dl⟩)
  | .accRawWr x y dl => some (FmtT.word 47 ⟨6, x, 0, y, 0, 1, dl⟩)
  | .fork q => some (FmtS.word 48 ⟨0, 0, 0, q.code, 0⟩)
  | .rdv => some (FmtS.word 48 ⟨0, 0, 0, 0, 1⟩)
  | .ttEnq d x => some (FmtS.word 48 ⟨d, x, 0, 0, 2⟩)
  | .cpy x y => some (FmtS.word 48 ⟨0, x, y, 0, 3⟩)
  | .cpy2d x y => some (FmtS.word 48 ⟨0, x, y, 0, 4⟩)
  | .ccWait n y => some (FmtS.word 48 ⟨0, 0, y, wide 64 n, 5⟩)
  | .ccRead d n => some (FmtS.word 48 ⟨d, 0, 0, wide 64 n, 6⟩)
  | .rlQry d x => some (FmtS.word 48 ⟨d, x, 0, 0, 7⟩)
  | .subOpen d x => some (FmtS.word 49 ⟨d, x, 0, 0, 0⟩)
  | .subClose x => some (FmtS.word 49 ⟨0, x, 0, 0, 1⟩)
  | .slotTake d x => some (FmtS.word 49 ⟨d, x, 0, 0, 2⟩)
  | .slotGive x y => some (FmtS.word 49 ⟨0, x, y, 0, 3⟩)
  | .sstep => some (FmtS.word 50 ⟨0, 0, 0, 0, 0⟩)
  | .taskNext d => some (FmtS.word 50 ⟨d, 0, 0, 0, 1⟩)
  | .coverClaim d x => some (FmtS.word 50 ⟨d, x, 0, 0, 2⟩)
  | .coverDone x y => some (FmtS.word 50 ⟨0, x, y, 0, 3⟩)
  | .coverYield x y => some (FmtS.word 50 ⟨0, x, y, 0, 4⟩)
  | .hrd d n => some (FmtS.word 50 ⟨d, 0, 0, wide 64 n, 5⟩)
  | .hwr n x => some (FmtS.word 50 ⟨0, x, 0, wide 64 n, 6⟩)
  | .hcommit d => some (FmtS.word 50 ⟨d, 0, 0, 0, 7⟩)
  | .chSend c x => some (FmtS.word 51 ⟨0, x, 0, c, 0⟩)
  | .chRecv d c => some (FmtS.word 51 ⟨d, 0, 0, c, 1⟩)
  | .chProbe d c => some (FmtS.word 51 ⟨d, 0, 0, c, 2⟩)
  | .rsend x y => some (FmtS.word 51 ⟨0, x, y, 0, 3⟩)
  | .xwin w x y => some (FmtS.word 51 ⟨0, x, y, w, 4⟩)
  | .qLaunch d x y => some (FmtS.word 51 ⟨d, x, y, 0, 5⟩)
  | .hintSucc => some (FmtS.word 51 ⟨0, 0, 0, 0, 6⟩)
  | .waitpred => some (FmtS.word 51 ⟨0, 0, 0, 0, 7⟩)
  | .trap n => some (FmtS.word 56 ⟨0, 0, 0, n, 0⟩)
  | .tret => some (FmtS.word 56 ⟨0, 0, 0, 0, 1⟩)
  | .yield => some (FmtS.word 56 ⟨0, 0, 0, 0, 2⟩)
  | .pwrHint n => some (FmtS.word 56 ⟨0, 0, 0, n, 3⟩)
  | .jnlRd d n => some (FmtS.word 56 ⟨d, 0, 0, wide 64 n, 4⟩)
  | .jnlRetry n => some (FmtS.word 56 ⟨0, 0, 0, wide 64 n, 5⟩)
  | .jnlDrop n => some (FmtS.word 56 ⟨0, 0, 0, wide 64 n, 6⟩)
  | .tlbInv x y => some (FmtS.word 57 ⟨0, x, y, 0, 0⟩)
  | .tlbShoot x y => some (FmtS.word 57 ⟨0, x, y, 0, 1⟩)
  | .csrr d c => some (FmtC.word 58 ⟨d, 0, c, 0⟩)
  | .csrw d x c => some (FmtC.word 58 ⟨d, x, c, 1⟩)
  | .csrset d x c => some (FmtC.word 58 ⟨d, x, c, 2⟩)
  | .csrclr d x c => some (FmtC.word 58 ⟨d, x, c, 3⟩)
  | .issue | .dispatch _ _ | .completionInject _ _ | .completionAccept _ _ | .commit | .trapDelivery _ | .kill _ _
    | .outcomeRecordArrival _ _ | .performMarkArrival | .parityError | .storePerformed _ | .instructionFetch _
    | .tagWaiterWake _ | .pageWaitPark _ | .faultReply _ | .postedStoreAck _ _ | .postedStoreRefusal _ _
    | .l1Eviction _ | .eventLineService _ | .chainedArrival _ _ _ | .chainCompletionMessage _ | .eventOpReturn _
    | .matrixCommandStart | .matrixCommandComplete | .copyCommandStart | .copyCommandComplete | .sequencerStep _
    | .rangeLockReissue _ | .taskRecordDispatch _ | .datapathErrorReplay _ | .slotFillStart _ _ | .slotFilled _ _
    | .slotWriteoutDone _ _ | .taskRequestReserve | .barrierTreeComplete | .exchangeTransferBegin _ | .exchangeStepEnd
    | .routerPacket _ _ _ _ | .channelDelivery _ _ | .shootdownBlocked _ | .shootdownConfirmed _ | .coreWakeTlbFlush
    | .stopPoint _ | .handlerEntry | .handlerFault _ | .queueLaunchPacket _ _ | .queueLoadPacket _ _
    | .queueUnloadPacket _ _ | .queueWaitPacket _ _ | .waitPacketEnd _ _ | .queueFillPacket _ _
    | .queueBarrierPacket _ _ | .launchStart _ | .launchEnd _ | .linkTaggedWrite _ _ | .linkAccess _ _ _ _
    | .peerAmo _ _ _ _ _ | .linkAck _ | .class0PreemptRequest _ | .threadStop _ | .saveComplete _
    | .saveWatchdogExpiry _ | .attach | .run | .preempt | .resume | .detach | .warm | .cold | .updOpen | .updWrite
    | .updActivate | .svnCommit | .logRead | .repairList | .measExtend | .mgCtxbaseWrite _ | .rsvLendWrite _ _ _
    | .shareWrite _ | .rampWrite _ | .acctClr _ | .registerWrite _ _ | .getVersion | .getCapabilities
    | .negotiateAlgorithms _ _ | .getCertificate _ _ _ | .challenge _ | .getMeasurements _ | .chunkGet _ | .powerOn
    | .kararlinkHotReset | .startStepComplete | .startStepTimeout | .standbyPowerLoss | .correctedError _
    | .uncorrectableError _ | .codeLineError _ | .patrolScrub _ | .railChange _ _ | .clockRestart _ | .droopDetect _
    | .droopPass _ | .rampMicrosecond _ | .energyAttribution _ _ _ | .leaseReceipt _ _ _ | .leaseExpiry
    | .powerCapControl _ | .stackDerateEnter _ | .stackDerateExit _ | .linkLevelRetry | .linkDown _ _ => none

/-- The length of an instruction in bytes (R87). -/
def size : Instr → Nat
  | .cMov _ _ | .cAdd _ _ | .cSub _ _ | .cAnd _ _ | .cAddi _ _ | .cLi _ _ | .cShli _ _ | .cShri _ _ => 2
  | .cLdw _ _ _ | .cStw _ _ _ | .cBeqz _ _ | .cBnez _ _ | .cJ _ | .cJr _ | .cNop => 2
  | _ => 4

/-- The bytes of an instruction: its parcels in order, each little-endian (R2, R88). -/
def encodeBytes (i : Instr) : Option (List Byte) :=
  (encode i).map fun w =>
    if size i = 2 then [BitVec.ofNat 8 w, BitVec.ofNat 8 (w / 256)]
    else [BitVec.ofNat 8 (w / 65536), BitVec.ofNat 8 (w / 16777216), BitVec.ofNat 8 w, BitVec.ofNat 8 (w / 256)]

end Sys2Proof
end

