-- ==== Sys2Proof/Machine/Scalar.lean ====
section
/-! DEFINITION. The scalar, address and control instructions (chapter 05) with their compact forms (R108). -/

namespace Sys2Proof.Machine

/-! ## Shared computations -/

/-- Two-source arithmetic, logic, shifts and comparisons on the W-bit values (R121). -/
inductive AluFn where
  | add | sub | and | or | xor | andn | shl | shr | sar | min | max | minu | maxu | slt | sltu | seq
  deriving DecidableEq, Repr

/-- res of R121, before Finish. -/
def aluRes (f : AluFn) (w : Bool) (x y : Word) : Int :=
  let n := widthOf w
  let a := unsignedW w x
  let c := unsignedW w y
  let sa := signedW w x
  let sc := signedW w y
  match f with
  | .add => a + c
  | .sub => (a : Int) - c
  | .and => ((a &&& c : Nat) : Int)
  | .or => ((a ||| c : Nat) : Int)
  | .xor => ((a ^^^ c : Nat) : Int)
  | .andn => ((a &&& (2 ^ n - 1 - c) : Nat) : Int)
  | .shl => if n ≤ c then 0 else ((a * 2 ^ c : Nat) : Int)
  | .shr => if n ≤ c then 0 else ((a / 2 ^ c : Nat) : Int)
  | .sar => sa / 2 ^ (Nat.min c (n - 1))
  | .min => Min.min sa sc
  | .max => Max.max sa sc
  | .minu => ((Nat.min a c : Nat) : Int)
  | .maxu => ((Nat.max a c : Nat) : Int)
  | .slt => if sa < sc then 1 else 0
  | .sltu => if a < c then 1 else 0
  | .seq => if a = c then 1 else 0

/-- The result written by a two-source instruction (R120, R121). -/
def alu (f : AluFn) (w : Bool) (x y : Word) : Word := finishW w (aluRes f w x y)

/-- The count of zero bits below the lowest set bit among n bits. -/
def trailing (v : Nat) : Nat → Nat
  | 0 => 0
  | n + 1 => if v % 2 = 1 then 0 else trailing (v / 2) n + 1

/-- The count of set bits among n bits. -/
def popCount (v : Nat) : Nat → Nat
  | 0 => 0
  | n + 1 => v % 2 + popCount (v / 2) n

/-- Leading zero bits of a W-bit value; W for zero (R122). -/
def leading (w : Bool) (v : Nat) : Nat := if v = 0 then widthOf w else widthOf w - 1 - Nat.log2 v

/-- The width operand p of SEXT and ZEXT (R122). -/
def fieldTop (w : Bool) (p : Word) : Nat := p.toNat % widthOf w

/-- The operations of R123. -/
inductive MulFn where
  | mul | mulh | mulhu | div | divu | rem | remu
  deriving DecidableEq, Repr

/-- res of R123, before Finish. -/
def mulRes (f : MulFn) (w : Bool) (x y : Word) : Int :=
  let n := widthOf w
  let a := unsignedW w x
  let c := unsignedW w y
  let sa := signedW w x
  let sc := signedW w y
  match f with
  | .mul => ((a * c : Nat) : Int)
  | .mulh => sa * sc / 2 ^ n
  | .mulhu => ((a * c / 2 ^ n : Nat) : Int)
  | .div => if c = 0 then 2 ^ n - 1 else if sa = -2 ^ (n - 1) ∧ sc = -1 then -2 ^ (n - 1) else sa.tdiv sc
  | .rem => if c = 0 then a else if sa = -2 ^ (n - 1) ∧ sc = -1 then 0 else sa - sc * sa.tdiv sc
  | .divu => if c = 0 then 2 ^ n - 1 else ((a / c : Nat) : Int)
  | .remu => if c = 0 then a else ((a % c : Nat) : Int)

/-- The condition of a branch (R129). -/
def holds (c : Cond) (x y : Word) : Bool :=
  match c with
  | .eq => x = y
  | .ne => x ≠ y
  | .lt => x.toInt < y.toInt
  | .ge => y.toInt ≤ x.toInt
  | .ltu => x.toNat < y.toNat
  | .geu => y.toNat ≤ x.toNat

/-- What a mispredict does to the thread (R44, R46, R53, R173): younger work is discarded, and vector results count as
produced. -/
def State.mispredict (s : State) : State :=
  (s.setMe { s.me.killed with run := s.me.run }).countHy 3 1

/-- A branch goes elsewhere than fetch did by its hint (R129). -/
def mispredicted (taken hint : Bool) (dest fall : Word) : Bool := decide (taken ≠ hint) && decide (dest ≠ fall)

/-- A resolved conditional branch (R46, R129): the next address is the target or the fall-through, and a resolved next that
differs from the predicted one is a mispredict. -/
def resolve (taken hint : Bool) (dest fall : Word) (s : State) : State :=
  (if mispredicted taken hint dest fall then s.mispredict else s).goto (if taken then dest else fall)

/-- A conditional branch, of which the leader's stream carries an outcome record (R50). -/
def isConditional (i : Instr) : Bool :=
  match i with
  | .b .. | .bsplit .. | .loop .. | .cBeqz .. | .cBnez .. => true
  | _ => false

/-- The instruction a forwarded parcel pair holds. -/
def Fwd.instr? (f : Fwd) : Option Instr :=
  match decodeParcels f.p f.q with
  | .ok (i, _) => some i
  | .error _ => none
def Fwd.conditional (f : Fwd) : Bool := f.instr?.any isConditional

/-- The stream after a redirect marker that came when n instructions had been forwarded: the follower's branch, which is
its first, and the correct path (R50). -/
def Slaving.redirected (k : Slaving) (n : Nat) : Slaving :=
  { k with stream := k.stream.take 1 ++ (k.stream.drop 1).filter fun f => decide (n ≤ f.seq) }

/-- The leader's stream beyond a split, with the records that have arrived for it: what stands from the leader's JOIN on, the
records that are left, and how many branches before that JOIN still owe theirs. Of the stream forwarded before a redirect
marker, what follows its branch is the wrong path; `low` is the first place that is not. -/
def splitJoin : List Fwd → List (Bool × Bool × Nat) → Nat → List Fwd × List (Bool × Bool × Nat) × Nat
  | [], o, _ => ([], o, 0)
  | f :: l, o, low =>
    if f.seq < low then splitJoin l o low
    else if f.instr? = some .join then ((f :: l).filter fun g => decide (low ≤ g.seq), o, 0)
    else if f.conditional then match o with
      | (_, redirect, n) :: o1 => splitJoin l o1 (if redirect then Nat.max low n else low)
      | [] => let r := splitJoin l [] low; (r.1, r.2.1, r.2.2 + 1)
    else splitJoin l o low

/-- A follower detaches at a BSPLIT (R50, R51): of the leader's stream it keeps the leader's JOIN, in whose place its own
will stand, and what lies beyond. The records still owed to branches before that JOIN are the leader's own. -/
def Slaving.detach (k : Slaving) : Slaving :=
  let r := splitJoin (k.stream.drop 1) k.outcomes 0
  let stale := if r.1 = [] then k.owed else Nat.min k.owed r.2.2
  { k with
    role := .detached, marks := 0, stream := r.1, outcomes := r.2.1
    stale := stale, owed := k.owed - stale, past := decide (r.1 ≠ []) }

/-- A conditional branch (R50, R129 to R131). In an attached follower it waits for the leader's outcome record; an
outcome that differs is the follower branch fault, or for BSPLIT detaches the follower. A leader forwards its outcome, with
a redirect marker after a mispredict. `eff` is what the branch writes. -/
def branch (split taken hint : Bool) (dest fall : Word) (eff : State → State) (s : State) : Host.Outcome State Fault Refusal :=
  if s.attached then
    match s.core.slave.outcomes with
    | [] => finish (slaveWait s)
    | (lead, redirect, n) :: rest =>
      let k := { s.core.slave with outcomes := rest }
      let k1 := if redirect then k.redirected n else k
      let s1 := s.setSlave k1
      if lead = taken then .next ((eff (if redirect then s1.mispredict else s1)).goto (if taken then dest else fall))
      else if split then .next ((s1.setSlave k1.detach).mispredict.goto (if taken then dest else fall))
      else .next (takeTrap 0x09 0 0 s1)
  else .next (resolve taken hint dest fall (eff (s.forward (.outcome taken (mispredicted taken hint dest fall)))))

/-- A result and no other effect (R118). -/
def retOk (d : Fin 32) (v : Word) (s : State) : Host.Outcome State Fault Refusal := .next (s.ret d v)

/-! ## Majors 0x00 and 0x01 (R121) -/

def execAdd (w : Bool) (d : Fin 32) (a b : Src) (s : State) : Host.Outcome State Fault Refusal :=
  retOk d (alu .add w (s.src a) (s.src b)) s

def execSub (w : Bool) (d : Fin 32) (a b : Src) (s : State) : Host.Outcome State Fault Refusal :=
  retOk d (alu .sub w (s.src a) (s.src b)) s

def execAnd (w : Bool) (d : Fin 32) (a b : Src) (s : State) : Host.Outcome State Fault Refusal :=
  retOk d (alu .and w (s.src a) (s.src b)) s

def execOr (w : Bool) (d : Fin 32) (a b : Src) (s : State) : Host.Outcome State Fault Refusal :=
  retOk d (alu .or w (s.src a) (s.src b)) s

def execXor (w : Bool) (d : Fin 32) (a b : Src) (s : State) : Host.Outcome State Fault Refusal :=
  retOk d (alu .xor w (s.src a) (s.src b)) s

def execAndn (w : Bool) (d : Fin 32) (a b : Src) (s : State) : Host.Outcome State Fault Refusal :=
  retOk d (alu .andn w (s.src a) (s.src b)) s

def execShl (w : Bool) (d : Fin 32) (a b : Src) (s : State) : Host.Outcome State Fault Refusal :=
  retOk d (alu .shl w (s.src a) (s.src b)) s

def execShr (w : Bool) (d : Fin 32) (a b : Src) (s : State) : Host.Outcome State Fault Refusal :=
  retOk d (alu .shr w (s.src a) (s.src b)) s

def execSar (w : Bool) (d : Fin 32) (a b : Src) (s : State) : Host.Outcome State Fault Refusal :=
  retOk d (alu .sar w (s.src a) (s.src b)) s

def execMin (w : Bool) (d : Fin 32) (a b : Src) (s : State) : Host.Outcome State Fault Refusal :=
  retOk d (alu .min w (s.src a) (s.src b)) s

def execMax (w : Bool) (d : Fin 32) (a b : Src) (s : State) : Host.Outcome State Fault Refusal :=
  retOk d (alu .max w (s.src a) (s.src b)) s

def execMinu (w : Bool) (d : Fin 32) (a b : Src) (s : State) : Host.Outcome State Fault Refusal :=
  retOk d (alu .minu w (s.src a) (s.src b)) s

def execMaxu (w : Bool) (d : Fin 32) (a b : Src) (s : State) : Host.Outcome State Fault Refusal :=
  retOk d (alu .maxu w (s.src a) (s.src b)) s

def execSlt (w : Bool) (d : Fin 32) (a b : Src) (s : State) : Host.Outcome State Fault Refusal :=
  retOk d (alu .slt w (s.src a) (s.src b)) s

def execSltu (w : Bool) (d : Fin 32) (a b : Src) (s : State) : Host.Outcome State Fault Refusal :=
  retOk d (alu .sltu w (s.src a) (s.src b)) s

def execSeq (w : Bool) (d : Fin 32) (a b : Src) (s : State) : Host.Outcome State Fault Refusal :=
  retOk d (alu .seq w (s.src a) (s.src b)) s

/-! ## Major 0x02 (R122) -/

def execClz (w : Bool) (d : Fin 32) (a : Src) (s : State) : Host.Outcome State Fault Refusal :=
  retOk d (finishW w (leading w (unsignedW w (s.src a)))) s

def execCtz (w : Bool) (d : Fin 32) (a : Src) (s : State) : Host.Outcome State Fault Refusal :=
  retOk d (finishW w (trailing (unsignedW w (s.src a)) (widthOf w))) s

def execPopc (w : Bool) (d : Fin 32) (a : Src) (s : State) : Host.Outcome State Fault Refusal :=
  retOk d (finishW w (popCount (unsignedW w (s.src a)) (widthOf w))) s

def execSext (w : Bool) (d : Fin 32) (a p : Src) (s : State) : Host.Outcome State Fault Refusal :=
  retOk d (finishW w (signedOf (unsignedW w (s.src a)) (fieldTop w (s.src p) + 1))) s

def execZext (w : Bool) (d : Fin 32) (a p : Src) (s : State) : Host.Outcome State Fault Refusal :=
  retOk d (finishW w (unsignedW w (s.src a) % 2 ^ (fieldTop w (s.src p) + 1) : Nat)) s

def execSel (w : Bool) (d : Fin 32) (a b : Src) (s : State) : Host.Outcome State Fault Refusal :=
  retOk d (finishW w (unsignedW w (if unsignedW w (s.xreg 4) ≠ 0 then s.src a else s.src b))) s

def execMov (d : Fin 32) (a : Src) (s : State) : Host.Outcome State Fault Refusal := retOk d (s.src a) s

/-! ## Major 0x03 (R123) -/

def execMul (w : Bool) (d : Fin 32) (a b : Src) (s : State) : Host.Outcome State Fault Refusal :=
  retOk d (finishW w (mulRes .mul w (s.src a) (s.src b))) s

def execMulh (w : Bool) (d : Fin 32) (a b : Src) (s : State) : Host.Outcome State Fault Refusal :=
  retOk d (finishW w (mulRes .mulh w (s.src a) (s.src b))) s

def execMulhu (w : Bool) (d : Fin 32) (a b : Src) (s : State) : Host.Outcome State Fault Refusal :=
  retOk d (finishW w (mulRes .mulhu w (s.src a) (s.src b))) s

def execDiv (w : Bool) (d : Fin 32) (a b : Src) (s : State) : Host.Outcome State Fault Refusal :=
  retOk d (finishW w (mulRes .div w (s.src a) (s.src b))) s

def execDivu (w : Bool) (d : Fin 32) (a b : Src) (s : State) : Host.Outcome State Fault Refusal :=
  retOk d (finishW w (mulRes .divu w (s.src a) (s.src b))) s

def execRem (w : Bool) (d : Fin 32) (a b : Src) (s : State) : Host.Outcome State Fault Refusal :=
  retOk d (finishW w (mulRes .rem w (s.src a) (s.src b))) s

def execRemu (w : Bool) (d : Fin 32) (a b : Src) (s : State) : Host.Outcome State Fault Refusal :=
  retOk d (finishW w (mulRes .remu w (s.src a) (s.src b))) s

/-! ## Constants, extension registers and addresses (R125 to R128) -/

def execLi (d : Fin 32) (imm : BitVec 16) (s : State) : Host.Outcome State Fault Refusal := retOk d (imm.signExtend 64) s

def execLix (n : Fin 8) (imm : BitVec 16) (s : State) : Host.Outcome State Fault Refusal :=
  .next ((s.setXreg n (imm.signExtend 64)).advance 4)

def execLxh (n : Fin 8) (imm : BitVec 16) (s : State) : Host.Outcome State Fault Refusal :=
  .next ((s.setXreg n (s.xreg n * 65536 + imm.zeroExtend 64)).advance 4)

def execMovxFromX (d : Fin 32) (n : Fin 8) (s : State) : Host.Outcome State Fault Refusal := retOk d (s.xreg n) s

def execMovxToX (n : Fin 8) (a : Src) (s : State) : Host.Outcome State Fault Refusal :=
  .next ((s.setXreg n (s.src a)).advance 4)

/-- The address SADDR builds in the global scratchpad window (R127). -/
def scratchAddr (x y : Word) : Word :=
  BitVec.ofNat 64 (0x00F0000000000000 + bits x 8 5 * 2 ^ 24 + bits x 0 5 * 2 ^ 19 + bits y 0 19)

def execSaddr (d : Fin 32) (a b : Src) (s : State) : Host.Outcome State Fault Refusal :=
  retOk d (scratchAddr (s.src a) (s.src b)) s

def execLea (d b : Fin 32) (off : BitVec 11) (scale : Fin 4) (s : State) : Host.Outcome State Fault Refusal :=
  retOk d (s.eaOff b off (2 ^ scale.val)) s

/-! ## Branches and jumps (R129 to R136) -/

def execB (c : Cond) (s1 s2 : Fin 32) (hint : Bool) (off : BitVec 10) (s : State) : Host.Outcome State Fault Refusal :=
  branch false (holds c (s.reg s1) (s.reg s2)) hint (s.target off) (s.pc + 4) id s

def execLoop (c : Fin 32) (off : BitVec 10) (s : State) : Host.Outcome State Fault Refusal :=
  let n := s.reg c - 1
  branch false (decide (n ≠ 0)) (decide (n ≠ 0)) (s.target off) (s.pc + 4) (·.setReg c n) s

/-- How many followers detach at a leader's BSPLIT, or still stand out at its JOIN, is theirs to decide (R51, log 25): a
free value below a bound. -/
def State.followers (s : State) (n : Nat) : State :=
  { s.tickFree with core := { s.core with slave := { s.core.slave with followersOut := s.free.toNat % n } } }

/-- Outside a slaved group, and in a detached follower, BSPLIT has the effect of B (R130). -/
def execBsplit (c : Cond) (s1 s2 : Fin 32) (hint : Bool) (off : BitVec 10) (s : State) :
    Host.Outcome State Fault Refusal :=
  branch true (holds c (s.reg s1) (s.reg s2)) hint (s.target off) (s.pc + 4)
    (fun t => if t.leads then t.followers 1024 else t) s

def execJ (off : BitVec 24) (s : State) : Host.Outcome State Fault Refusal := .next (s.goto (s.target off))

def execJal (off : BitVec 24) (s : State) : Host.Outcome State Fault Refusal :=
  .next ((s.setReg 31 (s.pc + 4)).goto (s.target off))

def execJr (d a : Fin 32) (s : State) : Host.Outcome State Fault Refusal :=
  .next ((s.setReg d (s.pc + 4)).goto (setBit (s.reg a) 0 false))

/-- JOIN is a NOP but in a slaved group, where a detached follower waits for its leader's JOIN and the leader for every
detached follower (R51). Together with its leader the follower goes on in the leader's stream. -/
def execJoin (s : State) : Host.Outcome State Fault Refusal :=
  let k := s.core.slave
  if s.cur = .pri ∧ k.role = .detached then
    if k.marks = 0 then finish (slaveWait s)
    else .next ((s.setSlave { k with role := .attached, marks := 0, stale := 0, past := false }).advance 4)
  else if s.leads && decide (k.followersOut ≠ 0) then finish (parkOn 17 0 0 (s.followers k.followersOut))
  else .next (s.advance 4)

def execNop (s : State) : Host.Outcome State Fault Refusal := .next (s.advance 4)

/-- EXIT waits for an empty journal, then the thread ends with a kill of everything beyond it (R136). In handler or loader mode, of which the rule says nothing, the
mode bit stays as it is (log 85). -/
def execExit (s : State) : Host.Outcome State Fault Refusal :=
  if s.me.journal.toList.any fun e => decide (e.state ≠ .free) then finish (parkOn 32 0 0 s)
  else .next ((s.setMe { s.me.killed with run := .ended, pc := s.pc + 4, lastTag := s.me.headTag }).countHy 3 1)

/-! ## Compact forms (R108): the 32-bit instruction's effect, the next instruction two bytes on -/

/-- The result of a compact form. -/
def retC (d : Fin 16) (v : Word) (s : State) : Host.Outcome State Fault Refusal :=
  .next ((s.setReg (low32 d) v).advance 2)

def execCMov (d r : Fin 16) (s : State) : Host.Outcome State Fault Refusal := retC d (s.reg (low32 r)) s

def execCAdd (d r : Fin 16) (s : State) : Host.Outcome State Fault Refusal :=
  retC d (alu .add false (s.reg (low32 d)) (s.reg (low32 r))) s

def execCSub (d r : Fin 16) (s : State) : Host.Outcome State Fault Refusal :=
  retC d (alu .sub false (s.reg (low32 d)) (s.reg (low32 r))) s

def execCAnd (d r : Fin 16) (s : State) : Host.Outcome State Fault Refusal :=
  retC d (alu .and false (s.reg (low32 d)) (s.reg (low32 r))) s

def execCAddi (d : Fin 16) (i : BitVec 7) (s : State) : Host.Outcome State Fault Refusal :=
  retC d (alu .add false (s.reg (low32 d)) (i.signExtend 64)) s

def execCLi (d : Fin 16) (i : BitVec 7) (s : State) : Host.Outcome State Fault Refusal := retC d (i.signExtend 64) s

def execCShli (d : Fin 16) (i : BitVec 7) (s : State) : Host.Outcome State Fault Refusal :=
  retC d (alu .shl false (s.reg (low32 d)) (i.signExtend 64)) s

def execCShri (d : Fin 16) (i : BitVec 7) (s : State) : Host.Outcome State Fault Refusal :=
  retC d (alu .shr false (s.reg (low32 d)) (i.signExtend 64)) s

/-- The hint of a compact branch is set exactly for a negative offset (R108). -/
def execCBeqz (r : Fin 16) (off : BitVec 7) (s : State) : Host.Outcome State Fault Refusal :=
  branch false (holds .eq (s.reg (low32 r)) 0) off.msb (s.target off) (s.pc + 2) id s

def execCBnez (r : Fin 16) (off : BitVec 7) (s : State) : Host.Outcome State Fault Refusal :=
  branch false (holds .ne (s.reg (low32 r)) 0) off.msb (s.target off) (s.pc + 2) id s

def execCJ (off : BitVec 11) (s : State) : Host.Outcome State Fault Refusal := .next (s.goto (s.target off))

def execCJr (r : Fin 16) (s : State) : Host.Outcome State Fault Refusal :=
  .next (s.goto (setBit (s.reg (low32 r)) 0 false))

def execCNop (s : State) : Host.Outcome State Fault Refusal := .next (s.advance 2)

end Sys2Proof.Machine
end

