-- ==== Sys2Proof/Machine/Vec.lean ====
section
/-! DEFINITION. The vector instructions (chapter 08): lane operations, reductions, permutations, conversions, masks. -/

namespace Sys2Proof.Machine

/-! ## One delay-carrying instruction (R53, R54, R173 to R175) -/

/-- The end of a vector instruction with nominal start n, a result latency, a new value for v<d> and its flags. -/
def doneV (d : Fin 16) (n lat : Nat) (r : Vector Lane 64 × Fl) (s : State) : State :=
  (((s.started n).writeV d n lat r.1).raise r.2).advance 4

/-- The end of an instruction that writes a mask (R183). -/
def doneM (d : Fin 8) (n lat : Nat) (r : BitVec 64 × Fl) (s : State) : State :=
  (((s.started n).writeM d n lat r.1).raise r.2).advance 4

/-- A unary lane operation on sources of a format. -/
def vec1 (f : Fmt) (lat : Nat) (op : Lane → Lane × Fl) (d : Fin 16) (a : VSrc) (dl : Fin 8) (s : State) : Res State := do
  let n := s.me.start dl
  let x ← srcV f n s a
  .ok (doneV d n lat (lift1 op x) s)

/-- A binary lane operation. -/
def vec2 (f : Fmt) (lat : Nat) (op : Lane → Lane → Lane × Fl) (d : Fin 16) (a b : VSrc) (dl : Fin 8) (s : State) :
    Res State := do
  let n := s.me.start dl
  let x ← srcV f n s a
  let y ← srcV f n s b
  .ok (doneV d n lat (lift2 op x y) s)

/-- A lane operation of two sources and the prior value of v<d> (R172). -/
def vec3 (f : Fmt) (lat : Nat) (op : Lane → Lane → Lane → Lane × Fl) (d : Fin 16) (a b : VSrc) (dl : Fin 8) (s : State) :
    Res State := do
  let n := s.me.start dl
  let x ← srcV f n s a
  let y ← srcV f n s b
  let c ← readV n d s
  .ok (doneV d n lat (lift3 op x y c) s)

/-! ## Lane operations -/

/-- An integer value of a lane. -/
def intLane (t : IntTy) (x : Lane) : Int :=
  match t with
  | .i32 => x.toInt
  | .n32 => x.toNat

/-- A lane operation on integers; results wrap modulo 2^32 and raise no flag (R174, R176). -/
def intOp (t : IntTy) (f : Int → Int → Int) (x y : Lane) : Lane × Fl := (BitVec.ofInt 32 (f (intLane t x) (intLane t y)), 0)

/-- Min(Max(c, lo), hi) (R176). -/
def clampInt (t : IntTy) (lo hi c : Lane) : Lane × Fl :=
  (BitVec.ofInt 32 (min (max (intLane t c) (intLane t lo)) (intLane t hi)), 0)

/-- RoundTo of an exact result, with the flags of the operation and of the rounding (R172, R178). -/
def roundLane (f : Fmt) (r : Exact × Fl) : Lane × Fl := ((encLane f r.1).1, r.2 ||| (encLane f r.1).2)

/-- A lane operation on floating values. -/
def fltOp (f : Fmt) (op : Exact → Exact → Exact × Fl) (x y : Lane) : Lane × Fl :=
  roundLane f (op (decLane f x) (decLane f y))

/-- The fused forms, with the signs of the product and of the addend (R178). -/
def fmaOp (f : Fmt) (np na : Bool) (x y c : Lane) : Lane × Fl :=
  let a := decLane f x
  let z := decLane f c
  roundLane f (Exact.fma (if np then a.negate else a) (decLane f y) (if na then z.negate else z))

/-- FMin(FMax(c, lo), hi) (R179). -/
def clampFlt (f : Fmt) (lo hi c : Lane) : Lane × Fl :=
  let m := Exact.fmax (decLane f c) (decLane f lo)
  let r := Exact.fmin m.1 (decLane f hi)
  roundLane f (r.1, m.2 ||| r.2)

/-- The sign operations: a NaN gives the canonical NaN, a signalling NaN sets NV (R179). -/
def signOp (f : Fmt) (op : Exact → Exact) (x : Lane) : Lane × Fl :=
  let a := decLane f x
  roundLane f (op a, Fl.when a.isSnan Fl.nv)

/-- The value with sign 0. -/
def absExact : Exact → Exact
  | .fin _ m e => .fin false m e
  | .inf _ => .inf false
  | x => x

/-- A transcendental lane (R180). -/
def transOp (t : Trans) (f : Fmt) (x : Lane) : Lane × Fl := roundLane f (t.apply (decLane f x))

/-- A bitwise lane operation (R177). -/
def bitOp (f : Lane → Lane → Lane) (x y : Lane) : Lane × Fl := (f x y, 0)

/-- The lane result of VSHL, VSHR and VSAR: the whole 32-bit lane is the count (R177). -/
def shlLane (x y : Lane) : Lane := if 32 ≤ y.toNat then 0 else x <<< y.toNat
def shrLane (x y : Lane) : Lane := if 32 ≤ y.toNat then 0 else x >>> y.toNat
def sarLane (x y : Lane) : Lane := x.sshiftRight (Nat.min y.toNat 31)

/-! ## Major 0x20 (R176) -/

def execVaddI (v : Fin 16) (a b : VSrc) (t : IntTy) (dl : Fin 8) (s : State) : Host.Outcome State Fault Refusal :=
  finish (vec2 t.fmt 2 (intOp t (· + ·)) v a b dl s)

def execVsubI (v : Fin 16) (a b : VSrc) (t : IntTy) (dl : Fin 8) (s : State) : Host.Outcome State Fault Refusal :=
  finish (vec2 t.fmt 2 (intOp t (· - ·)) v a b dl s)

def execVmulI (v : Fin 16) (a b : VSrc) (t : IntTy) (dl : Fin 8) (s : State) : Host.Outcome State Fault Refusal :=
  finish (vec2 t.fmt 2 (intOp t (· * ·)) v a b dl s)

def execVminI (v : Fin 16) (a b : VSrc) (t : IntTy) (dl : Fin 8) (s : State) : Host.Outcome State Fault Refusal :=
  finish (vec2 t.fmt 2 (intOp t min) v a b dl s)

def execVmaxI (v : Fin 16) (a b : VSrc) (t : IntTy) (dl : Fin 8) (s : State) : Host.Outcome State Fault Refusal :=
  finish (vec2 t.fmt 2 (intOp t max) v a b dl s)

def execVabsI (v : Fin 16) (a : VSrc) (dl : Fin 8) (s : State) : Host.Outcome State Fault Refusal :=
  finish (vec1 .i32 2 (fun x => (BitVec.ofNat 32 x.toInt.natAbs, 0)) v a dl s)

def execVnegI (v : Fin 16) (a : VSrc) (dl : Fin 8) (s : State) : Host.Outcome State Fault Refusal :=
  finish (vec1 .i32 2 (fun x => (-x, 0)) v a dl s)

def execVclampI (v : Fin 16) (a b : VSrc) (t : IntTy) (dl : Fin 8) (s : State) : Host.Outcome State Fault Refusal :=
  finish (vec3 t.fmt 2 (clampInt t) v a b dl s)

/-! ## Majors 0x21 and 0x22 (R178 to R180) -/

def execVaddF (v : Fin 16) (a b : VSrc) (t : FltTy) (dl : Fin 8) (s : State) : Host.Outcome State Fault Refusal :=
  finish (vec2 t.fmt 4 (fltOp t.fmt Exact.add) v a b dl s)

def execVsubF (v : Fin 16) (a b : VSrc) (t : FltTy) (dl : Fin 8) (s : State) : Host.Outcome State Fault Refusal :=
  finish (vec2 t.fmt 4 (fltOp t.fmt fun x y => Exact.add x y.negate) v a b dl s)

def execVmulF (v : Fin 16) (a b : VSrc) (t : FltTy) (dl : Fin 8) (s : State) : Host.Outcome State Fault Refusal :=
  finish (vec2 t.fmt 4 (fltOp t.fmt Exact.mul) v a b dl s)

def execVfma (v : Fin 16) (a b : VSrc) (t : FltTy) (dl : Fin 8) (s : State) : Host.Outcome State Fault Refusal :=
  finish (vec3 t.fmt 4 (fmaOp t.fmt false false) v a b dl s)

def execVfms (v : Fin 16) (a b : VSrc) (t : FltTy) (dl : Fin 8) (s : State) : Host.Outcome State Fault Refusal :=
  finish (vec3 t.fmt 4 (fmaOp t.fmt false true) v a b dl s)

def execVfnma (v : Fin 16) (a b : VSrc) (t : FltTy) (dl : Fin 8) (s : State) : Host.Outcome State Fault Refusal :=
  finish (vec3 t.fmt 4 (fmaOp t.fmt true false) v a b dl s)

def execVminF (v : Fin 16) (a b : VSrc) (t : FltTy) (dl : Fin 8) (s : State) : Host.Outcome State Fault Refusal :=
  finish (vec2 t.fmt 2 (fltOp t.fmt Exact.fmin) v a b dl s)

def execVmaxF (v : Fin 16) (a b : VSrc) (t : FltTy) (dl : Fin 8) (s : State) : Host.Outcome State Fault Refusal :=
  finish (vec2 t.fmt 2 (fltOp t.fmt Exact.fmax) v a b dl s)

def execVabsF (v : Fin 16) (a : VSrc) (t : FltTy) (dl : Fin 8) (s : State) : Host.Outcome State Fault Refusal :=
  finish (vec1 t.fmt 2 (signOp t.fmt absExact) v a dl s)

def execVnegF (v : Fin 16) (a : VSrc) (t : FltTy) (dl : Fin 8) (s : State) : Host.Outcome State Fault Refusal :=
  finish (vec1 t.fmt 2 (signOp t.fmt Exact.negate) v a dl s)

def execVclampF (v : Fin 16) (a b : VSrc) (t : FltTy) (dl : Fin 8) (s : State) : Host.Outcome State Fault Refusal :=
  finish (vec3 t.fmt 2 (clampFlt t.fmt) v a b dl s)

def execVrcp (v : Fin 16) (a : VSrc) (t : FltTy) (dl : Fin 8) (s : State) : Host.Outcome State Fault Refusal :=
  finish (vec1 t.fmt 8 (transOp .rcp t.fmt) v a dl s)

def execVrsq (v : Fin 16) (a : VSrc) (t : FltTy) (dl : Fin 8) (s : State) : Host.Outcome State Fault Refusal :=
  finish (vec1 t.fmt 8 (transOp .rsq t.fmt) v a dl s)

def execVexp2 (v : Fin 16) (a : VSrc) (t : FltTy) (dl : Fin 8) (s : State) : Host.Outcome State Fault Refusal :=
  finish (vec1 t.fmt 8 (transOp .exp2 t.fmt) v a dl s)

def execVlog2 (v : Fin 16) (a : VSrc) (t : FltTy) (dl : Fin 8) (s : State) : Host.Outcome State Fault Refusal :=
  finish (vec1 t.fmt 8 (transOp .log2 t.fmt) v a dl s)

/-! ## Major 0x23 (R177) -/

def execVand (v : Fin 16) (a b : VSrc) (dl : Fin 8) (s : State) : Host.Outcome State Fault Refusal :=
  finish (vec2 .raw 2 (bitOp (· &&& ·)) v a b dl s)

def execVor (v : Fin 16) (a b : VSrc) (dl : Fin 8) (s : State) : Host.Outcome State Fault Refusal :=
  finish (vec2 .raw 2 (bitOp (· ||| ·)) v a b dl s)

def execVxor (v : Fin 16) (a b : VSrc) (dl : Fin 8) (s : State) : Host.Outcome State Fault Refusal :=
  finish (vec2 .raw 2 (bitOp (· ^^^ ·)) v a b dl s)

def execVandn (v : Fin 16) (a b : VSrc) (dl : Fin 8) (s : State) : Host.Outcome State Fault Refusal :=
  finish (vec2 .raw 2 (bitOp fun x y => x &&& ~~~y) v a b dl s)

def execVshl (v : Fin 16) (a b : VSrc) (dl : Fin 8) (s : State) : Host.Outcome State Fault Refusal :=
  finish (vec2 .raw 2 (bitOp shlLane) v a b dl s)

def execVshr (v : Fin 16) (a b : VSrc) (dl : Fin 8) (s : State) : Host.Outcome State Fault Refusal :=
  finish (vec2 .raw 2 (bitOp shrLane) v a b dl s)

def execVsar (v : Fin 16) (a b : VSrc) (dl : Fin 8) (s : State) : Host.Outcome State Fault Refusal :=
  finish (vec2 .raw 2 (bitOp sarLane) v a b dl s)

def execVmov (v : Fin 16) (a : VSrc) (dl : Fin 8) (s : State) : Host.Outcome State Fault Refusal :=
  finish (vec1 .raw 2 (fun x => (x, 0)) v a dl s)

/-! ## Comparison and selection (R181 to R183) -/

/-- The comparison of two lanes, with NV for a signalling NaN, and for a quiet one in the ordered comparisons (R181). -/
def cmpLane (c : VCond) (f : Fmt) (x y : Lane) : Bool × Fl :=
  let a := decLane f x
  let b := decLane f y
  let nan := a.isNan || b.isNan
  let o := Exact.cmp a b
  let ordered := Fl.when nan Fl.nv
  let quiet := Fl.when (a.isSnan || b.isSnan) Fl.nv
  match c with
  | .eq => (o = some .eq, quiet)
  | .ne => (o ≠ some .eq, quiet)
  | .lt => (o = some .lt, ordered)
  | .le => (o = some .lt || o = some .eq, ordered)
  | .gt => (o = some .gt, ordered)
  | .ge => (o = some .gt || o = some .eq, ordered)
  | .un => (nan, quiet)

/-- The mask of a list of lane truths, lane 0 in bit 0. -/
def maskNat : List Bool → Nat
  | [] => 0
  | b :: l => (if b then 1 else 0) + 2 * maskNat l
def maskOf (l : List Bool) : BitVec 64 := BitVec.ofNat 64 (maskNat l)

def execVcmp (m : Fin 8) (a b : VSrc) (c : VCond) (t : CmpTy) (dl : Fin 8) (s : State) : Host.Outcome State Fault Refusal :=
  finish do
    let n := s.me.start dl
    let x ← srcV t.fmt n s a
    let y ← srcV t.fmt n s b
    let r := List.zipWith (cmpLane c t.fmt) x.toList y.toList
    .ok (doneM m n 2 (maskOf (r.map Prod.fst), r.foldl (fun f p => f ||| p.2) 0) s)

/-- The lanes of a where the mask bit is 1, of b elsewhere (R182). -/
def selLanes (k : BitVec 64) (a b : List Lane) : List Lane :=
  List.zipWith (fun p j => if k.getLsbD j then p.1 else p.2) (List.zip a b) (List.range 64)

def execVsel (v : Fin 16) (m : Fin 4) (a b : VSrc) (dl : Fin 8) (s : State) : Host.Outcome State Fault Refusal :=
  finish do
    let n := s.me.start dl
    let k ← readM n (Fin.castLE (by omega) m) s
    let x ← srcV .raw n s a
    let y ← srcV .raw n s b
    .ok (doneV v n 2 (lanesOf (selLanes k x.toList y.toList), 0) s)

/-! ## Permutation and lane access (R188, R189) -/

/-- The index that lane 0 of a source gives, bits [5:0] (R188, R189). -/
def laneIndex (y : Vector Lane 64) : Nat := (laneAt y 0).toNat % 64

def execVperm (v : Fin 16) (a b : VSrc) (dl : Fin 8) (s : State) : Host.Outcome State Fault Refusal :=
  finish do
    let n := s.me.start dl
    let x ← srcV .raw n s a
    let y ← srcV .raw n s b
    .ok (doneV v n 2 (lanesOf (y.toList.map fun j => laneAt x j.toNat), 0) s)

def execVbcast (v : Fin 16) (a b : VSrc) (dl : Fin 8) (s : State) : Host.Outcome State Fault Refusal :=
  finish do
    let n := s.me.start dl
    let x ← srcV .raw n s a
    let y ← srcV .raw n s b
    .ok (doneV v n 2 (splat (laneAt x (laneIndex y)), 0) s)

/-- Lane i + n of slot 1 where it exists, else 0 (R188). -/
def slideLane (x : Vector Lane 64) (n : Int) (i : Nat) : Lane :=
  if 0 ≤ (i : Int) + n ∧ (i : Int) + n ≤ 63 then laneAt x ((i : Int) + n).toNat else 0

def execVslide (v : Fin 16) (a b : VSrc) (dl : Fin 8) (s : State) : Host.Outcome State Fault Refusal :=
  finish do
    let n := s.me.start dl
    let x ← srcV .raw n s a
    let y ← srcV .raw n s b
    .ok (doneV v n 2 (lanesOf ((List.range 64).map (slideLane x (laneAt y 0).toInt)), 0) s)

def execViota (v : Fin 16) (a : VSrc) (dl : Fin 8) (s : State) : Host.Outcome State Fault Refusal :=
  finish do
    let n := s.me.start dl
    let x ← srcV .raw n s a
    .ok (doneV v n 2 (lanesOf (List.zipWith (fun y j => y + BitVec.ofNat 32 j) x.toList (List.range 64)), 0) s)

def execVlut (v : Fin 16) (a : VSrc) (dl : Fin 8) (s : State) : Host.Outcome State Fault Refusal :=
  finish (vec1 .raw 2 (fun x => (s.kword (x.toNat % 256), 0)) v a dl s)

def execVext (d : Fin 16) (a b : VSrc) (dl : Fin 8) (s : State) : Host.Outcome State Fault Refusal :=
  finish do
    let n := s.me.start dl
    let x ← srcV .raw n s a
    let y ← srcV .raw n s b
    .ok ((s.started n).ret (low32 d) ((laneAt x (laneIndex y)).signExtend 64))

/-- A source of VINS, read under the interlock of R55 (R175). -/
def srcInterlocked (s : State) : VSrc → Res (Vector Lane 64)
  | .v r => readInterlocked r s
  | .s r => .ok (splat ((s.reg (low32 r)).truncate 32))
  | .k i => .ok (splat (s.kword i.val))
  | .lit x => .ok (splat (litLane .raw x))

def execVins (v : Fin 16) (a b : VSrc) (s : State) : Host.Outcome State Fault Refusal :=
  finish do
    let x ← srcInterlocked s a
    let y ← srcInterlocked s b
    let o ← readInterlocked v s
    .ok ((s.putV v (lanesOf (o.toList.set (laneIndex y) (laneAt x 0)))).advance 4)

/-! ## Reductions and scans (R185, R186) -/

/-- The operations of VRED and VSCAN. -/
inductive RedFn where
  | add | min | max
  deriving DecidableEq, Repr

/-- One application of a reduction's operation, rounding once (R185). -/
def redOp (f : RedFn) (t : CmpTy) (x y : Lane) : Lane × Fl :=
  match t, f with
  | .f32, .add => fltOp .f32 Exact.add x y
  | .f32, .min => fltOp .f32 Exact.fmin x y
  | .f32, .max => fltOp .f32 Exact.fmax x y
  | .i32, .add => intOp .i32 (· + ·) x y
  | .i32, .min => intOp .i32 Min.min x y
  | .i32, .max => intOp .i32 Max.max x y
  | .n32, .add => intOp .n32 (· + ·) x y
  | .n32, .min => intOp .n32 Min.min x y
  | .n32, .max => intOp .n32 Max.max x y

/-- One level of Tree: neighbours are combined in pairs (R185). -/
def treeLevel (op : Lane → Lane → Lane × Fl) : List Lane → List Lane × Fl
  | x :: y :: l =>
    let r := op x y
    let t := treeLevel op l
    (r.1 :: t.1, r.2 ||| t.2)
  | l => (l, 0)

/-- Tree(x, op) of R185, with the union of the flags. -/
def tree (op : Lane → Lane → Lane × Fl) : Nat → List Lane × Fl → List Lane × Fl
  | 0, r => r
  | n + 1, r =>
    let t := treeLevel op r.1
    tree op n (t.1, r.2 ||| t.2)

/-- One step of VSCAN at a distance (R186). -/
def scanStep (op : Lane → Lane → Lane × Fl) (dist : Nat) (r : List Lane × Fl) : List Lane × Fl :=
  let l := List.zipWith op r.1 (r.1.drop dist)
  (r.1.take dist ++ l.map Prod.fst, l.foldl (fun f p => f ||| p.2) r.2)

/-- The inclusive prefixes of R186. -/
def scan (op : Lane → Lane → Lane × Fl) (l : List Lane) : List Lane × Fl :=
  [1, 2, 4, 8, 16, 32].foldl (fun r d => scanStep op d r) (l, 0)

def vred (f : RedFn) (v : Fin 16) (a : VSrc) (t : CmpTy) (dl : Fin 8) (s : State) : Res State := do
  let n := s.me.start dl
  let x ← srcV t.fmt n s a
  let r := tree (redOp f t) 6 (x.toList, 0)
  .ok (doneV v n 6 (splat (r.1.headD 0), r.2) s)

def vscan (f : RedFn) (v : Fin 16) (a : VSrc) (t : CmpTy) (dl : Fin 8) (s : State) : Res State := do
  let n := s.me.start dl
  let x ← srcV t.fmt n s a
  let r := scan (redOp f t) x.toList
  .ok (doneV v n 6 (lanesOf (r.1.map fun y => (encLane t.fmt (decLane t.fmt y)).1), r.2) s)

def execVredAdd (v : Fin 16) (a : VSrc) (t : CmpTy) (dl : Fin 8) (s : State) : Host.Outcome State Fault Refusal :=
  finish (vred .add v a t dl s)

def execVredMin (v : Fin 16) (a : VSrc) (t : CmpTy) (dl : Fin 8) (s : State) : Host.Outcome State Fault Refusal :=
  finish (vred .min v a t dl s)

def execVredMax (v : Fin 16) (a : VSrc) (t : CmpTy) (dl : Fin 8) (s : State) : Host.Outcome State Fault Refusal :=
  finish (vred .max v a t dl s)

def execVscanAdd (v : Fin 16) (a : VSrc) (t : CmpTy) (dl : Fin 8) (s : State) : Host.Outcome State Fault Refusal :=
  finish (vscan .add v a t dl s)

def execVscanMin (v : Fin 16) (a : VSrc) (t : CmpTy) (dl : Fin 8) (s : State) : Host.Outcome State Fault Refusal :=
  finish (vscan .min v a t dl s)

def execVscanMax (v : Fin 16) (a : VSrc) (t : CmpTy) (dl : Fin 8) (s : State) : Host.Outcome State Fault Refusal :=
  finish (vscan .max v a t dl s)

/-! ## Dot products and conversions (R184, R187) -/

/-- Byte j of a lane as an element of VDOT4 (R187). -/
def dotByte (t : DotTy) (x : Lane) (j : Nat) : Int :=
  match t with
  | .i8 => (BitVec.ofNat 8 (x.toNat / 2 ^ (8 * j))).toInt
  | .n8 => (BitVec.ofNat 8 (x.toNat / 2 ^ (8 * j))).toNat

/-- A VDOT4 literal gives each of the four bytes its value (R187). -/
def dotSrc (n : Nat) (s : State) : VSrc → Res (Vector Lane 64)
  | .lit x => .ok (splat (BitVec.ofNat 32 ((x.signExtend 8).toNat * 0x01010101)))
  | y => srcV .raw n s y

/-- The wrapped sum of c and the four products (R187). -/
def dotLane (t : DotTy) (x y c : Lane) : Lane × Fl :=
  (BitVec.ofInt 32 ((c.toNat : Int) + ([0, 1, 2, 3].map fun j => dotByte t x j * dotByte t y j).sum), 0)

def execVdot4 (v : Fin 16) (a b : VSrc) (t : DotTy) (dl : Fin 8) (s : State) : Host.Outcome State Fault Refusal :=
  finish do
    let n := s.me.start dl
    let x ← dotSrc n s a
    let y ← dotSrc n s b
    let c ← readV n v s
    .ok (doneV v n 4 (lift3 (dotLane t) x y c) s)

def execVcvt (v : Fin 16) (a : VSrc) (src dst : VFmt) (dl : Fin 8) (s : State) : Host.Outcome State Fault Refusal :=
  finish (vec1 src.fmt 3 (fun x => encLane dst.fmt (decLane src.fmt x)) v a dl s)

/-! ## Masks (R190) -/

/-- A two-source mask operation. -/
def mask2 (f : BitVec 64 → BitVec 64 → BitVec 64) (m a b : Fin 8) (dl : Fin 8) (s : State) : Res State := do
  let n := s.me.start dl
  let x ← readM n a s
  let y ← readM n b s
  .ok (doneM m n 2 (f x y, 0) s)

def execMand (m a b : Fin 8) (dl : Fin 8) (s : State) : Host.Outcome State Fault Refusal := finish (mask2 (· &&& ·) m a b dl s)

def execMor (m a b : Fin 8) (dl : Fin 8) (s : State) : Host.Outcome State Fault Refusal := finish (mask2 (· ||| ·) m a b dl s)

def execMxor (m a b : Fin 8) (dl : Fin 8) (s : State) : Host.Outcome State Fault Refusal := finish (mask2 (· ^^^ ·) m a b dl s)

def execMnot (m a : Fin 8) (dl : Fin 8) (s : State) : Host.Outcome State Fault Refusal :=
  finish do
    let n := s.me.start dl
    let x ← readM n a s
    .ok (doneM m n 2 (~~~x, 0) s)

/-- The number of set bits of a mask. -/
def setBits (v : Nat) : Nat → Nat
  | 0 => 0
  | n + 1 => v % 2 + setBits (v / 2) n

/-- The index of the lowest set bit, or 64. -/
def lowestSet (v : Nat) : Nat → Nat → Nat
  | 0, _ => 64
  | n + 1, i => if v % 2 = 1 then i else lowestSet (v / 2) n (i + 1)

def execMpop (d : Fin 16) (a : Fin 8) (dl : Fin 8) (s : State) : Host.Outcome State Fault Refusal :=
  finish do
    let n := s.me.start dl
    let x ← readM n a s
    .ok ((s.started n).ret (low32 d) (BitVec.ofNat 64 (setBits x.toNat 64)))

def execMfirst (d : Fin 16) (a : Fin 8) (dl : Fin 8) (s : State) : Host.Outcome State Fault Refusal :=
  finish do
    let n := s.me.start dl
    let x ← readM n a s
    .ok ((s.started n).ret (low32 d) (BitVec.ofNat 64 (lowestSet x.toNat 64 0)))

/-- The 64-bit value of an MSET source (R190); kind 00 is reserved (R110) and the decoder never gives it. -/
def msetValue (s : State) : VSrc → BitVec 64
  | .v _ => 0
  | .s r => s.reg (low32 r)
  | .k i => (s.kword i.val).signExtend 64
  | .lit x => x.signExtend 64

def execMset (m : Fin 8) (a : VSrc) (dl : Fin 8) (s : State) : Host.Outcome State Fault Refusal :=
  let n := s.me.start dl
  .next (doneM m n 2 (msetValue s a, 0) s)

end Sys2Proof.Machine
end

