-- ==== Sys2Proof/Machine/Burgee.lean ====
section
/-! DEFINITION. Burgee arrays and custom opcodes (chapter 10): graph images, slots and the custom-number map, CX and the
configuration instructions. -/

namespace Sys2Proof.Machine

/-! ## Node operations (R215) -/

/-- How many sources an operation names; none for a reserved one. -/
def nodeArity (op : Nat) : Option Nat :=
  if op = 0x10 ∨ op = 0x16 then some 3
  else if op = 0x01 ∨ (0x0D ≤ op ∧ op ≤ 0x0F) ∨ op = 0x12 ∨ op = 0x13 ∨ op = 0x19 ∨ op = 0x1A then some 1
  else if 0x02 ≤ op ∧ op ≤ 0x18 then some 2
  else none

/-- The cell latency of an operation. -/
def nodeLatency (op : Nat) : Nat :=
  if op = 0x14 ∨ op = 0x15 then 3 else if op = 0x16 then 4 else if op = 0x19 ∨ op = 0x1A then 2 else 1

/-- The immediate is one the operation allows: IMM[4:0] of a shift, a condition of cmp, any of addi, else zero. -/
def immOk (op imm : Nat) : Bool :=
  if 0x0D ≤ op ∧ op ≤ 0x0F then decide (imm < 32)
  else if op = 0x11 then decide (imm < 6)
  else if op = 0x13 then true
  else decide (imm = 0)

/-- A truth as a lane. -/
def laneBit (b : Bool) : Lane := if b then 1 else 0

/-- The comparison of a cmp node. -/
def nodeCmp (c : Nat) (a b : Lane) : Bool :=
  match c with
  | 0 => a = b
  | 1 => a ≠ b
  | 2 => a.toInt < b.toInt
  | 3 => a.toNat < b.toNat
  | 4 => b.toInt ≤ a.toInt
  | _ => b.toNat ≤ a.toNat

/-- The value of a node, with the flags of the floating-point operations (R215). -/
def nodeOp (lut : List Lane) (op imm : Nat) (a b c : Lane) : Lane × Fl :=
  match op with
  | 0x01 => (a, 0)
  | 0x02 => (a + b, 0)
  | 0x03 => (a - b, 0)
  | 0x04 => (a * b, 0)
  | 0x05 => (if a.toInt ≤ b.toInt then a else b, 0)
  | 0x06 => (if b.toInt ≤ a.toInt then a else b, 0)
  | 0x07 => (if a.toNat ≤ b.toNat then a else b, 0)
  | 0x08 => (if b.toNat ≤ a.toNat then a else b, 0)
  | 0x09 => (a &&& b, 0)
  | 0x0A => (a ||| b, 0)
  | 0x0B => (a ^^^ b, 0)
  | 0x0C => (a &&& ~~~b, 0)
  | 0x0D => (a <<< (imm % 32), 0)
  | 0x0E => (a >>> (imm % 32), 0)
  | 0x0F => (a.sshiftRight (imm % 32), 0)
  | 0x10 => (if a ≠ 0 then b else c, 0)
  | 0x11 => (laneBit (nodeCmp (imm % 8) a b), 0)
  | 0x12 => (lut.getD (a.toNat % 64) 0, 0)
  | 0x13 => (a + (BitVec.ofNat 8 imm).signExtend 32, 0)
  | 0x14 => fltOp .f32 Exact.add a b
  | 0x15 => fltOp .f32 Exact.mul a b
  | 0x16 => fmaOp .f32 false false a b c
  | 0x17 => fltOp .f32 Exact.fmin a b
  | 0x18 => fltOp .f32 Exact.fmax a b
  | 0x19 => encLane .f32 (decLane .i32 a)
  | 0x1A => encLane .i32 (decLane .f32 a)
  | _ => (0, 0)

/-- The value of a selector in one lane (R214, R222). -/
def selValue (g : Graph) (vals : List Lane) (lane : Nat) (a b c : Lane) (sel : Nat) : Lane :=
  if sel < 0x18 then vals.getD sel 0
  else if sel = 0x18 then a
  else if sel = 0x19 then b
  else if sel = 0x1A then c
  else if sel = 0x1C then BitVec.ofNat 32 lane
  else if 0x20 ≤ sel ∧ sel < 0x28 then g.q.getD (sel - 0x20) 0
  else 0

/-- The node values of one lane, in order, with their flags. -/
def laneNodes (g : Graph) (lane : Nat) (a b c : Lane) : List GNode → List Lane × Fl → List Lane × Fl
  | [], r => r
  | n :: l, (vals, f) =>
    let v := selValue g vals lane a b c
    let r := nodeOp g.lut n.op n.imm (v n.a) (v n.b) (v n.c)
    laneNodes g lane a b c l (vals ++ [r.1], f ||| r.2)

/-- The output lane of a graph (R222). -/
def laneOut (g : Graph) (lane : Nat) (a b c : Lane) : Lane × Fl :=
  let r := laneNodes g lane a b c g.nodes ([], 0)
  (r.1.getD g.out 0, r.2)

/-- A node of the graph names a selector as a source. -/
def Graph.uses (g : Graph) (sel : Nat) : Bool :=
  g.nodes.any fun n =>
    let k := (nodeArity n.op).getD 0
    (decide (0 < k) && decide (n.a = sel)) || (decide (1 < k) && decide (n.b = sel)) || (decide (2 < k) && decide (n.c = sel))

/-! ## Images (R216 to R219, R226) -/

/-- The number of n bytes of an image. -/
def imgNum (b : List Byte) (off n : Nat) : Nat := leNat ((b.drop off).take n)

/-- Node j of an image. -/
def imgNode (b : List Byte) (j : Nat) : GNode :=
  let w := imgNum b (40 + 4 * j) 4
  ⟨w / 2 ^ 26 % 64, w / 2 ^ 20 % 64, w / 2 ^ 14 % 64, w / 2 ^ 8 % 64, w % 256⟩

/-- The graph that an image describes. -/
def imgGraph (b : List Byte) (va : Word) : Graph :=
  let h := imgNum b 0 8
  ⟨h / 2 ^ 32, h / 2 ^ 24 % 32, h / 2 ^ 16 % 32, h / 2 ^ 12 % 4, decide (h / 2 ^ 11 % 2 = 1),
    (List.range (h % 32)).map (imgNode b), (List.range 8).map fun j => BitVec.ofNat 32 (imgNum b (8 + 4 * j) 4),
    (List.range 64).map fun j => BitVec.ofNat 32 (imgNum b (256 + 4 * j) 4), va⟩

/-- The lowest byte of a field of a word at an offset that is not zero, where some bit of it is. -/
def nonzeroAt (w lo n off : Nat) : List Nat :=
  let v := w / 2 ^ lo % 2 ^ n
  if v = 0 then [] else [off + (lo + trailing v n) / 8]

/-- A selector a node may name (R214, R216). -/
def selOk (j nops sel : Nat) : Bool :=
  decide (sel < 0x18 ∧ sel < j) || decide (sel = 0x18) || (decide (sel = 0x19) && decide (2 ≤ nops)) ||
    (decide (sel = 0x1A) && decide (3 ≤ nops)) || decide (sel = 0x1B) || decide (sel = 0x1C) ||
    (decide (0x20 ≤ sel) && decide (sel < 0x28))

/-- The failures of a node, by their offsets (R226). An OP that is reserved names no source and no immediate bit, so all of them
must be zero (R215). -/
def nodeFails (b : List Byte) (nops : Nat) (lut : Bool) (j : Nat) : List Nat :=
  let off := 40 + 4 * j
  let w := imgNum b off 4
  let n := imgNode b j
  match nodeArity n.op with
  | none => (off + 3) :: [(20, 6), (14, 6), (8, 6), (0, 8)].flatMap fun p => nonzeroAt w p.1 p.2 off
  | some k =>
    (if selOk j nops n.a then [] else [off + 2]) ++
    (if 1 < k then (if selOk j nops n.b then [] else [off + 1]) else nonzeroAt w 14 6 off) ++
    (if 2 < k then (if selOk j nops n.c then [] else [off + 1]) else nonzeroAt w 8 6 off) ++
    (if immOk n.op n.imm then [] else [off]) ++
    (if n.op = 0x12 ∧ !lut then [off + 3] else [])

/-- The total of cell latencies along the longest chain that ends at each node (R216). -/
def nodeDepths : List GNode → List Nat → List Nat
  | [], d => d
  | n :: l, d =>
    let k := (nodeArity n.op).getD 0
    let at' (c : Bool) (s : Nat) : Nat := if c && decide (s < 0x18) then d.getD s 0 else 0
    let m := max (at' (decide (0 < k)) n.a) (max (at' (decide (1 < k)) n.b) (at' (decide (2 < k)) n.c))
    nodeDepths l (d ++ [if k = 0 then 0 else m + nodeLatency n.op])

/-- The nodes that a node names as sources. -/
def GNode.refs (n : GNode) : List Nat :=
  ([n.a, n.b, n.c].take ((nodeArity n.op).getD 0)).filter (· < 0x18)

/-- The same totals for nodes in any order, by n rounds: chains of n nodes are followed, and one that runs in a circle comes to
more than any latency. -/
def chainDepths (l : List GNode) : Nat → List Nat
  | 0 => []
  | n + 1 =>
    let d := chainDepths l n
    l.map fun x => if (nodeArity x.op).isNone then 0
      else (x.refs.map fun j => d.getD j 0).foldl max 0 + nodeLatency x.op

/-- The minimum latency of a graph (R216), 1 where it has no output node (log 134); an image whose nodes name later ones has its chains
too (R226). -/
def Graph.minLat (g : Graph) : Nat :=
  1 + ((if g.nodes.zipIdx.all fun p => p.1.refs.all (· < p.2) then nodeDepths g.nodes [] else chainDepths g.nodes 32).getD g.out 0)

/-- Every failure of an image of 256 bytes or more, by its offset (R216, R226). -/
def imgFails (b : List Byte) : List Nat :=
  let h := imgNum b 0 8
  let g := imgGraph b 0
  let count := h % 32
  nonzeroAt h 5 6 0 ++ nonzeroAt h 14 2 0 ++ nonzeroAt h 21 3 0 ++ nonzeroAt h 29 3 0 ++
  (if 1 ≤ count ∧ count ≤ 24 then [] else [0]) ++
  (if g.nops = 0 then [1] else []) ++
  (if g.out < count then [] else [3]) ++
  (if g.lat < 2 ∨ g.lat < g.minLat then [2] else []) ++
  ((List.range 24).flatMap fun j =>
    if j < count then nodeFails b g.nops g.hasLut j else nonzeroAt (imgNum b (40 + 4 * j) 4) 0 32 (40 + 4 * j)) ++
  ((List.range 120).filter fun j => decide (b.getD (136 + j) 0 ≠ 0)).map (136 + ·)

/-- The bytes of the image at an address (R217, R226): two accesses, each with the class and core of its own first byte
(log 89), whose trap gives the start of the access as ADDR (log 133). -/
def readImage (va : Word) (s : State) : Res (List Byte × State) := do
  let (b, s1) ← loadBytes va 256 s
  if imgNum b 0 8 / 2 ^ 11 % 2 = 1 then
    let (c, s2) ← loadBytes (va + 256) 256 s1
    .ok (b ++ c, s2)
  else .ok (b, s1)

/-! ## Slots (R220, R221) -/

/-- The slot that a custom number maps to. -/
def State.slotOf (s : State) (n : Nat) : Option (Fin 8) :=
  (List.finRange 8).find? fun j => match s.core.slots[j] with
    | some c => c.number = n
    | none => false

/-- The graph of a custom number. -/
def State.graphOf (s : State) (n : Nat) : Option Graph :=
  (s.slotOf n).bind fun j => (s.core.slots[j]).map CSlot.graph

/-- The lowest free slot. -/
def State.freeSlot (s : State) : Option (Fin 8) := (List.finRange 8).find? fun j => s.core.slots[j].isNone

/-- The load order of a slot. -/
def State.slotOrder (s : State) (j : Fin 8) : Nat :=
  match s.core.slots[j] with
  | some c => c.order
  | none => 0

/-- The slot with the oldest load order. -/
def State.oldestSlot (s : State) : Fin 8 :=
  (List.finRange 8).foldl (fun a j => if s.slotOrder j < s.slotOrder a then j else a) 0

/-- A graph loaded for a custom number (R221). -/
def State.loadGraph (s : State) (n : Nat) (g : Graph) : State :=
  let j := ((s.slotOf n) <|> s.freeSlot).getD s.oldestSlot
  { s with core := { s.core with
    slots := s.core.slots.set j (some ⟨n, s.core.loadOrder, g⟩)
    loadOrder := s.core.loadOrder + 1 } }

/-! ## The instructions (R222 to R227) -/

/-- A source that the graph uses, read under R54; a source it does not use is not read (R223). -/
def cxSrc (used : Bool) (n : Nat) (x : VSrc) (s : State) : Res (Vector Lane 64) :=
  if used then srcV .raw n s x else .ok (splat 0)

/-- The third source names v<x4[3:0]> (R222). -/
def cxThird (s : State) : VSrc := .v ⟨bits (s.xreg 4) 0 4, by unfold bits; omega⟩

/-- The lanes of a CX. -/
def cxLanes (g : Graph) (a b c : Vector Lane 64) : Vector Lane 64 × Fl :=
  gather ((List.range 64).map fun i => laneOut g i (laneAt a i) (laneAt b i) (laneAt c i))

def execCx (n : Fin 64) (v : Fin 16) (a b : VSrc) (dl : Fin 8) (s : State) : Host.Outcome State Fault Refusal :=
  finish (match s.graphOf n.val with
    | none => .error (.trap 0x13 0 (BitVec.ofNat 64 n.val) s)
    | some g => do
      let st := s.me.start dl
      let x ← cxSrc (g.uses 0x18) st a s
      let y ← cxSrc (decide (2 ≤ g.nops) && g.uses 0x19) st b s
      let z ← cxSrc (decide (g.nops = 3) && g.uses 0x1A) st (cxThird s) s
      .ok (doneV v st g.lat (cxLanes g x y z) s))

def execCxload (n : Fin 64) (a : Fin 32) (s : State) : Host.Outcome State Fault Refusal :=
  let va := s.reg a
  finish (
    if va.toNat % 64 ≠ 0 then trapAt 0x03 va s
    else match classify s va with
      | .protect => trapAt 0x03 va s
      | .gap => trapAt 0x03 va s
      | .event => trapAt 0x03 va s
      | _ => do
        let (b, s1) ← readImage va s
        match (imgFails b).min? with
        | some o => trapAt 0x01 (va + BitVec.ofNat 64 o) s1
        | none => .ok ((s1.loadGraph n.val (imgGraph b va)).advance 4))

def execCxevict (n : Fin 64) (s : State) : Host.Outcome State Fault Refusal :=
  match s.slotOf n.val with
  | some j => .next ({ s with core := { s.core with slots := s.core.slots.set j none } }.advance 4)
  | none => .next (s.advance 4)

/-- The map record of CXQRY (R227). -/
def mapRecord (j : Fin 8) (g : Graph) : Word :=
  BitVec.ofNat 64 (2 ^ 63 + j.val * 2 ^ 56 + g.lat % 32 * 2 ^ 48 + g.nops % 4 * 2 ^ 44 + g.nodes.length % 32 * 2 ^ 32 +
    g.gid % 2 ^ 32)

def execCxqry (d : Fin 32) (n : Fin 64) (s : State) : Host.Outcome State Fault Refusal :=
  .next (s.ret d (match s.slotOf n.val, s.graphOf n.val with
    | some j, some g => mapRecord j g
    | _, _ => 0))

def execCxldr (a : Fin 32) (s : State) : Host.Outcome State Fault Refusal :=
  .next ({ s with core := { s.core with cxLdr := setBit (s.reg a) 0 false } }.advance 4)

end Sys2Proof.Machine
end

