-- ==== Sys2Proof/Machine/Object.lean ====
section
/-! DEFINITION. BLO objects in paged memory (R364 to R366): the header, the sections, the kernel table and the plans, read
through a context's page table at their points of coherence. -/

namespace Sys2Proof.Machine

/-! ## Reading a context's memory without a thread -/

/-- The key of a virtual address of a context, by a walk; none on no page, and none beyond the end of HBM (R16). -/
def State.vKey (s : State) (c va : Nat) : Option Nat :=
  match s.walk c va with
  | .ok e => if e.loc = 0 ∧ hbmSize ≤ e.pa + (va - e.base) then none else some (e.loc' va).key
  | .error _ => none

/-- n bytes at a virtual address of a context; a byte on no page reads as zero. -/
def State.vBytes (s : State) (c va n : Nat) : List Byte :=
  (List.range n).map fun j => match s.vKey c (va + j) with
    | some k => s.byte k
    | none => 0

/-- The little-endian number of n bytes at a virtual address. -/
def State.vNum (s : State) (c va n : Nat) : Nat := leNat (s.vBytes c va n)

/-- Every page of a range is present, with a property of its entry. -/
def State.vAll (s : State) (c va n : Nat) (p : TlbEntry → Bool) : Bool :=
  n = 0 || (List.range ((va % 65536 + n - 1) / 65536 + 1)).all fun j =>
    match s.walk c (va / 65536 * 65536 + j * 65536) with
    | .ok e => p e
    | .error _ => false

/-- The address class of a paged virtual address. -/
def pagedVa (va : Nat) : Bool := decide (0x1000000 ≤ va) && decide (va < 0x00F0000000000000)

/-! ## Header and sections (R364, R365) -/

/-- An object of a context by the virtual address of its image. -/
structure Obj where
  ctx : Nat
  va : Nat
  deriving DecidableEq, Repr

/-- n bytes at an offset of the image. -/
def State.objNum (s : State) (o : Obj) (off n : Nat) : Nat := s.vNum o.ctx (o.va + off) n

def State.nsect (s : State) (o : Obj) : Nat := s.objNum o 24 2
def State.nkern (s : State) (o : Obj) : Nat := s.objNum o 26 2
def State.sectOff (s : State) (o : Obj) : Nat := s.objNum o 32 8
def State.kernOff (s : State) (o : Obj) : Nat := s.objNum o 40 8
def State.sigOff (s : State) (o : Obj) : Nat := s.objNum o 48 8

/-- A section table entry: type, ADDR, OFF and SIZE. -/
structure Section' where
  type : Nat
  addr : Nat
  off : Nat
  size : Nat
  deriving DecidableEq, Repr

def State.sect (s : State) (o : Obj) (i : Nat) : Section' :=
  let e := s.sectOff o + 32 * i
  ⟨s.objNum o e 2, s.objNum o (e + 8) 8, s.objNum o (e + 16) 8, s.objNum o (e + 24) 8⟩

def State.sects (s : State) (o : Obj) : List Section' := (List.range (s.nsect o)).map (s.sect o)

/-- The first section of a type. -/
def State.sectOf (s : State) (o : Obj) (t : Nat) : Option Section' := (s.sects o).find? (·.type = t)

/-- A kernel table entry. -/
structure Kernel where
  loader : Nat
  entry : Nat
  plan : Nat
  hoist : Nat
  const : Nat
  dataCount : Nat
  dataFirst : Nat
  deriving DecidableEq, Repr

def State.kernel (s : State) (o : Obj) (i : Nat) : Kernel :=
  let e := s.kernOff o + 32 * i
  ⟨s.objNum o (e + 4) 4, s.objNum o e 4, s.objNum o (e + 12) 2, s.objNum o (e + 10) 2, s.objNum o (e + 8) 2,
    s.objNum o (e + 18) 2, s.objNum o (e + 16) 2⟩

/-- A section that a kernel entry names; 0xFFFF names none. -/
def State.sectAt (s : State) (o : Obj) (i : Nat) : Option Section' :=
  if i = 0xFFFF ∨ s.nsect o ≤ i then none else some (s.sect o i)

/-! ## Pool lines (R367) -/

/-- The object a launch runs. -/
def Launch.obj (l : Launch) : Obj := ⟨l.ctx, l.packet[2].toNat⟩

/-- An address lies in a pool line of an object's CODE section. -/
def State.poolIn (s : State) (o : Obj) (va : Nat) : Bool :=
  match s.sectOf o 1, s.sectOf o 2 with
  | some code, some map =>
    let first := o.va + code.off
    let line := (va - first) / 64
    decide (first ≤ va) && decide (va < first + code.size) && decide (line / 8 < map.size) &&
      decide (s.objNum o (map.off + line / 8) 1 / 2 ^ (line % 8) % 2 = 1)
  | _, _ => false

/-- The objects whose code the running context may execute: those that a queue of it references (R362), and the launch's. -/
def State.codeObjects (s : State) : List Obj :=
  let held := (s.queues.filter fun p => decide (p.1 / 64 = s.ctxNo)).flatMap fun p => p.2.refs.map Prod.fst
  ((s.myLaunch.toList.map fun l => l.obj.va) ++ held).eraseDups.map fun va => ⟨s.ctxNo, va⟩

/-- A parcel's address lies in a pool line of a loaded object. -/
def State.poolLine (s : State) (va : Nat) : Bool := s.codeObjects.any fun o => s.poolIn o va

end Sys2Proof.Machine
end

