-- ==== Sys2Proof/Machine/Transfer.lean ====
section
/-! DEFINITION. Memory as copies, sequencers, tile-task records and stream controllers reach it (R288, R298, R302, R312,
R396): translation without a thread, page waits with a record, bytes at their points of coherence. -/

namespace Sys2Proof.Machine

/-! ## Sites -/

/-- Why an engine access cannot be made: a page wait with its reason (0 where a shoot-down blocks it, or the clock of its bank is
stopped, R407), a fault with its cause, a poisoned word with its key, or an HBM address that does not exist. -/
inductive Stall where
  | page (reason : Nat) (va : Word) (write : Bool)
  | fault (cause : Nat) (va : Word)
  | bad (va : Word) (key : Nat)
  | beyond
  deriving DecidableEq, Repr

/-- The location of one paged byte. -/
def pagedLoc (write : Bool) (va : Word) (s : State) : Except Stall (Loc × State) :=
  let a := va.toNat
  if s.blocked s.ctxNo a write false then .error (.page 0 va write)
  else match s.translate s.ctxNo a false with
    | .error r => .error (.page r va write)
    | .ok (e, s1) =>
      if (write && !e.w) || (!write && !e.r) then .error (.fault 0x03 va)
      else if write && e.wb then .error (.page 3 va write)
      else if e.loc = 0 ∧ hbmSize ≤ e.pa + (a - e.base) then .error .beyond
      else .ok (e.loc' a, s1)

/-- The paged bytes from an address on. -/
def pagedLocs (write : Bool) (va : Word) : Nat → State → Except Stall (List Site × State)
  | 0, s => .ok ([], s)
  | n + 1, s => do
    let (l, s1) ← pagedLoc write va s
    let (r, s2) ← pagedLocs write (va + 1) n s1
    .ok (.loc l :: r, s2)

/-- The sites of n bytes of an engine access; class, core and offset come from its first byte (R140). -/
def engineSites (write : Bool) (va : Word) (n : Nat) (s : State) : Except Stall (List Site × State) :=
  match classify s va with
  | .protect => .error (.fault 0x03 va)
  | .event => .error (.fault 0x03 va)
  | .gap => .ok (List.replicate n (.oor 2), s)
  | .scratch x y off =>
    if s.refuses va x y then .error (.fault 0x03 va)
    else if s.coreStopped s.ctxNo x y then .error (.page 0 va write)
    else .ok ((List.range n).map fun j => s.scratchSite x y (off + j), s)
  | .paged => pagedLocs write va n s

/-! ## Bytes at the point of coherence -/

/-- A byte at its point of coherence; an out-of-range byte reads as zero. -/
def State.siteByte (s : State) : Site → Byte
  | .loc l => s.byte l.key
  | _ => 0

/-- The word that holds a byte is poisoned. -/
def State.siteBad (s : State) : Site → Bool
  | .loc l => s.poisoned l.key
  | _ => false

/-- The key of the first poisoned byte of a run. -/
def State.firstBad (s : State) (l : List Site) : Nat :=
  (l.findSome? fun x => match x with
    | .loc a => if s.poisoned a.key then some a.key else none
    | _ => none).getD coreWord

/-- A byte written at its point of coherence; an out-of-range byte is dropped. -/
def State.putSite (s : State) (b : Byte) : Site → State
  | .loc l => s.setByte l.key b
  | _ => s

def putSites (s : State) : List Site → List Byte → State
  | x :: l, b :: r => putSites (s.putSite b x) l r
  | _, _ => s

/-- The keys of the 64-bit words that lie wholly inside a run of sites. -/
def wholeWords : List Site → List Nat
  | [] => []
  | x :: l => match x with
    | .loc a => if a.key % 8 = 0 ∧ 7 ≤ l.length ∧ (l.take 7).all (fun y => match y with
        | .loc _ => true
        | _ => false) then a.key :: wholeWords l else wholeWords l
    | _ => wholeWords l

/-- Every whole word of a run loses its poison (R147). -/
def cleanRun (s : State) (l : List Site) : State := (wholeWords l).foldl (fun a k => a.setPoison k false) s

/-- Every whole word of a run takes a tag. -/
def tagRun (b : Bool) (s : State) (l : List Site) : State := (wholeWords l).foldl (fun a k => a.setTag k b) s

/-- The first out-of-range byte of a run, as a cause and an address. -/
def firstOor (va : Word) : List Site → Option (Nat × Word)
  | [] => none
  | .oor c :: _ => some (c, va)
  | _ :: l => firstOor (va + 1) l

/-- A byte of each host page that some sites name: the row's access of that page at Kararlink-H (R399). -/
def hostPages (l : List Site) : List Loc :=
  l.foldl (fun a x => match x with
    | .loc (.host p c) => if a.any fun y => decide (y.key / 65536 = (Loc.host p c).key / 65536) then a else a ++ [.host p c]
    | _ => a) []

/-- The payload bytes of a run that cross the two links (R419). -/
def State.linkRun (s : State) (l : List Site) : State :=
  let host := (l.filter fun x => match x with
    | .loc (.host ..) => true
    | _ => false).length
  let peer := (l.filter fun x => match x with
    | .loc (.peer ..) => true
    | _ => false).length
  (s.payload 9 host).payload 10 peer

/-- A row's accesses of counted host pages (R399), and the bytes that cross the links. -/
def State.countPages (s : State) (l : List Site) : State := (hostPages l).foldl State.countHost (s.linkRun l)

/-! ## Page waits (R298, R396) -/

/-- An engine parks with its fault record, with ENGINE set, and FETCH for a sequencer's code; while the queue is full the record is still
to be posted. A block of a shoot-down, reason 0, has none (R398). -/
def postEngine (reason : Nat) (va : Word) (write fetch : Bool) (own : Agent) (pc : Word) (s : State) : EnginePark × State :=
  let q := (s.desc s.ctxNo 4).toNat
  if reason = 0 then (⟨va, write, .none⟩, s)
  else match s.queueRoom q with
    | some slot =>
      let w0 := reason + (if write then 16 else 0) + (if fetch then 32 else 0) + 64 + (if own = .aux then 128 else 0) + s.core.lx.val * 256 +
        s.core.ly.val * 8192
      (⟨va, write, .posted slot⟩, s.postRecord q slot w0 va.toNat pc.toNat 0)
    | none => (⟨va, write, .unposted reason fetch⟩, s)

/-- How a parked access of an engine goes on: software has answered retry or fail, a wait without a record tries again, or it still waits;
a record that is still to be posted is posted once there is room. -/
inductive Answer where
  | retry | fail | wait (p : EnginePark) (s : State)

def parkAnswer (p : EnginePark) (own : Agent) (pc : Word) (s : State) : Answer :=
  match p.record with
  | .none => .retry
  | .unposted r f => let x := postEngine r p.va p.write f own pc s; .wait x.1 x.2
  | .posted slot =>
    let k := (s.desc s.ctxNo 4).toNat + 64 + 32 * slot + 24
    if !s.tag k then .wait p s else if s.word k = 0 then .retry else .fail

/-! ## The L1 beside an engine (R288) -/

/-- The pages of a range that translate: each with its virtual base and the key of its first byte. -/
def pagesOf (va : Word) (n : Nat) (s : State) : List (Nat × Nat) :=
  if n = 0 ∨ classify s va ≠ .paged then []
  else ((List.range ((va.toNat % 65536 + n - 1) / 65536 + 1)).filterMap fun j =>
    let p := va.toNat / 65536 * 65536 + j * 65536
    match s.translate s.ctxNo p false with
    | .ok (e, _) => some (p, (e.loc' p).key)
    | .error _ => none)

/-- A line of the L1 holds a byte of a range. -/
def inRange (pages : List (Nat × Nat)) (va : Word) (n k : Nat) : Bool :=
  pages.any fun p => decide (p.2 ≤ k) && decide (k < p.2 + 65536) && decide (va.toNat < p.1 + (k - p.2) + 64) &&
    decide (p.1 + (k - p.2) < va.toNat + n)

/-- The L1 lines that hold a byte of a range. -/
def linesIn (va : Word) (n : Nat) (s : State) : List Nat :=
  let pages := pagesOf va n s
  ((s.core.l1.map fun p => p.1 / 64 * 64).eraseDups).filter (inRange pages va n)

/-- The dirty L1 bytes of a range are written back; for a destination its lines are dropped too. -/
def flushRange (drop : Bool) (va : Word) (n : Nat) (s : State) : State :=
  (linesIn va n s).foldl (fun a k => if drop then (a.writeBackLine k).dropLine k else a.writeBackLine k) s

end Sys2Proof.Machine
end

