-- ==== Sys2Proof/Machine/Stream.lean ====
section
/-! DEFINITION. Stream controllers, subscriptions and ring slots (R307 to R312). -/

namespace Sys2Proof.Machine

/-! ## Descriptors (R307) -/

def Sub.rows (u : Sub) : Nat := bits u.desc[4] 32 16
def Sub.rowb (u : Sub) : Nat := bits u.desc[4] 0 32
def Sub.tiles (u : Sub) : Nat := bits u.desc[5] 0 32
def Sub.nslot (u : Sub) : Nat := bits u.desc[6] 24 7
def Sub.ring (u : Sub) : Nat := bits u.desc[6] 0 19
/-- SLOTB of R307. -/
def slotBytes (rows rowb : Nat) : Nat := 64 * ((8 + rows * rowb + 63) / 64)
def Sub.slotb (u : Sub) : Nat := slotBytes u.rows u.rowb
/-- The own-core local offset of slot k's header. -/
def Sub.header (u : Sub) (k : Nat) : Nat := u.ring + k * u.slotb
/-- The slot of a tile. -/
def Sub.slotOf (u : Sub) (t : Nat) : Nat := t % u.nslot
/-- The state and tile of slot k. -/
def Sub.slot (u : Sub) (k : Nat) : SlotState × Nat := u.slots.getD k (.empty, 0)
def Sub.setSlot (u : Sub) (k : Nat) (x : SlotState × Nat) : Sub := { u with slots := u.slots.set k x }

/-- The address of row j of tile t from a base (R307). -/
def Sub.rowAddr (u : Sub) (base : Word) (t j : Nat) : Word :=
  base + BitVec.ofNat 64 t * u.desc[2] + BitVec.ofNat 64 j * u.desc[3]

/-- The eight words of a descriptor or record. -/
def eightWords (b : List Byte) : Vector Word 8 := vmk 8 fun j => BitVec.ofNat 64 (leNat ((b.drop (8 * j)).take 8))

/-- A stream address is 0 or a paged HBM address (R307): its page, where it has one, lies in HBM. -/
def streamAddrOk (s : State) (a : Word) : Bool :=
  decide (a = 0) || (decide (classify s a = .paged) && match s.translate s.ctxNo a.toNat false with
    | .ok (e, _) => decide (e.loc = 0)
    | .error _ => true)

/-- The descriptor keeps R307 and names a fill or a write-out (R308). -/
def descOk (s : State) (d : Vector Word 8) : Bool :=
  let rows := bits d[4] 32 16
  let rowb := bits d[4] 0 32
  let nslot := bits d[6] 24 7
  decide (bits d[4] 48 16 = 0) && decide (bits d[5] 32 32 = 0) && decide (bits d[6] 31 33 = 0) &&
    decide (bits d[6] 19 5 = 0) && decide (d[7] = 0) && decide (1 ≤ rows ∧ rows ≤ 4096) &&
    decide (8 ≤ rowb ∧ rowb ≤ 65536 ∧ rowb % 8 = 0) && decide (1 ≤ bits d[5] 0 32) &&
    decide (1 ≤ nslot ∧ nslot ≤ 64) && decide (bits d[6] 0 19 % 64 = 0) && !(decide (d[0] = 0) && decide (d[1] = 0)) &&
    streamAddrOk s d[0] && streamAddrOk s d[1]

/-- The ring lies wholly within the core and the allotment (R308). -/
def ringOk (s : State) (d : Vector Word 8) : Bool :=
  let stop := bits d[6] 0 19 + bits d[6] 24 7 * slotBytes (bits d[4] 32 16) (bits d[4] 0 32)
  decide (stop ≤ 524288) && decide (stop ≤ s.allotment)

/-! ## Slots -/

/-- The key of an own-core local offset. -/
def State.ownKey (s : State) (off : Nat) : Nat := (Loc.scratch s.ctxNo s.core.lx.val s.core.ly.val off).key

/-- The header tag of slot k. -/
def State.setHeader (s : State) (u : Sub) (k : Nat) (b : Bool) : State := s.setTag (s.ownKey (u.header k)) b

/-- Every header tag of a ring is left empty. -/
def State.emptyHeaders (s : State) (u : Sub) : State := (List.range u.nslot).foldl (fun a k => a.setHeader u k false) s

def State.setSub (s : State) (e : Fin 8) (u : Option Sub) : State :=
  { s with core := { s.core with subs := s.core.subs.set e u } }

/-- The entry that an instruction names (R310). -/
def entryOf (v : Word) : Fin 8 := ⟨bits v 0 3, by unfold bits; omega⟩

/-- The free entry of the subscription table that SUB.OPEN takes: the lowest (log 131). -/
def State.freeEntry (s : State) : Option (Fin 8) := (List.finRange 8).find? fun e => s.core.subs[e].isNone

/-- What a full table answers (R304, R308). -/
def noneFree : Word := 0x8000000000000000

/-- A subscription of this core stands at a stream controller. -/
def State.ownStreams (s : State) (c : Fin 32) : Nat :=
  (s.core.subs.toList.filter fun o => match o with
    | some u => decide (u.ctl = c)
    | none => false).length

/-- The base die that holds a subscription's first page, SRC's or DST's when SRC is 0 (R281, R308). A page that is not present
puts the thread in a page wait (log 81). -/
def baseDie (d : Vector Word 8) (s : State) : Res (Fin 8 × State) :=
  let fill := decide (d[0] ≠ 0)
  let va := if fill then d[0] else d[1]
  match s.translate s.ctxNo va.toNat false with
  | .error r => pageWait r ⟨!fill, false, false⟩ va s.pc s
  | .ok (e, s1) => .ok (⟨(e.pa + (va.toNat - e.base)) / 2 ^ 36 % 8, by omega⟩, s1)

/-- A stream controller of a base die with a free subscription; the model takes the lowest (log 81). -/
def State.freeStream (s : State) (die : Fin 8) : Option (Fin 32) :=
  (List.finRange 32).find? fun c => decide (c.val / 4 = die.val) && decide (s.streams[c] + s.ownStreams c < 32)

def subOpen (d a : Fin 32) (s : State) : Res State := do
  let va := s.reg a
  if va.toNat % 64 ≠ 0 then trapAt 0x01 va s
  else
    let (b, s1) ← loadBytes va 64 s
    let w := eightWords b
    if !descOk s1 w then trapAt 0x01 va s1
    else if !ringOk s1 w then trapAt 0x03 va s1
    else
      let (die, s2) ← baseDie w s1
      let s3 ← releaseRes .dev s2
      match s3.freeEntry, s3.freeStream die with
      | some e, some c =>
        let u : Sub := ⟨w, c, (List.range (bits w[6] 24 7)).map fun k => (.empty, k), 0, 0, false, s3.owner, s3.pc, none⟩
        .ok (((s3.setSub e (some u)).emptyHeaders u).ret d (BitVec.ofNat 64 e.val))
      | _, _ => .ok (s3.ret d noneFree)

def execSubOpen (d a : Fin 32) (s : State) : Host.Outcome State Fault Refusal := finish (subOpen d a s)

/-- A subscription is closed: its header tags are left empty and its entry is free (R311). -/
def State.closeSub (s : State) (e : Fin 8) (u : Sub) : State := (s.emptyHeaders u).setSub e none

/-- No slot of a subscription is being written out. -/
def Sub.written (u : Sub) : Bool := u.slots.all fun x => decide (x.1 ≠ .writing)

/-- SUB.CLOSE (R311): filling stops at once, and the entry is freed when no slot is Writing. -/
def execSubClose (a : Fin 32) (s : State) : Host.Outcome State Fault Refusal :=
  let e := entryOf (s.reg a)
  finish (match s.core.subs[e] with
    | none => trapAt 0x03 0 s
    | some u =>
      if u.written then .ok (((s.closeSub e u).acquire .dev).advance 4)
      else parkOn 32 0 0 (s.setSub e (some { u with closing := true })))

/-- SLOT.TAKE (R310). -/
def slotTake (d a : Fin 32) (s : State) : Res State :=
  let e := entryOf (s.reg a)
  match s.core.subs[e] with
  | none => trapAt 0x03 0 s
  | some u =>
    let k := u.slotOf u.take
    if u.take = u.tiles then .ok (s.ret d noneFree)
    else if u.slot k = (.full, u.take) then
      let u1 := { u.setSlot k (.taken, u.take) with take := u.take + 1 }
      .ok (((s.setSub e (some u1)).acquire .dev).ret d (BitVec.ofNat 64 (u.header k)))
    else parkOn 9 0 (BitVec.ofNat 64 e.val) s

def execSlotTake (d a : Fin 32) (s : State) : Host.Outcome State Fault Refusal := finish (blocking s (slotTake d a s))

/-- The slot rule of SLOT.GIVE: an address is the header of the slot that this core takes next to give (R310). -/
def Sub.givable (u : Sub) (va : Word) : Bool :=
  decide (u.give < u.take) && decide (va = BitVec.ofNat 64 (u.header (u.slotOf u.give)))

/-- The slot next to give moves on (R309). -/
def State.giveSlot (s : State) (e : Fin 8) (u : Sub) : State :=
  let k := u.slotOf u.give
  let u1 := { u.setSlot k (if u.desc[1] = 0 then (.empty, u.give + u.nslot) else (.writing, u.give)) with give := u.give + 1 }
  let s1 := s.setSub e (some u1)
  if u.desc[1] = 0 then s1.setHeader u k false else s1

/-- SLOT.GIVE (R310). -/
def slotGive (a b : Fin 32) (s : State) : Res State :=
  let e := entryOf (s.reg a)
  match s.core.subs[e] with
  | none => trapAt 0x03 0 s
  | some u =>
    if !u.givable (s.reg b) then trapAt 0x03 (s.reg b) s
    else do
      let s1 ← releaseRes .dev s
      .ok ((s1.giveSlot e u).advance 4)

def execSlotGive (a b : Fin 32) (s : State) : Host.Outcome State Fault Refusal := finish (slotGive a b s)

/-! ## When a launch stops filling (R239, R311) -/

/-- An engine of a launch that ends has nothing of the launch to finish (R239); a copy that waits for a page does not hold up a launch
that fails (R377). -/
def Engine.settled (e : Engine) (failed : Bool) : Bool :=
  e.queue.all Cmd.handler && (e.running.all Cmd.handler || (failed && e.parked.isSome))

/-- Every access and command that the launch made on this core has been performed. -/
def State.workOver (s : State) (failed : Bool) : Bool :=
  s.core.mat.settled failed && s.core.cpy.settled failed && decide (s.pri.stq = []) && decide (s.aux.stq = []) &&
    !s.core.mseq.running && !s.core.cseq.running

/-- Every slot given has been written out, and what waits for a page does not hold up a launch that fails (R311, R377). -/
def State.slotsWritten (s : State) (failed : Bool) : Bool :=
  s.core.subs.toList.all fun o => o.all fun u => u.written || (failed && u.parked.isSome)

/-- The primary threads of a launch's cores have ended, on all its clusters, with no exchange step under way. -/
def State.programsOver (s : State) (l : Launch) : Bool :=
  decide (l.waits = []) && decide (l.exch = none) && (List.range l.cores).all fun i => l.exited.contains i ||
    (decide (s.core.launch = some l.id) && decide (i = s.launchIndex) && decide (s.pri.run = .ended))

/-- The launch that this core runs has come to its end: what is left is to close its subscriptions, and none fills a slot any more
(R311). -/
def State.closing (s : State) : Bool :=
  s.myLaunch.any fun l => decide (l.phase = .ending) || (s.programsOver l && s.workOver false)

/-! ## The controller (R309, R312) -/

/-- SLOT_FILL_START: an Empty slot whose next tile is left to deliver starts to fill; a SUB.CLOSE that waits and the end of the
launch have stopped all filling (R311), and a save pauses it (R312). -/
def execSlotFillStart (e : Fin 8) (k : Fin 64) (s : State) : Host.Outcome State Fault Refusal :=
  match s.core.subs[e] with
  | some u =>
    if ¬ u.closing ∧ ¬ s.closing ∧ ¬ s.saving ∧ k.val < u.slots.length ∧ (u.slot k.val).1 = .empty ∧ (u.slot k.val).2 < u.tiles then
      .next (s.setSub e (some (u.setSlot k.val (.filling, (u.slot k.val).2))))
    else .next s
  | none => .next s

/-- The bytes of a row, with the poison of each byte's word (R312). -/
def rowBytes (va : Word) (n : Nat) (s : State) : Except Stall (List (Byte × Bool) × State) := do
  let (l, s1) ← pagedLocs false va n s
  .ok (l.map (fun x => (s1.siteByte x, s1.siteBad x)), s1.countPages l)

/-- The rows of a tile from row j on. -/
def tileBytes' (u : Sub) (t : Nat) (n : Nat) (s : State) : Except Stall (List (Byte × Bool) × State) :=
  match n with
  | 0 => .ok ([], s)
  | n + 1 => do
    let (b, s1) ← rowBytes (u.rowAddr u.desc[0] t (u.rows - (n + 1))) u.rowb s
    let (r, s2) ← tileBytes' u t n s1
    .ok (b ++ r, s2)

/-- Bytes with poison stored at an own-core offset that is a multiple of 8. -/
def putPoisoned (s : State) (k : Nat) : List (Byte × Bool) → State
  | [] => s
  | (b, p) :: l =>
    let s1 := s.setByte k b
    let s2 := if k % 8 = 0 then s1.setPoison k p else if p then s1.setPoison k true else s1
    putPoisoned s2 (k + 1) l

/-- A fault of a controller ends the launch; the slot it filled or wrote goes no further. -/
def failSub (e : Fin 8) (u : Sub) (k : Nat) (cause : Nat) (va : Word) (s : State) : State :=
  engineFault cause va u.pc 0 u.owner (s.setSub e (some { u.setSlot k (.empty, (u.slot k).2) with parked := none }))

/-- A controller that meets a page wait parks with a record; a failed permission ends the launch (R298, R312). -/
def stallSub (e : Fin 8) (u : Sub) (k : Nat) (x : Stall) (s : State) : Host.Outcome State Fault Refusal :=
  match x with
  | .page r va w =>
    let (park, s1) := postEngine r va w false u.owner u.pc s
    .next (s1.setSub e (some { u with parked := some park }))
  | .fault c va => .next (failSub e u k c va s)
  | .bad va _ => .next (failSub e u k 0x05 va s)
  | .beyond => .fault .hbmBeyondEnd

/-- A parked controller acts again once software has answered; a failed page ends the launch. -/
def controller (e : Fin 8) (u : Sub) (k : Nat) (act : Sub → State → Host.Outcome State Fault Refusal) (s : State) :
    Host.Outcome State Fault Refusal :=
  match u.parked with
  | none => act u s
  | some p => match parkAnswer p u.owner u.pc s with
    | .wait q t => .next (t.setSub e (some { u with parked := some q }))
    | .fail => .next (failSub e u k 0x03 p.va s)
    | .retry => act { u with parked := none } s

/-- A filled slot becomes Full: its header holds the tile number, with bit 63 for the last (R309). -/
def fillSlot (e : Fin 8) (u : Sub) (k t : Nat) (b : List (Byte × Bool)) (s : State) : State :=
  let h := s.ownKey (u.header k)
  let s1 := putPoisoned s (h + 8) b
  let s2 := s1.setNum h 8 (t + if t + 1 = u.tiles then 2 ^ 63 else 0)
  ((s2.setPoison h false).setTag h true).setSub e (some (u.setSlot k (.full, t)))

/-- SLOT_FILLED: every row of a Filling slot has been written. -/
def execSlotFilled (e : Fin 8) (k : Fin 64) (s : State) : Host.Outcome State Fault Refusal :=
  match s.core.subs[e] with
  | none => .next s
  | some u0 =>
    if (u0.slot k.val).1 ≠ .filling ∨ u0.closing ∨ s.closing then .next s
    else controller e u0 k.val (fun u s =>
      let t := (u.slot k.val).2
      if u.desc[0] = 0 then .next (fillSlot e u k.val t [] s)
      else match tileBytes' u t u.rows s with
        | .ok (b, s1) => .next (fillSlot e u k.val t b s1)
        | .error x => stallSub e u k.val x s) s

/-- The rows of a given slot written to DST, poison and all. -/
def writeRows (u : Sub) (k t : Nat) (n : Nat) (s : State) : Except Stall State :=
  match n with
  | 0 => .ok s
  | n + 1 => do
    let j := u.rows - (n + 1)
    let (l, s0) ← pagedLocs true (u.rowAddr u.desc[1] t j) u.rowb s
    let s1 := s0.countPages l
    let h := s1.ownKey (u.header k) + 8 + j * u.rowb
    let s2 := cleanRun (putSites s1 l (s1.bytes h u.rowb)) l
    let bad := (List.range u.rowb).filter fun i => s1.poisoned (h + i)
    let s3 := bad.foldl (fun a i => match l[i]? with
      | some (.loc x) => a.setPoison x.key true
      | _ => a) s2
    writeRows u k t n s3

/-- SLOT_WRITEOUT_DONE: every row of a Writing slot has been written to DST. -/
def execSlotWriteoutDone (e : Fin 8) (k : Fin 64) (s : State) : Host.Outcome State Fault Refusal :=
  match s.core.subs[e] with
  | none => .next s
  | some u0 =>
    if (u0.slot k.val).1 ≠ .writing then .next s
    else controller e u0 k.val (fun u s =>
      let t := (u.slot k.val).2
      match writeRows u k.val t u.rows s with
      | .ok s1 => .next ((s1.setSub e (some (u.setSlot k.val (.empty, t + u.nslot)))).setHeader u k.val false)
      | .error x => stallSub e u k.val x s) s

end Sys2Proof.Machine
end

