-- ==== Sys2Proof/Machine/Kernel.lean ====
section
/-! DEFINITION. Launches at work (R235 to R261): supersteps, the iteration space and its tiles, the coverage map, the hoist
and the range unit. -/

namespace Sys2Proof.Machine

/-- n divided by d, rounded up. -/
def ceilDiv (n d : Nat) : Nat := (n + d - 1) / d

/-! ## The iteration space (R245, R353) -/

/-- The extents X0 to X3 and grain sizes S0 to S3 of a packet. -/
def extents (p : Vector Word 16) : List Nat := [bits p[5] 0 21, bits p[5] 21 21, bits p[5] 42 21, bits p[6] 0 21]
def grainSizes (p : Vector Word 16) : List Nat := [bits p[6] 21 21, bits p[6] 42 21, bits p[7] 0 21, bits p[7] 21 21]
/-- G0 to G3. -/
def grains (p : Vector Word 16) : List Nat := List.zipWith ceilDiv (extents p) (grainSizes p)
/-- G. -/
def totalGrains (p : Vector Word 16) : Nat := (grains p).foldl (· * ·) 1
/-- The launch has a coverage map. -/
def Launch.hasMap (l : Launch) : Bool := decide (l.packet[9] ≠ 0)

/-! ## Tiles (R246) -/

abbrev Hoist := Vector Word 14

/-- E0 to E3: the tile extents. -/
def Hoist.ext (h : Hoist) : List Nat := [h[1].toNat, h[2].toNat, h[3].toNat, h[4].toNat]
/-- The dimension of level j. -/
def Hoist.ord (h : Hoist) (j : Nat) : Nat := bits h[0] (2 * j) 2
/-- Level j is reversed where level j + 1 is odd. -/
def Hoist.serp (h : Hoist) (j : Nat) : Bool := h[0].getLsbD (8 + j)
def numTiles (p : Vector Word 16) (h : Hoist) : List Nat := List.zipWith ceilDiv (grains p) h.ext
/-- T. -/
def tileCount (p : Vector Word 16) (h : Hoist) : Nat := (numTiles p h).foldl (· * ·) 1

/-- u[0] to u[3] of a tile number. -/
def tileDigits (p : Vector Word 16) (h : Hoist) (t : Nat) : List Nat :=
  let n (j : Nat) : Nat := (numTiles p h).getD (h.ord j) 1
  [t % n 0, t / n 0 % n 1, t / (n 0 * n 1) % n 2, t / (n 0 * n 1 * n 2) % n 3]

/-- w[0] to w[3]. -/
def tileWalk (p : Vector Word 16) (h : Hoist) (t : Nat) : List Nat :=
  let u := tileDigits p h t
  (List.range 4).map fun j =>
    if j < 3 ∧ h.serp j ∧ u.getD (j + 1) 0 % 2 = 1 then (numTiles p h).getD (h.ord j) 1 - 1 - u.getD j 0 else u.getD j 0

/-- TileCoord: the tile's coordinates c[0] to c[3]. -/
def tileCoord (p : Vector Word 16) (h : Hoist) (t : Nat) : List Nat :=
  (List.range 4).map fun d => ((List.range 4).find? fun j => h.ord j = d).elim 0 fun j => (tileWalk p h t).getD j 0

/-- The coordinates of a tile's first grain. -/
def tileOrigin (p : Vector Word 16) (h : Hoist) (t : Nat) : List Nat := List.zipWith (· * ·) (tileCoord p h t) h.ext

/-- The grain of local index i of a tile: its grain index, or none where it does not exist. -/
def tileGrain (p : Vector Word 16) (h : Hoist) (t i : Nat) : Option Nat :=
  let e := h.ext
  let l := [i % e.getD 0 1, i / e.getD 0 1 % e.getD 1 1, i / (e.getD 0 1 * e.getD 1 1) % e.getD 2 1,
    i / (e.getD 0 1 * e.getD 1 1 * e.getD 2 1)]
  let g := List.zipWith (· + ·) (tileOrigin p h t) l
  let n := grains p
  if l.getD 3 0 < e.getD 3 1 ∧ (List.zip g n).all (fun x => decide (x.1 < x.2)) then
    some (g.getD 0 0 + n.getD 0 1 * (g.getD 1 0 + n.getD 1 1 * (g.getD 2 0 + n.getD 2 1 * g.getD 3 0)))
  else none

/-- The grains of a tile that exist, each with its local index. -/
def tileGrains (p : Vector Word 16) (h : Hoist) (t : Nat) : List (Nat × Nat) :=
  (List.range 64).filterMap fun i => (tileGrain p h t i).map fun g => (i, g)

/-! ## Hoists (R250, R251) -/

/-- The hoist of a kernel that names none. -/
def defaultHoist : Hoist := #v[0xE4, 1, 1, 1, 1, 0, 0, 0, 0, 0, 0, 0, 0, 0]

/-- The first failing check of R257, or 0 for a valid hoist. -/
def hoistCode (h : Hoist) : Nat :=
  let e := h.ext
  let mode := bits h[5] 16 2
  let stride := bits h[5] 0 16
  if !([0, 1, 2, 3].all fun d => [0, 1, 2, 3].any fun j => decide (h.ord j = d)) || decide (bits h[0] 11 53 ≠ 0) then 1
  else if !(e.all fun x => decide (1 ≤ x ∧ x ≤ 64)) || decide (64 < e.foldl (· * ·) 1) then 2
  else if mode = 3 ∨ (mode = 1 ∧ stride = 0) ∨ (mode ≠ 1 ∧ stride ≠ 0) ∨ bits h[5] 18 46 ≠ 0 then 3
  else if bits h[6] 32 32 ≠ 0 then 4
  else 0

/-! ## Ranges (R252, R253) -/

/-- The sort key of a launch index for affinity. -/
def affinityKey (w i : Nat) : Nat :=
  let x := i % w
  let y := i / w
  ((y / 2 * 32 + x / 2) * 2 + y % 2) * 2 + x % 2

/-- The rank of a launch index. -/
def Launch.rank (l : Launch) (h : Hoist) (i : Nat) : Nat :=
  if bits h[5] 16 2 = 2 then ((List.range l.cores).filter fun j => decide (affinityKey l.w j < affinityKey l.w i)).length
  else i

/-- n of R252: the positions of one rank. -/
def Launch.share (l : Launch) (h : Hoist) : Nat :=
  let t := tileCount l.packet h
  let s := bits h[5] 0 16
  if bits h[5] 16 2 = 1 then ceilDiv t (l.cores * s) * s else ceilDiv t l.cores

/-- Tile: the tile index at a position. -/
def Launch.tileAt (l : Launch) (h : Hoist) (p : Nat) : Nat :=
  let n := l.share h
  let s := bits h[5] 0 16
  if bits h[5] 16 2 = 1 then p % n / s * l.cores * s + p / n * s + p % n % s else p

/-- The seeded ranges, by rank. -/
def Launch.seed (l : Launch) (h : Hoist) : List (Nat × Nat) :=
  (List.range l.cores).map fun r => (r * l.share h, (r + 1) * l.share h)

/-- A position is not passed over. -/
def Launch.livePos (l : Launch) (p : Nat) : Bool := decide (l.tileAt l.range.hoist p < tileCount l.packet l.range.hoist)

/-- The positions of a range that are not passed over, upwards. -/
def Launch.positions (l : Launch) (r : Nat × Nat) : List Nat :=
  ((List.range (r.2 - r.1)).map (r.1 + ·)).filter l.livePos

/-- Live. -/
def Launch.live (l : Launch) (r : Nat) : Nat := (l.positions (l.range.ranges.getD r (0, 0))).length

/-- The donor of a split: the rank with the largest Live, ties to the lowest launch index. -/
def Launch.donor (l : Launch) : Nat :=
  (List.range l.cores).foldl (fun best i => let r := l.rank l.range.hoist i; if l.live best < l.live r then r else best)
    (l.rank l.range.hoist 0)

def Launch.setRange (l : Launch) (r : Nat) (x : Nat × Nat) : Launch :=
  { l with range := { l.range with ranges := l.range.ranges.set r x } }

/-- The first tile of a core's own range, and the range without it. -/
def Launch.takeOwn (l : Launch) (r : Nat) : Option (Nat × Launch) :=
  let x := l.range.ranges.getD r (0, 0)
  (l.positions x).head?.map fun p => (l.tileAt l.range.hoist p, l.setRange r (p + 1, x.2))

/-- What the range unit answers a request with. -/
inductive Served where
  | tile (t : Nat) (l : Launch)
  | none
  | wait
  deriving DecidableEq, Repr

/-! ## The coverage map (R248, R249) -/

/-- The code of a grain in a map word: 0 Open, 1 Taken, 3 Done. -/
def grainCode (w : Word) (g : Nat) : Nat := bits w (2 * (g % 32)) 2
def setGrain (w : Word) (g c : Nat) : Word :=
  setBit (setBit w (2 * (g % 32)) (decide (c % 2 = 1))) (2 * (g % 32) + 1) (decide (2 ≤ c))

/-- The address of a grain's map word. -/
def mapWord (l : Launch) (g : Nat) : Word := l.packet[9] + BitVec.ofNat 64 (8 * (g / 32))

/-- The state of a grain as the range unit reads it. -/
def State.grainState (s : State) (l : Launch) (g : Nat) : Nat :=
  grainCode (BitVec.ofNat 64 (s.vNum l.ctx (mapWord l g).toNat 8)) g

/-- The sweep (R254): the first tile from the cursor on, of n tiles, that holds an Open grain. -/
def sweepFrom (s : State) (l : Launch) (t : Nat) : Nat → Option Nat
  | 0 => none
  | n + 1 => if (tileGrains l.packet l.range.hoist t).any fun g => decide (s.grainState l g.2 = 0) then some t
    else sweepFrom s l (t + 1) n

/-- The range unit serves a request of the core with a launch index (R253, R254). -/
def serveTask (i : Nat) (l : Launch) (s : State) : Served :=
  let h := l.range.hoist
  let t := tileCount l.packet h
  let r := l.rank h i
  let d := l.donor
  let give := l.live d / 2
  if totalGrains l.packet ≤ l.range.done then .none
  else match l.takeOwn r with
    | some x => .tile x.1 x.2
    | none =>
      if max h[6].toNat 1 ≤ give then
        let x := l.range.ranges.getD d (0, 0)
        let ps := l.positions x
        let q := ps.getD (ps.length - give) 0
        match ((l.setRange r (q, x.2)).setRange d (x.1, q)).takeOwn r with
        | some y => .tile y.1 y.2
        | none => .wait
      else if (List.range l.cores).all fun k => decide (l.live k = 0) then
        match sweepFrom s l l.range.cursor (t - l.range.cursor) with
        | some k => .tile k { l with range := { l.range with cursor := k + 1 } }
        | none => .wait
      else .wait

/-! ## SSTEP (R240, R241) -/

/-- The running launch of the core. -/
def State.runLaunch (s : State) : Option Launch := s.myLaunch.filter fun l => decide (l.phase = .running)

def sstep (s : State) : Res State :=
  if s.cur = .aux then trapAt 0x02 0 s
  else match s.runLaunch with
    | none => trapAt 0x02 0 s
    | some l =>
      if s.me.wake.kind = 14 ∧ s.me.wake.done then
        if l.released then
          .ok (((s.setLaunch { l with released := false, arrived := false }).acquire .dev).advance 4)
        else .error (.park s.me.wake s)
      else do
        let s1 ← releaseRes .dev s
        .error (.park ⟨14, true, 0, 0, 0⟩ (s1.setLaunch { l with arrived := true }))

def execSstep (s : State) : Host.Outcome State Fault Refusal := finish (blocking s (sstep s))

/-! ## TASK.NEXT (R247, R253 to R255, R259) -/

/-- A tile handed to this core: TK.ORG, the view and the token. -/
def handOut (d : Fin 32) (t : Nat) (l : Launch) (s : State) : State :=
  let o := tileOrigin l.packet l.range.hoist t
  let c := { s.core with
    tkOrg0 := BitVec.ofNat 64 (o.getD 1 0 * 2 ^ 32 + o.getD 0 0)
    tkOrg1 := BitVec.ofNat 64 (o.getD 3 0 * 2 ^ 32 + o.getD 2 0)
    view := if s.core.viewGen < l.range.gen then l.range.hoist else s.core.view
    viewGen := max s.core.viewGen l.range.gen }
  ({ s with core := c }.setLaunch l).ret d (BitVec.ofNat 64 (l.range.gen % 65536 * 2 ^ 32 + t))

def taskNext (d : Fin 32) (s : State) : Res State :=
  if s.cur = .aux then trapAt 0x02 0 s
  else match s.runLaunch with
    | none => trapAt 0x02 0 s
    | some l =>
      if !l.hasMap then .ok (s.ret d 0x8000000000000000)
      else match serveTask s.launchIndex l s with
        | .tile t l1 => .ok (handOut d t l1 s)
        | .none => .ok (s.ret d 0x8000000000000000)
        | .wait => parkOn 10 0 0 s

def execTaskNext (d : Fin 32) (s : State) : Host.Outcome State Fault Refusal := finish (blocking s (taskNext d s))

/-- A waiting TASK.NEXT of this core is served again. -/
def State.serveAgain (s : State) : State :=
  if s.pri.wake.kind = 10 then { s with pri := { s.pri with retry := true } } else s

/-- TASK_REQUEST_RESERVE (R253, R254). -/
def execTaskRequestReserve (s : State) : Host.Outcome State Fault Refusal := .next s.serveAgain

/-! ## COVER (R249, R260) -/

/-- The location of a map word for a COVER instruction: its page may keep the thread waiting (R146, R363, R398), and no
permission is tested, since the launch sequencer has tested the map's pages and a COVER instruction has no such fault (R248,
R260). -/
def mapSite (va : Word) (s : State) : Res (Loc × State) :=
  let k : FaultKind := ⟨true, false, false⟩
  let a := va.toNat
  if s.blocked s.ctxNo a true false then .error (.park ⟨12, true, 0xFFFF, va, BitVec.ofNat 64 k.code⟩ s)
  else match s.translate s.ctxNo a false with
    | .error r => pageWait r k va s.pc s
    | .ok (e, s1) =>
      if e.wb then pageWait 3 k va s1.pc s1
      else if e.loc = 0 ∧ hbmSize ≤ e.pa + (a - e.base) then .error (.fault .hbmBeyondEnd)
      else .ok (e.loc' a, s1)

/-- Each named grain of a tile with the key of its map word, translated for the performing thread. -/
def mapKeys (l : Launch) : List (Nat × Nat) → State → Res (List (Nat × Nat × Nat) × State)
  | [], s => .ok ([], s)
  | (i, g) :: r, s => do
    let (a, s1) ← mapSite (mapWord l g) s
    let (k, s2) ← mapKeys l r s1
    .ok ((i, g, a.key) :: k, s2)

/-- The state of a grain with its key, and the state with it changed. -/
def State.grainAt (s : State) (x : Nat × Nat × Nat) : Nat := grainCode (s.word x.2.2) x.2.1
def State.putGrain (s : State) (x : Nat × Nat × Nat) (c : Nat) : State := s.setWord x.2.2 (setGrain (s.word x.2.2) x.2.1 c)

/-- The hoist of a token's generation: current, or previous. -/
def RangeUnit.hoistOf (u : RangeUnit) (gen : Nat) : Option (Hoist × Bool) :=
  if gen = u.gen % 65536 then some (u.hoist, true)
  else if 1 ≤ u.gen ∧ gen = (u.gen - 1) % 65536 then some (u.prev, false)
  else none

/-- A token's NONE bit or a reserved bit is set. -/
def badToken (w : Word) : Bool := decide (bits w 48 16 ≠ 0)

/-- A token that COVER.CLAIM answers with the empty mask. -/
def claimsNone (w : Word) (l : Launch) : Bool :=
  badToken w || decide (bits w 32 16 ≠ l.range.gen % 65536) ||
    decide (tileCount l.packet l.range.hoist ≤ bits w 0 32)

/-- The Open grains among some become Taken: the mask of those, and the state (R249). -/
def claimGrains (ks : List (Nat × Nat × Nat)) (l : Launch) (s : State) : Word × State :=
  let free := ks.filter fun x => decide (s.grainAt x = 0)
  (free.foldl (fun (a : Word) x => setBit a x.1 true) 0,
    (free.foldl (fun a x => a.putGrain x 1) s).setLaunch
      { l with range := { l.range with tcur := l.range.tcur + free.length } })

/-- The map words of some grains, by their index in the map. -/
def mapWords (gs : List (Nat × Nat)) : List Nat := (gs.map fun x => x.2 / 32).eraseDups

/-- How many words of its tile the thread's COVER.CLAIM has taken, and the mask of the grains taken so far. -/
def Thread.claimed (t : Thread) : Nat × Word := if t.wake.kind = 34 then (t.wake.aux.toNat, t.wake.operand) else (0, 0)

/-- The map words of a tile's grains, translated before the first is taken. A page that waits later on keeps the claim where it
stands (log 118). -/
def claimKeys (l : Launch) (gs : List (Nat × Nat)) (s : State) : Res (List (Nat × Nat × Nat) × State) :=
  match mapKeys l gs s with
  | .error (.park w s1) => if s.me.wake.kind = 34 then .error (.park s.me.wake s1) else .error (.park w s1)
  | r => r

/-- COVER.CLAIM: the next of its map words is taken, each in a step of its own (R249). -/
def coverClaim (d : Fin 32) (w : Word) (l : Launch) (s : State) : Res State :=
  if claimsNone w l then .ok ((s.acquire .dev).ret d 0)
  else do
    let gs := tileGrains l.packet l.range.hoist (bits w 0 32)
    let (n, m) := s.me.claimed
    let (ks, s1) ← claimKeys l gs s
    match (mapWords gs).drop n with
    | [] => .ok ((s1.acquire .dev).ret d m)
    | k :: rest =>
      let r := claimGrains (ks.filter fun x => decide (x.2.1 / 32 = k)) l s1
      if rest = [] then .ok ((r.2.acquire .dev).ret d (m ||| r.1))
      else .error (.park ⟨34, true, BitVec.ofNat 16 (n + 1), 0, m ||| r.1⟩ r.2)

/-- The counts of Taken grains after n of a generation leave that state. -/
def RangeUnit.untake (u : RangeUnit) (cur : Bool) (n : Nat) : RangeUnit :=
  if cur then { u with tcur := u.tcur - n } else { u with tprev := u.tprev - n }

/-- The grains of a mask of which none lies outside the tile, or none (R260). -/
def maskGrains (l : Launch) (h : Hoist) (w m : Word) : Option (List (Nat × Nat)) :=
  let t := bits w 0 32
  if badToken w || decide (tileCount l.packet h ≤ t) ||
      (List.range 64).any (fun i => m.getLsbD i && (tileGrain l.packet h t i).isNone) then none
  else some ((tileGrains l.packet h t).filter fun x => m.getLsbD x.1)

/-- Grains of a generation that are all Taken leave that state for Done or for Open; none where one is not Taken (R249). The poison of a
map word is not consumed (log 137). -/
def moveGrains (done cur : Bool) (ks : List (Nat × Nat × Nat)) (l : Launch) (s : State) : Option State :=
  if ks.any fun x => decide (s.grainAt x ≠ 1) then none
  else
    let s1 := ks.foldl (fun a x => a.putGrain x (if done then 3 else 0)) s
    let u := l.range.untake cur ks.length
    let u1 := if done then { u with done := u.done + ks.length } else if ks = [] then u else { u with cursor := 0 }
    some (s1.setLaunch { l with range := u1 })

/-- COVER.DONE and COVER.YIELD: every grain named in a mask leaves Taken for a code, or none does. -/
def coverMove (done : Bool) (w m : Word) (l : Launch) (s : State) : Res State :=
  match l.range.hoistOf (bits w 32 16) with
  | none => trapAt 0x03 0 s
  | some (h, cur) => match maskGrains l h w m with
    | none => trapAt 0x03 0 s
    | some gs => do
      let s0 ← releaseRes .dev s
      let (ks, s1) ← mapKeys l gs s0
      match moveGrains done cur ks l s1 with
      | none => trapAt 0x03 0 s1
      | some s2 => .ok (s2.advance 4)

/-- A COVER instruction in a thread and launch that may execute it. -/
def cover (s : State) (f : Launch → Res State) : Res State :=
  match s.runLaunch with
  | some l => if s.cur = .pri ∧ l.hasMap then f l else trapAt 0x02 0 s
  | none => trapAt 0x02 0 s

def execCoverClaim (d a : Fin 32) (s : State) : Host.Outcome State Fault Refusal :=
  finish (cover s fun l => coverClaim d (s.reg a) l s)
def execCoverDone (a b : Fin 32) (s : State) : Host.Outcome State Fault Refusal :=
  finish (cover s fun l => coverMove true (s.reg a) (s.reg b) l s)
def execCoverYield (a b : Fin 32) (s : State) : Host.Outcome State Fault Refusal :=
  finish (cover s fun l => coverMove false (s.reg a) (s.reg b) l s)

/-! ## The hoist registers (R250, R255 to R257, R261) -/

/-- The value of h<i> as a core reads it. -/
def State.hoistReg (s : State) (l : Launch) (i : Fin 16) : Word :=
  if h : i.val < 14 then s.core.view[i.val] else if i.val = 14 then BitVec.ofNat 64 l.range.done
  else BitVec.ofNat 64 s.core.viewGen

def execHrd (d : Fin 32) (i : Fin 16) (s : State) : Host.Outcome State Fault Refusal :=
  finish (match s.runLaunch with
    | some l => .ok (s.ret d (s.hoistReg l i))
    | none => trapAt 0x02 0 s)

/-- An instruction that only the tuner's auxiliary thread may execute. -/
def tunerOnly (s : State) (f : Launch → Res State) : Res State :=
  match s.runLaunch with
  | some l => if s.cur = .aux ∧ s.core.lnPos.getLsbD 45 then f l else trapAt 0x02 0 s
  | none => trapAt 0x02 0 s

/-- h14 and h15 are illegal (R261). -/
def execHwr (i : Fin 16) (a : Fin 32) (s : State) : Host.Outcome State Fault Refusal :=
  finish (if h : i.val < 14 then
      tunerOnly s fun l =>
        .ok ((s.setLaunch { l with range := { l.range with pending := l.range.pending.set i.val (s.reg a) } }).advance 4)
    else trapAt 0x01 0 s)

/-- A new generation published. -/
def Launch.publish (l : Launch) : Launch :=
  let u := l.range
  { l with range := { u with
      hoist := u.pending
      prev := u.hoist
      gen := u.gen + 1
      tprev := u.tcur
      tcur := 0
      ranges := if l.hasMap then l.seed u.pending else []
      cursor := 0 } }

/-- What HCOMMIT answers: the first failing check, 5 while grains of the previous generation are Taken, or 0 (R257). -/
def RangeUnit.commitCode (u : RangeUnit) : Nat :=
  let code := hoistCode u.pending
  if code ≠ 0 then code else if 0 < u.tprev then 5 else 0

def hcommit (d : Fin 32) (l : Launch) (s : State) : State :=
  if l.range.commitCode ≠ 0 then s.ret d (BitVec.ofNat 64 l.range.commitCode)
  else
    let l1 := l.publish
    let s1 := { s with core := { s.core with view := l.range.pending, viewGen := l1.range.gen } }.setLaunch l1
    s1.serveAgain.ret d 0

/-- HCOMMIT is atomic with respect to every COVER instruction: it does not fall between the words of a COVER.CLAIM (R257,
log 118). -/
def execHcommit (d : Fin 32) (s : State) : Host.Outcome State Fault Refusal :=
  finish (tunerOnly s fun l => if s.pri.wake.kind = 34 then parkOn 32 0 0 s else .ok (hcommit d l s))

/-! ## Exchange plans (R242, R366) -/

/-- An entry of a plan. -/
structure PlanEntry where
  stage : Nat
  bytes : Nat
  start : Nat
  soff : Nat
  swin : Fin 64
  sx : Nat
  sy : Nat
  dw : Nat
  dh : Nat
  doff : Nat
  dwin : Fin 64
  dx : Nat
  dy : Nat
  deriving DecidableEq, Repr

/-- The image offset of the plan with an index in a PLAN section; the plans of a section follow one another, each 64-byte
aligned. -/
def planOff (s : State) (o : Obj) (off : Nat) : Nat → Nat
  | 0 => off
  | n + 1 => planOff s o ((off + 16 + 32 * s.objNum o (off + 6) 2 + 63) / 64 * 64) n

/-- The PLAN section of a launch's kernel, where it holds a plan. -/
def State.planSect (s : State) (l : Launch) : Option Section' :=
  (s.sectAt l.obj (s.kernel l.obj (bits l.packet[3] 48 16)).plan).filter fun q => decide (q.size ≠ 0)

def winOf (w : Word) : Fin 64 := ⟨bits w 10 6, by unfold bits; omega⟩

def planEntry (w0 w1 w2 : Word) : PlanEntry :=
  { stage := bits w0 56 8, bytes := bits w0 32 17, start := bits w0 0 32, soff := bits w1 16 16, swin := winOf w1
    sx := bits w1 0 5, sy := bits w1 5 5, dw := bits w2 32 5 + 1, dh := bits w2 37 5 + 1, doff := bits w2 16 16
    dwin := winOf w2, dx := bits w2 0 5, dy := bits w2 5 5 }

/-- The entries of the plan an exchange runs. -/
def State.planEntries (s : State) (l : Launch) (n : Nat) : List PlanEntry :=
  match s.planSect l with
  | none => []
  | some q =>
    let off := planOff s l.obj q.off n
    (List.range (s.objNum l.obj (off + 6) 2)).map fun i =>
      let e := off + 16 + 32 * i
      let w (j : Nat) : Word := BitVec.ofNat 64 (s.objNum l.obj (e + 8 * j) 8)
      planEntry (w 0) (w 1) (w 2)

/-- The successor of a plan. -/
def State.planNext (s : State) (l : Launch) (n : Nat) : Nat :=
  match s.planSect l with
  | none => 0
  | some q => s.objNum l.obj (planOff s l.obj q.off n + 4) 1

/-- This core is launch coordinates (x, y). -/
def State.isHere (s : State) (x y : Nat) : Bool := decide (bits s.core.lnPos 10 5 = x) && decide (bits s.core.lnPos 15 5 = y)

/-- This core is a destination of an entry. -/
def State.isDest (s : State) (e : PlanEntry) : Bool :=
  let x := bits s.core.lnPos 10 5
  let y := bits s.core.lnPos 15 5
  decide (e.dx ≤ x) && decide (x < e.dx + e.dw) && decide (e.dy ≤ y) && decide (y < e.dy + e.dh)

/-- n bytes at an offset lie within a window. -/
def inWindow (w : Option (Nat × Nat)) (off n : Nat) : Bool :=
  match w with
  | some (_, len) => decide (off + n ≤ len)
  | none => decide (off + n = 0)

/-- An entry exceeds a window of this core (R336). -/
def State.exceeds (s : State) (e : PlanEntry) : Bool :=
  (s.isHere e.sx e.sy && !inWindow s.core.windows[e.swin] e.soff e.bytes) ||
    (s.isDest e && !inWindow s.core.windows[e.dwin] e.doff e.bytes)

/-- The running launch's barrier tree may complete: every core has arrived or its primary thread has ended, some core waits,
and no exchange is under way (R240, R241). -/
def State.barrierReady (s : State) (l : Launch) : Bool :=
  decide (l.exch = none) && !l.released && decide (l.waits = []) && (l.arrived || decide (l.atStep ≠ [])) &&
    (l.arrived || decide (s.pri.run = .ended)) &&
    (List.range l.cores).all fun i => decide (i = s.launchIndex) || l.exited.contains i || l.atStep.contains i

/-- The windows of an exchange step are checked, and its plan begins with every collect entry at BASE 0 (R331). -/
def beginExchange (l : Launch) (s : State) : State :=
  if (s.planEntries l l.plan).any s.exceeds then engineFault 0x03 0 0 0 .pri s
  else
    let f (p : Nat × RStage) : Nat × RStage := if p.1 / 2 ^ 18 = l.ctx then (p.1, { p.2 with base := 0 }) else p
    { s with rstages := s.rstages.map f }.setLaunch
      { l with exch := some ⟨l.plan, s.core.windows, []⟩, atStep := [] }

/-- BARRIER_TREE_COMPLETE (R243): every core of the rectangle has arrived, and the exchange clock starts. -/
def execBarrierTreeComplete (s : State) : Host.Outcome State Fault Refusal :=
  .next (match s.runLaunch with
    | some l => if s.barrierReady l then beginExchange l s else s
    | none => s)

/-- The payload words of a transfer with their poison: this core's window, or free values for another core's (log 1). -/
def transferWords (e : PlanEntry) (x : Exchange) (s : State) : List (Word × Bool) × State :=
  let n := e.bytes / 8
  if s.isHere e.sx e.sy then
    match x.windows[e.swin] with
    | some (b, _) => ((List.range n).map fun j =>
        let k := s.ownKey (b + e.soff + 8 * j)
        (s.word k, s.poisoned k), s)
    | none => ([], s)
  else ((List.range n).map fun j => (Config.freeValue (s.freeCtr + j), false), { s with freeCtr := s.freeCtr + n })

/-- The flits of a transfer at its source core's router (R332). -/
def transferFlits (e : PlanEntry) (i : Nat) (l : Launch) (ws : List (Word × Bool)) (s : State) : List Flit :=
  let c := s.rectCore l e.sx e.sy
  ws.zipIdx.map fun p => ⟨l.ctx, Fin.ofNat 32 c.1, Fin.ofNat 32 c.2, 0,
    ⟨p.1.1, BitVec.ofNat 16 p.2, BitVec.ofNat 8 e.stage, false⟩, some (i, p.1.2)⟩

/-- The transfers of an exchange that start before an entry have begun. -/
def startable (es : List PlanEntry) (x : Exchange) (e : PlanEntry) (i : Nat) : Bool :=
  !x.begun.contains i && es.zipIdx.all fun p => decide (e.start ≤ p.1.start) || x.begun.contains p.2

/-- EXCHANGE_TRANSFER_BEGIN (R243): the clock reaches the START of an entry, whose source bank's clock runs (R407). -/
def execExchangeTransferBegin (i : Nat) (s : State) : Host.Outcome State Fault Refusal :=
  .next (match s.runLaunch with
    | none => s
    | some l => match l.exch with
      | none => s
      | some x =>
        let es := s.planEntries l x.plan
        match es[i]? with
        | none => s
        | some e =>
          let c := s.rectCore l e.sx e.sy
          if startable es x e i ∧ !s.coreStopped l.ctx c.1 c.2 then
            let (ws, s1) := transferWords e x s
            { s1 with fabric := s1.fabric ++ transferFlits e i l ws s1 }.setLaunch
              { l with exch := some { x with begun := x.begun ++ [i] } }
          else s)

/-- No packet of a context's exchange is in flight or held. -/
def State.landedAll (s : State) (c : Nat) : Bool :=
  s.fabric.all (fun f => decide (f.ctx ≠ c) || f.xfer.isNone) &&
    s.rstages.all fun p => decide (p.1 / 2 ^ 18 ≠ c) || p.2.held.all fun h => h.xfer.isNone

/-- EXCHANGE_STEP_END (R243): the clock has reached LEN and every transfer has landed; the successor plan is current. -/
def execExchangeStepEnd (s : State) : Host.Outcome State Fault Refusal :=
  .next (match s.runLaunch with
    | none => s
    | some l => match l.exch with
      | none => s
      | some x =>
        if x.begun.length = (s.planEntries l x.plan).length ∧ s.landedAll l.ctx then
          s.setLaunch { l with exch := none, released := l.arrived, plan := s.planNext l x.plan }
        else s)

end Sys2Proof.Machine
end

