-- ==== Sys2Proof/Machine/Channel.lean ====
section
/-! DEFINITION. The router fabric (R327 to R332), channels and exchange windows (R333 to R336). -/

namespace Sys2Proof.Machine

/-! ## Route tables (R327, R328) -/

/-- A word of the route-table entry r of a context at the router of its logical core (x, y). -/
def State.routeWord (s : State) (c x y r w : Nat) : Word :=
  let k := c * 2 ^ 22 + ((y * s.torusW c + x) * 256 + r) * 16 + 8 * w
  BitVec.ofNat 64 (leNat ((List.range 8).map fun j => sget 0 s.routes (k + j)))

/-- The entry is valid. -/
def routeValid (e : Word) : Bool := e.getLsbD 63

/-- OP, TYPE and FN of an entry. -/
def routeOp (e : Word) : Nat := bits e 60 3
def routeType (e : Word) : Nat := bits e 58 2
def routeFn (e : Word) : Nat := bits e 56 2
def inMask (e : Word) (p : Nat) : Bool := e.getLsbD (51 + p)
def outMask (e : Word) (p : Nat) : Bool := e.getLsbD (46 + p)
def portA (e : Word) : Nat := bits e 43 3
def portB (e : Word) : Nat := bits e 40 3
def routeA (e : Word) : BitVec 8 := BitVec.ofNat 8 (bits e 32 8)
def routeB (e : Word) : BitVec 8 := BitVec.ofNat 8 (bits e 24 8)

/-- The number of input ports of a reduce entry. -/
def inPorts (e : Word) : List Nat := [0, 1, 2, 3, 4].filter fun p => inMask e p

/-- An entry that discards every packet: invalid, or with a reserved code that its OP uses. -/
def routeBad (e : Word) : Bool :=
  !routeValid e || decide (5 ≤ routeOp e) || (decide (routeOp e ≠ 3) && decide (5 ≤ portA e)) ||
    ((decide (routeOp e = 1) || decide (routeOp e = 2)) && decide (routeType e = 3)) ||
    (decide (routeOp e = 1) && (decide (routeFn e = 3) || decide ((inPorts e).length < 2))) ||
    (decide (routeOp e = 2) && decide (5 ≤ portB e) && decide (portB e ≠ 6))

/-! ## Lanes of a payload -/

/-- The format of a lane type, and its width in bits. -/
def laneFmt (t : Nat) : Fmt := if t = 0 then .i32 else if t = 1 then .f32 else .bf16
def laneBits (t : Nat) : Nat := if t = 2 then 16 else 32

/-- The lanes of a payload, lane 0 first. -/
def packetLanes (t : Nat) (v : Word) : List Lane :=
  (List.range (64 / laneBits t)).map fun j => BitVec.ofNat 32 (bits v (j * laneBits t) (laneBits t))
def packLanes (t : Nat) : List Lane → Nat
  | [] => 0
  | x :: l => x.toNat % 2 ^ laneBits t + 2 ^ laneBits t * packLanes t l

/-- One step of a reduce entry on one lane (R330). -/
def reduceLane (t fn : Nat) (x y : Lane) : Lane :=
  let f := laneFmt t
  if t = 0 then (intOp .i32 (if fn = 0 then (· + ·) else if fn = 1 then min else max) x y).1
  else (fltOp f (if fn = 0 then Exact.add else if fn = 1 then Exact.fmin else Exact.fmax) x y).1

def reducePayload (t fn : Nat) (a b : Word) : Word :=
  BitVec.ofNat 64 (packLanes t (List.zipWith (reduceLane t fn) (packetLanes t a) (packetLanes t b)))

/-- The comparison of a steer entry (R329). -/
def steerTrue (e c v : Word) : Bool :=
  let t := routeType e
  let x := (packetLanes t v).headD 0
  let k := (packetLanes t c).headD 0
  let cond : VCond := if routeFn e = 0 then .eq else if routeFn e = 1 then .lt else if routeFn e = 2 then .ge else .ne
  (cmpLane cond (laneFmt t) x k).1

/-! ## Leaving a router -/

/-- The neighbour that a port leads to on a context's logical torus, and the port by which a packet enters it (log 19). -/
def State.neighbour (s : State) (c x y p : Nat) : Nat × Nat × Fin 5 :=
  let w := s.torusW c
  let h := s.torusH c
  if p = 1 then (x, (y + h - 1) % h, 3)
  else if p = 2 then ((x + 1) % w, y, 4)
  else if p = 3 then (x, (y + 1) % h, 1)
  else ((x + w - 1) % w, y, 2)

/-- A transfer's word lands in its destination window (R332). -/
def landWord (i : Nat) (bad : Bool) (p : Packet) (s : State) : State :=
  match s.runLaunch with
  | none => s
  | some l => match l.exch with
    | none => s
    | some x => match (s.planEntries l x.plan)[i]? with
      | none => s
      | some e => match x.windows[e.dwin] with
        | some (b, _) =>
          if s.isDest e then
            let k := s.ownKey (b + e.doff + 8 * p.tag.toNat)
            (s.setWord k p.payload).setPoison k bad
          else s
        | none => s

def State.chan (s : State) (c : Fin 64) : Chan := s.core.chans[c]
def State.setChan (s : State) (c : Fin 64) (x : Chan) : State :=
  { s with core := { s.core with chans := s.core.chans.set c x } }

/-- A logical core of a context is this core. -/
def State.isMine (s : State) (c x y : Nat) : Bool := decide (s.core.ctx = some c) && s.isSelf x y

/-- A context's packet leaves a router on a port (R327, R328, R333): port L reaches the core's endpoint or window. VOID
packets reach neither. -/
def leave (c : Nat) (x y : Fin 32) (port : Nat) (e : Word) (xf : Option (Nat × Bool)) (p : Packet) (s : State) : State :=
  if port ≠ 0 then
    let n := s.neighbour c x.val y.val port
    if s.corePresent c n.1 n.2.1 then
      { s with fabric := s.fabric ++ [⟨c, Fin.ofNat 32 n.1, Fin.ofNat 32 n.2.1, n.2.2, p, xf⟩] }
    else { s with mgmt := { s.mgmt with discards := s.mgmt.discards + 1 } }
  else if p.void then s
  else if s.isMine c x.val y.val then
    match xf with
    | some (i, bad) => landWord i bad p s
    | none =>
      let n : Fin 64 := ⟨bits e 16 6, by unfold bits; omega⟩
      s.setChan n { s.chan n with stopped := (s.chan n).stopped ++ [p.payload] }
  else { s with sent := s.sent ++ [⟨c, x, y, 0, p, xf⟩] }

/-! ## Stages (R329 to R331) -/

/-- The number of a stage: context, router and route. -/
def stageKey (c : Nat) (x y : Fin 32) (r : BitVec 8) : Nat := c * 2 ^ 18 + (y.val * 32 + x.val) * 256 + r.toNat

def State.stage (s : State) (k : Nat) : RStage := (s.rstages.find? (·.1 = k)).elim ⟨0, []⟩ Prod.snd
def State.setStage (s : State) (k : Nat) (g : RStage) : State :=
  { s with rstages := (k, g) :: s.rstages.filter (·.1 ≠ k) }

/-- A packet is discarded and counted. -/
def State.discardPacket (s : State) : State := { s with mgmt := { s.mgmt with discards := s.mgmt.discards + 1 } }

/-- The payload of a tag that every input port has given, combined in ascending port number; none where all are VOID. -/
def combine (t fn : Nat) : List Held → Option Word
  | [] => none
  | h :: l => l.foldl (fun a g => if g.packet.void then a else
      match a with
      | some v => some (reducePayload t fn v g.packet.payload)
      | none => some g.packet.payload) (if h.packet.void then none else some h.packet.payload)

/-- The exchange entry of a combination, that of its lowest input port (log 138), poisoned where an input is. -/
def joinXfer (l : List Held) : Option (Nat × Bool) :=
  (l.findSome? Held.xfer).map fun p => (p.1, l.any fun h => h.xfer.any Prod.snd)

/-- A reduce entry stores a packet, or holds it upstream (R330). -/
def reducePacket (f : Flit) (e : Word) (k : Nat) (s : State) : Option State :=
  let g := s.stage k
  let same := g.held.filter fun h => decide (h.packet.tag = f.packet.tag)
  let tags := (g.held.map fun h => h.packet.tag).eraseDups
  if !inMask e f.port.val then some s.discardPacket
  else if same.any fun h => decide (h.port = f.port) then none
  else if same = [] ∧ 64 ≤ tags.length then none
  else
    let now := same ++ [⟨f.port, f.packet, f.xfer⟩]
    if now.length = (inPorts e).length then
      let sorted := [0, 1, 2, 3, 4].filterMap fun p => now.find? fun h => decide (h.port.val = p)
      let v := combine (routeType e) (routeFn e) sorted
      let s1 := s.setStage k { g with held := g.held.filter fun h => decide (h.packet.tag ≠ f.packet.tag) }
      some (leave f.ctx f.x f.y (portA e) e (joinXfer sorted) ⟨v.getD 0, f.packet.tag, routeA e, v.isNone⟩ s1)
    else some (s.setStage k { g with held := g.held ++ [⟨f.port, f.packet, f.xfer⟩] })

/-- A collect entry releases the packets from BASE on (R331). -/
def releaseCollect (c : Nat) (x y : Fin 32) (e : Word) (k : Nat) : Nat → State → State
  | 0, s => s
  | n + 1, s =>
    let g := s.stage k
    match g.held.find? fun h => decide (h.packet.tag = g.base) with
    | none => s
    | some h =>
      let s1 := s.setStage k ⟨g.base + 1, g.held.filter fun q => decide (q.packet.tag ≠ g.base)⟩
      releaseCollect c x y e k n
        (if h.packet.void then s1 else leave c x y (portA e) e h.xfer { h.packet with route := routeA e } s1)

def collectPacket (f : Flit) (e : Word) (k : Nat) (s : State) : Option State :=
  let g := s.stage k
  if 64 ≤ (f.packet.tag - g.base).toNat then none
  else if g.held.any fun h => decide (h.packet.tag = f.packet.tag) then none
  else some (releaseCollect f.ctx f.x f.y e k 64 (s.setStage k { g with held := g.held ++ [⟨f.port, f.packet, f.xfer⟩] }))

/-- A steer entry (R329): a VOID packet takes PORTA. -/
def steerPacket (f : Flit) (e c : Word) (s : State) : State :=
  let p := f.packet
  if p.void || steerTrue e c p.payload then leave f.ctx f.x f.y (portA e) e f.xfer { p with route := routeA e } s
  else if portB e = 6 then leave f.ctx f.x f.y (portA e) e f.xfer ⟨0, p.tag, routeA e, true⟩ s
  else leave f.ctx f.x f.y (portB e) e f.xfer { p with route := routeB e } s

/-- What a router does with a packet at one of its ports, the packet already taken from it; none where it waits. -/
def routePacket (f : Flit) (s : State) : Option State :=
  let r := f.packet.route
  let e := s.routeWord f.ctx f.x.val f.y.val r.toNat 0
  let k := stageKey f.ctx f.x f.y r
  if routeBad e then some s.discardPacket
  else match routeOp e with
    | 0 => some (leave f.ctx f.x f.y (portA e) e f.xfer { f.packet with route := routeA e } s)
    | 1 => reducePacket f e k s
    | 2 => some (steerPacket f e (s.routeWord f.ctx f.x.val f.y.val r.toNat 1) s)
    | 3 => some (([0, 1, 2, 3, 4].filter fun p => outMask e p).foldl
        (fun a p => leave f.ctx f.x f.y p e f.xfer { f.packet with route := routeA e } a) s)
    | _ => collectPacket f e k s

/-- The oldest packet at a router's port. -/
def State.atPort (s : State) (x y : Fin 32) (port : Fin 5) : Option Flit :=
  s.fabric.find? fun f => decide (f.x = x) && decide (f.y = y) && decide (f.port = port)

/-- A route may leave its router on port L. -/
def landsHere (e : Word) : Bool :=
  match routeOp e with
  | 2 => decide (portA e = 0) || decide (portB e = 0)
  | 3 => outMask e 0
  | _ => decide (portA e = 0)

/-- A packet for the endpoint or the window of this core waits in the fabric while the cluster's clock is stopped (R407). -/
def State.endpointStopped (s : State) (f : Flit) : Bool :=
  let e := s.routeWord f.ctx f.x.val f.y.val f.packet.route.toNat 0
  s.isMine f.ctx f.x.val f.y.val && s.coreStopped f.ctx f.x.val f.y.val && !routeBad e && landsHere e

/-- ROUTER_PACKET (R329): the oldest packet at a port of a router. -/
def execRouterPacket (x y : Fin 32) (port : Fin 5) (p : Packet) (s : State) : Host.Outcome State Fault Refusal :=
  .next (match s.atPort x y port with
    | none => s
    | some f => if f.packet = p ∧ !s.endpointStopped f then (routePacket f { s with fabric := s.fabric.erase f }).getD s else s)

/-- CHANNEL_DELIVERY (R333): a packet that waits at an endpoint enters its receive buffer. -/
def execChannelDelivery (c : Fin 64) (payload : BitVec 64) (s : State) : Host.Outcome State Fault Refusal :=
  let x := s.chan c
  .next (match x.stopped with
    | v :: r => if v = payload ∧ x.buf.length < 8 then s.setChan c { x with buf := x.buf ++ [v], stopped := r } else s
    | [] => s)

/-! ## The instructions (R334, R336) -/

/-- A payload enters the sending core's own router on a route. -/
def inject (v : Word) (tag : BitVec 16) (r : BitVec 8) (s : State) : State :=
  { s with fabric := s.fabric ++ [⟨s.ctxNo, s.core.lx, s.core.ly, 0, ⟨v, tag, r, false⟩, none⟩] }

def chSend (c : Fin 64) (a : Fin 32) (s : State) : Res State :=
  if !routeValid (s.routeWord s.ctxNo s.core.lx.val s.core.ly.val c.val 0) then trapAt 0x03 0 s
  else do
    let s1 ← releaseRes .dev s
    let x := s1.chan c
    .ok ((inject (s1.reg a) (BitVec.ofNat 16 x.sent) (BitVec.ofNat 8 c.val) (s1.setChan c { x with sent := x.sent + 1 })).advance 4)

def execChSend (c : Fin 64) (a : Fin 32) (s : State) : Host.Outcome State Fault Refusal := finish (chSend c a s)

def chRecv (d : Fin 32) (c : Fin 64) (s : State) : Res State :=
  match (s.chan c).buf with
  | v :: r => .ok (((s.setChan c { s.chan c with buf := r }).acquire .dev).ret d v)
  | [] => parkOn 8 0 (BitVec.ofNat 64 c.val) s

def execChRecv (d : Fin 32) (c : Fin 64) (s : State) : Host.Outcome State Fault Refusal := finish (blocking s (chRecv d c s))

def execChProbe (d : Fin 32) (c : Fin 64) (s : State) : Host.Outcome State Fault Refusal :=
  .next (s.ret d (BitVec.ofNat 64 (s.chan c).buf.length))

def rsend (a b : Fin 32) (s : State) : Res State :=
  let w := s.reg a
  if bits w 24 40 ≠ 0 then trapAt 0x03 0 s
  else do
    let s1 ← releaseRes .dev s
    .ok ((inject (s1.reg b) (BitVec.ofNat 16 (bits w 8 16)) (BitVec.ofNat 8 (bits w 0 8)) s1).advance 4)

def execRsend (a b : Fin 32) (s : State) : Host.Outcome State Fault Refusal := finish (rsend a b s)

/-- The window that XWIN sets at an own-core address (R140, R336): its address and length, or none for a length of 0. -/
def windowOf (s : State) (va len : Word) : Option (Option (Nat × Nat)) :=
  let off := va.toNat
  if off < 0x80000 ∧ off % 8 = 0 ∧ len.toNat % 8 = 0 ∧ len.toNat ≤ 65536 ∧ off + len.toNat ≤ 524288 ∧
      off + len.toNat ≤ s.allotment then
    some (if len = 0 then none else some (off, len.toNat))
  else none

def execXwin (w : Fin 64) (a b : Fin 32) (s : State) : Host.Outcome State Fault Refusal :=
  finish (match windowOf s (s.reg a) (s.reg b) with
    | some v => .ok ({ s with core := { s.core with windows := s.core.windows.set w v } }.advance 4)
    | none => trapAt 0x03 (s.reg a) s)

end Sys2Proof.Machine
end

