-- ==== Sys2Proof/Machine/Fetch.lean ====
section
/-! DEFINITION. Instruction fetch (R88, R134, R367, R438): parcels of code through the page table, and the decoded
instruction. -/

namespace Sys2Proof.Machine

/-- A code byte's location: paged memory with X; every other class is a protection violation. -/
def codeLoc (va : Word) (s : State) : Except Stall (Loc × State) :=
  let a := va.toNat
  if classify s va ≠ .paged then .error (.fault 0x03 va)
  else if s.blocked s.ctxNo a false true then .error (.page 0 va false)
  else match s.translate s.ctxNo a true with
    | .error r => .error (.page r va false)
    | .ok (e, s1) =>
      if !e.x then .error (.fault 0x03 va)
      else if e.loc = 0 ∧ hbmSize ≤ e.pa + (a - e.base) then .error .beyond
      else .ok (e.loc' a, s1)

/-- Memory holds poison in a code line. -/
def State.poisonedLine (s : State) (k : Nat) : Bool := (List.range 8).any fun j => s.poisoned (k * 64 + 8 * j)

/-- A code line of the instruction cache. -/
def State.cached (s : State) (k : Nat) : Option (List Byte) := (s.core.icache.find? (·.1 = k)).map Prod.snd

/-- The instruction cache, of 64 KiB (R14), takes a line from memory; a full one gives up the line it took in longest ago
(log 94). -/
def State.fillCode (s : State) (k : Nat) : State :=
  { s with core := { s.core with icache := ((k, s.bytes (k * 64) 64) :: s.core.icache.filter (·.1 ≠ k)).take 1024 } }

/-- A code line as the foot finds it, in the instruction cache or, when it is not there, in memory; none where it is poisoned:
marked so (R438), or filled from a poisoned word. -/
def State.codeLine (s : State) (k : Nat) : Option (List Byte × State) :=
  if s.core.badLines.contains k then none
  else match s.cached k with
    | some b => some (b, s)
    | none => if s.poisonedLine k then none else some (s.bytes (k * 64) 64, s.fillCode k)

/-- One parcel of code, at an even address; a line taken from a counted host page is an access of it (R399). -/
def fetchParcel (va : Word) (s : State) : Except Stall (Nat × State) := do
  let (l, s1) ← codeLoc va s
  match s1.codeLine (l.key / 64) with
  | none => .error (.bad va l.key)
  | some (b, s2) => .ok (leNat ((b.drop (l.key % 64)).take 2), if (s1.cached (l.key / 64)).isSome then s2 else s2.cross 64 l)

/-- What the bits at an address decode to, with the instruction's length. -/
inductive Fetched where
  | instr (i : Instr) (len : Nat)
  | illegal
  | pool
  deriving DecidableEq, Repr

/-- A parcel of the instruction at an address, whose first parcel is p, lies in a pool line (R367). -/
def State.poolInstr (s : State) (pc : Word) (p : Nat) : Bool :=
  s.poolLine pc.toNat || (isLong p && s.poolLine (pc.toNat + 2))

/-- The instruction at an address (R87, R88): its parcels, each by its own line and page. A fetch fault, a page wait or a poisoned
line comes before a pool line: the spec gives no order (log 84). -/
def fetchAt (pc : Word) (s : State) : Except Stall (Fetched × State) := do
  let (p, s1) ← fetchParcel pc s
  let (q, s2) ← if isLong p then fetchParcel (pc + 2) s1 else .ok (0, s1)
  if s2.poolInstr pc p then .ok (.pool, s2)
  else match decodeParcels p q with
    | .ok (i, n) => .ok (.instr i n, s2)
    | .error _ => .ok (.illegal, s2)

/-- The instruction that an attached follower issues next: the first one forwarded that its window does not hold (R49). -/
def State.nextFwd (s : State) : Option Fwd := (s.core.slave.stream.drop s.pri.window.length).head?

/-- Where the performing thread fetches from: the forwarded instruction's address in an attached follower. -/
def State.issuePc (a : Word) (s : State) : Word := if s.attached then (s.nextFwd.map Fwd.pc).getD a else a

/-- The fetch of the performing thread (R28, R134): the instruction at its program counter, or the trap or page wait that
belongs to it. An attached follower does not fetch: it takes the instruction its leader forwarded, or waits for it (R49,
R52), and raises executed pool where that lies in a pool line (R367). -/
def threadFetch (s : State) : Res (Instr × State) :=
  if s.attached then
    match s.nextFwd with
    | some f =>
      if s.poolInstr f.pc f.p then trapAt 0x08 0 s
      else match f.instr? with
        | some i => .ok (i, s)
        | none => trapAt 0x01 0 s
    | none => .error (.park s.starveWake s)
  else
  match fetchAt s.pc s with
  | .ok (.instr i _, s1) => .ok (i, s1)
  | .ok (.illegal, s1) => trapAt 0x01 0 s1
  | .ok (.pool, s1) => trapAt 0x08 0 s1
  | .error (.fault c va) => trapAt c va s
  | .error (.bad va key) => trapBad va key s
  | .error (.page 0 va _) => .error (.park ⟨12, true, 0xFFFF, va, 32⟩ s)
  | .error (.page r va _) => pageWait r ⟨false, true, false⟩ va s.pc s
  | .error .beyond => .error (.fault .hbmBeyondEnd)

end Sys2Proof.Machine
end

