-- ==== Sys2Proof/Machine/Matrix.lean ====
section
/-! DEFINITION. Tile registers, accumulator memory and matrix instructions (chapter 09): acceptance at the engine siding,
and the effect of each command when the engine runs it. -/

namespace Sys2Proof.Machine

/-! ## Tiles (R192 to R194) -/

/-- Tile bytes stand in one store, 4,096 for each tile. -/
def State.tileBytes (s : State) (t : Nat) (off : Nat) : Nat → List Byte
  | 0 => []
  | n + 1 => sget 0 s.core.tiles (t * 4096 + off) :: s.tileBytes t (off + 1) n

def putTile (s : State) (t off : Nat) : List Byte → State
  | [] => s
  | b :: l => putTile { s with core := { s.core with tiles := sput 0 (t * 4096 + off) b s.core.tiles } } t (off + 1) l

/-- The tile as one little-endian number of 4,096 bytes (R193). -/
def State.tileNum (s : State) (t : Nat) : Nat := leNat (s.tileBytes t 0 4096)
/-- One row of a tile. -/
def State.tileRow (s : State) (t r : Nat) : List Byte := s.tileBytes t (64 * r) 64

/-- The exponent of an operand row. -/
def State.xr (s : State) (t r : Nat) : Int := sget 0 s.core.xr (t * 64 + r)
def State.setXr (s : State) (t r : Nat) (v : Int) : State :=
  { s with core := { s.core with xr := sput 0 (t * 64 + r) v s.core.xr } }

/-- Elements of a 64-byte row (R60, R62, R67). -/
def Fmt.perRow (f : Fmt) : Nat := 64 / f.size * f.per

/-- The lowest bit of element k of a row (R60, R67). -/
def elemPos (f : Fmt) (k : Nat) : Nat := k / f.per * (8 * f.size) + k % f.per * f.width

/-- Element k of a row of bytes. -/
def elemOf (f : Fmt) (row k : Nat) : Nat := row / 2 ^ elemPos f k % 2 ^ f.width

/-- A number built from elements with their indexes; every other bit is zero. -/
def packElems (f : Fmt) (l : List (Nat × Nat)) : Nat := (l.map fun p => p.2 % 2 ^ f.width * 2 ^ elemPos f p.1).sum

/-! ## Cells (R72 to R75, R195 to R197) -/

def State.cell (s : State) (i : Nat) : BitVec 40 := sget 0 s.core.acc (i % 65536)
def State.setCell (s : State) (i : Nat) (v : BitVec 40) : State :=
  { s with core := { s.core with
    acc := sput 0 (i % 65536) v s.core.acc, accBad := s.core.accBad.filter fun j => decide (j ≠ i % 65536) } }

/-- ACC.SAT gains bits: 1 SAT, 2 OVF, 4 NAN (R85). -/
def State.accRaise (s : State) (w : Word) : State := { s with core := { s.core with accSat := s.core.accSat ||| w } }

/-- CellValue of R196. -/
def cellValue (m : AccMode) (b : BitVec 40) : Exact :=
  match m with
  | .int40 => Exact.ofInt b.toInt
  | .q40 => if b = 0x8000000000 then .poison else Exact.ofFixed b.toInt (-24)
  | .fp40 => FFmt.fp40.decode b.toNat

/-- The largest count of 2^-24 in a Q40 cell. -/
def q40Max : Int := 2 ^ 39 - 1

/-- ToMode of R196, which is also the one write of R75: the cell and the bits set in ACC.SAT. -/
def toMode (m : AccMode) (x : Exact) : BitVec 40 × Word :=
  match m, x with
  | .int40, .nan _ => (0, 4)
  | .int40, .poison => (0, 4)
  | .int40, x =>
    let r := encodeInt true 40 x
    (BitVec.ofInt 40 r.1, if r.2 &&& Fl.sv ≠ 0 then 1 else 0)
  | .q40, .nan _ => (0x8000000000, 4)
  | .q40, .poison => (0x8000000000, 4)
  | .q40, .inf n => (BitVec.ofInt 40 (if n then -q40Max else q40Max), 1)
  | .q40, .fin n k e =>
    let r : Int := (roundTo false k (e + 24) 0).1
    let v := if n then -r else r
    let c := min (max v (-q40Max)) q40Max
    (BitVec.ofInt 40 c, if c = v then 0 else 1)
  | .fp40, .nan _ => (0x7FC0000000, 4)
  | .fp40, .poison => (0x7FC0000000, 4)
  | .fp40, x =>
    let r := FFmt.fp40.encode x
    (BitVec.ofNat 40 r.1, if r.2 &&& Fl.of ≠ 0 then 2 else 0)

/-- The bits of ACC.SAT that a conversion of a cell value records (R197). -/
def accFlags (f : Fl) : Word :=
  (if f &&& Fl.sv ≠ 0 then 1 else 0) ||| (if f &&& Fl.of ≠ 0 then 2 else 0) |||
    (if f &&& (Fl.nv ||| Fl.lp) ≠ 0 then 4 else 0)

/-- A cell written from an exact value. -/
def State.putCell (s : State) (i : Nat) (m : AccMode) (x : Exact) : State :=
  (s.setCell i (toMode m x).1).accRaise (toMode m x).2

/-- The mode and the fields of an x6 (R105). -/
def modeOf (x6 : Word) : AccMode :=
  match bits x6 16 2 with
  | 0 => .int40
  | 1 => .q40
  | _ => .fp40
def overOf (x6 : Word) : Bool := x6.getLsbD 18
def baseOf (x6 : Word) : Nat := bits x6 0 16

/-! ## Acceptance (R198 to R201, R203, R205) -/

/-- The scratchpad ranges of a command's operands, for x7's counter. -/
def enqueueMatrix (c : Cmd) (counted : Bool) (ranges : List Range) (n : Nat) (s : State) : Res State :=
  let cc := if counted then counterOf c.x7 else none
  if 16 ≤ s.core.mat.queue.length ∨ s.storeWaits c.owner ranges then parkOn 32 0 0 s
  else if s.counterFull cc then parkOn 32 0 0 s
  else match registerLocks c.id cc ranges s.core.locks with
    | none => parkOn 32 0 0 s
    | some l =>
      let s1 := { s with core := { s.core with
        locks := l
        cmdCtr := s.core.cmdCtr + 1
        mat := { s.core.mat with queue := s.core.mat.queue ++ [c] } } }
      .ok (((s1.countUp cc c.id).started n).advance 4)

/-- The check of R106 on x7, and on x6 where it is read. -/
def checkX (x6 x7 : Word) (reads6 : Bool) (s : State) : Res Unit :=
  if x7ok x7 && (!reads6 || x6ok x6) then .ok () else trapAt 0x01 0 s

/-- The address of row r of a tile access (R210). -/
def tileAddr (a stride : Word) (r : Nat) : Word := a + BitVec.ofNat 64 r * stride

/-- The stride of a tile access: 64 where the field names s0 (R210). -/
def strideOf (b : Fin 32) (v : Word) : Word := if b = 0 then 64 else v

/-- The checks on a row address, and the row's core and offset (R203). -/
def rowAt (va : Word) (s : State) : Res (Nat × Nat × Nat) := do
  let r ← engineCore va s
  if va.toNat % 64 ≠ 0 then trapAt 0x03 va s else .ok r

/-- The rows of a tile access. -/
def tileRows (a stride : Word) (s : State) : Nat → Res (List (Nat × Nat × Nat))
  | 0 => .ok []
  | n + 1 => do
    let r ← rowAt (tileAddr a stride (63 - n)) s
    let l ← tileRows a stride s n
    .ok (r :: l)

/-- The bank that holds a local offset of a core. -/
def State.bankOf (s : State) (x y off : Nat) : BankRef := ⟨s.ctxNo, x, y, off / 65536⟩

/-- The format of a pair's elements (R79, R203). -/
def pairFmt : Pair → Fmt
  | .i8 => .i8
  | .n8 => .n8
  | .i4 => .i4
  | .n4 => .n4
  | .lg6 => .lg6
  | .bf16 => .bf16
  | .f16 => .f16
  | .f32 => .f32

/-- The mode that a pair allows (R207). -/
def pairMode (p : Pair) (scaled : Bool) : AccMode :=
  match p with
  | .i8 | .n8 | .i4 | .n4 => .int40
  | .lg6 => if scaled then .fp40 else .q40
  | .bf16 | .f16 | .f32 => .fp40

/-- N of R208. -/
def rowsOf (nf : Fin 64) : Nat := if nf = 0 then 1024 else 16 * nf.val
/-- M of R208. -/
def MSize.rows : MSize → Nat
  | .m16 => 16
  | .m32 => 32
  | .m64 => 64

/-- The row-exponent bytes of N rows from a bank offset on. -/
def exponentRange (x y off n : Nat) (l : List Range) : List Range :=
  spanRanges x y (off / 65536 * 65536 + 64512 + off % 65536 / 64) n false l

/-- Acceptance of MMA and MMAS (R203, R205, R207). The illegal-instruction trap for a bank whose CODE is another gives the address
of B (log 86). -/
def acceptMma (own : Agent) (i : Instr) (p : Pair) (scaled : Bool) (nf : Fin 64) (b : Fin 32) (dl : Fin 8) (s : State) :
    Res State := do
  let c := s.command own i 0 b noLanes
  checkX c.x6 c.x7 true s
  if modeOf c.x6 ≠ pairMode p scaled then trapAt 0x01 0 s
  else
    let (x, y, off) ← engineCore c.b s
    let f := s.bankCode (s.bankOf x y off)
    if f ≠ .raw ∧ f ≠ pairFmt p then trapAt 0x01 c.b s
    else if c.b.toNat % 64 ≠ 0 then trapAt 0x03 c.b s
    else if off / 65536 ≠ (off + 64 * rowsOf nf - 1) / 65536 then trapAt 0x03 c.b s
    else
      let r := spanRanges x y off (64 * rowsOf nf) false []
      let r1 := if scaled && (s.fmtReg (s.bankOf x y off)).getLsbD 16 then exponentRange x y off (rowsOf nf) r else r
      enqueueMatrix c true r1 (s.me.start dl) s

def execMma (m : MSize) (nf : Fin 64) (t : Fin 8) (b : Fin 32) (p : Pair) (col mc : Bool) (dl : Fin 8) (s : State) :
    Host.Outcome State Fault Refusal :=
  finish (acceptMma s.owner (.mma m nf t b p col mc dl) p false nf b dl s)

def execMmas (m : MSize) (nf : Fin 64) (t : Fin 8) (b : Fin 32) (col mc : Bool) (dl : Fin 8) (s : State) :
    Host.Outcome State Fault Refusal :=
  finish (acceptMma s.owner (.mmas m nf t b col mc dl) .lg6 true nf b dl s)

/-- Acceptance of TLD and TST (R203, R205, R210). -/
def acceptTile (own : Agent) (i : Instr) (store : Bool) (a b : Fin 32) (dl : Fin 8) (s : State) : Res State := do
  let c := s.command own i a b noLanes
  checkX c.x6 c.x7 false s
  let st := strideOf b c.b
  if st.toInt % 64 ≠ 0 then trapAt 0x03 c.a s
  else
    let rows ← tileRows c.a st s 64
    enqueueMatrix c true (rows.foldl (fun l r => spanRanges r.1 r.2.1 r.2.2 64 store l) []) (s.me.start dl) s

def execTld (p : Port) (t : Fin 8) (a b : Fin 32) (dl : Fin 8) (s : State) : Host.Outcome State Fault Refusal :=
  finish (acceptTile s.owner (.tld p t a b dl) false a b dl s)

def execTst (p : Port) (t : Fin 8) (a b : Fin 32) (dl : Fin 8) (s : State) : Host.Outcome State Fault Refusal :=
  finish (acceptTile s.owner (.tst p t a b dl) true a b dl s)

def execTmov (p : Port) (t u : Fin 8) (dl : Fin 8) (s : State) : Host.Outcome State Fault Refusal :=
  finish do
    let c := s.command s.owner (.tmov p t u dl) 0 0 noLanes
    checkX c.x6 c.x7 false s
    enqueueMatrix c true [] (s.me.start dl) s

/-- Acceptance of an accumulator command without scratchpad operands (R212). -/
def acceptAcc (own : Agent) (i : Instr) (a b : Fin 32) (counted : Bool) (lanes : Vector Lane 64) (dl : Fin 8) (s : State) :
    Res State := do
  let c := s.command own i a b lanes
  checkX c.x6 c.x7 true s
  enqueueMatrix c counted [] (s.me.start dl) s

def execAccZero (a b : Fin 32) (dl : Fin 8) (s : State) : Host.Outcome State Fault Refusal :=
  finish (acceptAcc s.owner (.accZero a b dl) a b true noLanes dl s)

/-- The count of an ACC command (R212). -/
def accCount (b : Word) : Nat := min b.toNat 65536

/-- The bytes of the elements an ACC.LD or ACC.ST names (R205, R212): local offset and length. -/
def accSpan (s : State) (x y off n : Nat) : Nat × Nat :=
  let f := s.bankCode (s.bankOf x y off)
  if f = .raw then (off, 8 * n)
  else
    let e := elemIndex f (off % 65536)
    let lo := off / 65536 * 65536 + e / f.per * f.size
    let hi := off / 65536 * 65536 + min ((e + n - 1) / f.per * f.size + f.size) 65536
    (lo, hi - lo)

/-- Acceptance of ACC.LD and ACC.ST (R203, R205, R212). -/
def acceptAccMem (own : Agent) (i : Instr) (store : Bool) (a b : Fin 32) (dl : Fin 8) (s : State) : Res State := do
  let c := s.command own i a b noLanes
  checkX c.x6 c.x7 true s
  let (x, y, off) ← engineCore c.a s
  let f := s.bankCode (s.bankOf x y off)
  if f = .raw ∧ c.a.toNat % 8 ≠ 0 then trapAt 0x03 c.a s
  else
    let n := accCount c.b
    let sp := accSpan s x y off n
    enqueueMatrix c true (if n = 0 then [] else spanRanges x y sp.1 sp.2 store []) (s.me.start dl) s

def execAccLd (a b : Fin 32) (dl : Fin 8) (s : State) : Host.Outcome State Fault Refusal :=
  finish (acceptAccMem s.owner (.accLd a b dl) false a b dl s)

def execAccSt (a b : Fin 32) (dl : Fin 8) (s : State) : Host.Outcome State Fault Refusal :=
  finish (acceptAccMem s.owner (.accSt a b dl) true a b dl s)

/-- Acceptance of ACC.TOV: its vector register waits for the command's lanes (R201, R55). -/
def acceptTov (own : Agent) (t : AccTy) (v : Fin 16) (a : Fin 32) (dl : Fin 8) (s : State) : Res State := do
  let id := s.core.cmdCtr
  let s1 ← acceptAcc own (.accTov t v a dl) a 0 true noLanes dl s
  .ok (s1.setMe { s1.me with v := s1.me.v.set v ⟨s1.me.v[v].val, [], some id⟩ })

def execAccTov (t : AccTy) (v : Fin 16) (a : Fin 32) (dl : Fin 8) (s : State) : Host.Outcome State Fault Refusal :=
  finish (acceptTov s.owner t v a dl s)

/-- Acceptance of ACC.ADDV: the vector source is read at the start under R54 (R201). -/
def acceptAddv (own : Agent) (t : AccTy) (a : Fin 32) (v : Fin 16) (dl : Fin 8) (s : State) : Res State := do
  checkX (s.xreg 6) (s.xreg 7) true s
  let l ← readV (s.me.start dl) v s
  acceptAcc own (.accAddv t a v dl) a 0 true l dl s

def execAccAddv (t : AccTy) (a : Fin 32) (v : Fin 16) (dl : Fin 8) (s : State) : Host.Outcome State Fault Refusal :=
  finish (acceptAddv s.owner t a v dl s)

def execAccMode (dst : AccMode) (a b : Fin 32) (dl : Fin 8) (s : State) : Host.Outcome State Fault Refusal :=
  finish (acceptAcc s.owner (.accMode dst a b dl) a b true noLanes dl s)

/-- The first cell of an ACC command (R212). -/
def firstCell (x6 a : Word) : Nat := (baseOf x6 + bits a 0 16) % 65536

/-- ACC.RAW's read is performed once every older command of the queue has completed (R212). -/
def accRawRead (d a : Fin 32) (dl : Fin 8) (s : State) : Res State := do
  checkX (s.xreg 6) (s.xreg 7) true s
  if s.core.mat.queue.isEmpty && s.core.mat.running.isNone then
    if s.core.accBad.contains (firstCell (s.xreg 6) (s.reg a)) then trapBad 0 coreWord s
    else .ok ((s.started (s.me.start dl)).ret d ((s.cell (firstCell (s.xreg 6) (s.reg a))).zeroExtend 64))
  else parkOn 32 0 0 s

def execAccRaw (d a : Fin 32) (dl : Fin 8) (s : State) : Host.Outcome State Fault Refusal := finish (accRawRead d a dl s)

def execAccRawWr (a b : Fin 32) (dl : Fin 8) (s : State) : Host.Outcome State Fault Refusal :=
  finish (acceptAcc s.owner (.accRawWr a b dl) a b false noLanes dl s)

/-! ## What each command does (R208, R210 to R212) -/

/-- The product of two elements of a pair (R74, R207). -/
def product (p : Pair) (a b : Nat) : Exact :=
  match p with
  | .lg6 => match lg6Prod a b with
    | some v => Exact.ofFixed v (-24)
    | none => .poison
  | _ => (Exact.mul ((pairFmt p).decode a) ((pairFmt p).decode b)).1

/-- The exact sum of some terms; the sign of a zero sum is that of R75. -/
def sumTerms : List Exact → Exact
  | [] => Exact.zero
  | x :: l => l.foldl (fun a t => (Exact.add a t).1) x

/-- Operand row m of a tile: its K elements through a port (R193). -/
def operandRow (f : Fmt) (col : Bool) (tile m : Nat) : List Nat :=
  (List.range f.perRow).map fun k => if col then elemOf f tile (k * 64 + m) else elemOf f (tile / 2 ^ (512 * m) % 2 ^ 512) k

/-- One cell of R208: the products, the scale of MMAS and the prior value. -/
def cellSum (p : Pair) (a b : List Nat) (scale : Int) (prior : Option Exact) : Exact :=
  let l := List.zipWith (product p) a b
  match prior with
  | none => (sumTerms l).scale scale
  | some v => if p = .lg6 then (Exact.add ((sumTerms l).scale scale) v).1 else sumTerms (l ++ [v])

/-- The cells of one B row (R208). -/
def mmaRow (p : Pair) (ovr : Bool) (mode : AccMode) (base n nrows : Nat) (row : List Nat) (xb : Int) :
    List (Nat × List Nat × Int) → State → State
  | [], s => s
  | (m, a, xa) :: l, s =>
    let cell := (base + m * nrows + n) % 65536
    let prior := if ovr then none else some (cellValue mode (s.cell cell))
    mmaRow p ovr mode base n nrows row xb l (s.putCell cell mode (cellSum p a row (xa + xb) prior))

/-- The scale of a row of a local offset: none in a raw bank (R80). -/
def State.rowScale (s : State) (x y off : Nat) : Int :=
  let r := s.bankOf x y off
  if s.bankCode r = .raw then 0 else s.scaleAt r (off % 65536)

/-- The exponent that scales a row of a local offset is poisoned (R204). -/
def State.rowScaleBad (s : State) (x y off : Nat) : Bool :=
  let r := s.bankOf x y off
  decide (s.bankCode r ≠ .raw) && s.scaleBad r (off % 65536)

/-- A row exponent that a command reads and that lies beyond the allotment is remembered as any other byte (R204); `va` is the
address of the row's byte at the local offset. -/
def State.noteScale (s : State) (x y off : Nat) (va : Word) : State :=
  let r := s.bankOf x y off
  match s.rowExpOor r (off % 65536) with
  | some j => if s.bankCode r = .raw then s
    else { s with core := { s.core with mat := s.core.mat.note 1 (va - BitVec.ofNat 64 (off % 65536) + BitVec.ofNat 64 j) } }
  | none => s

/-- MMA and MMAS over their B rows; out-of-range bytes read as zero. -/
def mmaRows (p : Pair) (scaled ovr : Bool) (mode : AccMode) (base nrows x y off : Nat) (ops : List (Nat × List Nat × Int)) :
    List Nat → State → State
  | [], s => s
  | n :: l, s =>
    let o := off + 64 * n
    let row := leNat (s.engineBytes x y o 64)
    let xb := if scaled then s.rowScale x y o else 0
    let f := pairFmt p
    let es := (List.range f.perRow).map (elemOf f row)
    mmaRows p scaled ovr mode base nrows x y off ops l (mmaRow p ovr mode base n nrows es xb ops s)

/-- Why a command cannot run: a poisoned source word, with its address (R204). -/
abbrev Run := Except Word State

/-- The running command's first out-of-range byte is remembered. -/
def State.noteMat (s : State) (cause : Nat) (va : Word) : State :=
  { s with core := { s.core with mat := s.core.mat.note cause va } }

/-- The engine reads n bytes at an address: poison stops it, an out-of-range byte is remembered. The message names the address at
which the read starts (log 87). -/
def engineRead (x y off n : Nat) (va : Word) (s : State) : Except Word State :=
  if s.enginePoisoned x y off n then .error va
  else match s.engineFirstOor x y off n with
    | some (c, j) => .ok (s.noteMat c (va + BitVec.ofNat 64 j))
    | none => .ok s

/-- The core and offset an accepted command's address names. -/
def operandAt (va : Word) (s : State) : Nat × Nat × Nat :=
  match classify s va with
  | .scratch x y off => (x, y, off)
  | _ => (s.core.lx.val, s.core.ly.val, 524288)

/-- MMA and MMAS: every row is tested for poison before a cell is written (log 104). -/
def runMma (p : Pair) (scaled : Bool) (m : MSize) (nf : Fin 64) (t : Fin 8) (col : Bool) (c : Cmd) (s : State) : Run := do
  let (x, y, off) := operandAt c.b s
  let s1 ← if scaled && (List.range (rowsOf nf)).any (fun n => s.rowScaleBad x y (off + 64 * n)) then .error c.b
    else engineRead x y off (64 * rowsOf nf) c.b s
  let tile := s1.tileNum t.val
  let ops := (List.range (MSize.rows m)).map fun r =>
    (r, operandRow (pairFmt p) col tile r, if scaled then s1.xr t.val r else 0)
  let s2 := if scaled then
      (List.range (rowsOf nf)).foldl (fun a n => a.noteScale x y (off + 64 * n) (c.b + BitVec.ofNat 64 (64 * n))) s1
    else s1
  .ok (mmaRows p scaled (overOf c.x6) (modeOf c.x6) (baseOf c.x6) (rowsOf nf) x y off ops (List.range (rowsOf nf)) s2)

/-- The element format of a column access: that of the bank that holds row 0 (R210). -/
def State.columnFmt (s : State) (a : Word) : Fmt :=
  let (x, y, off) := operandAt a s
  match s.bankCode (s.bankOf x y off) with
  | .raw | .n8 => .i8
  | .n4 => .i4
  | .f16 => .bf16
  | .i32 => .f32
  | f => f

/-- The rows a tile load reads: bytes and scale of each (R210, R211). -/
def readRows (a st : Word) (s : State) : Nat → Except Word (List (List Byte × Int) × State)
  | 0 => .ok ([], s)
  | n + 1 => do
    let va := tileAddr a st (63 - n)
    let (x, y, off) := operandAt va s
    let s1 ← if s.rowScaleBad x y off then .error va else engineRead x y off 64 va s
    let (l, s2) ← readRows a st (s1.noteScale x y off va) n
    .ok ((s1.engineBytes x y off 64, s1.rowScale x y off) :: l, s2)

/-- The exponents of a tile written from row 0 on. -/
def putXrs (s : State) (t : Nat) (r : Nat) : List Int → State
  | [] => s
  | v :: l => putXrs (s.setXr t r v) t (r + 1) l

def runTld (p : Port) (t : Fin 8) (b : Fin 32) (c : Cmd) (s : State) : Run := do
  let (rows, s1) ← readRows c.a (strideOf b c.b) s 64
  let f := s1.columnFmt c.a
  let tileBytes := match p with
    | .row => rows.flatMap Prod.fst
    | .col => leBytes 4096 (packElems f ((List.zip rows (List.range 64)).flatMap fun q =>
        (List.range f.perRow).map fun k => (k * 64 + q.2, elemOf f (leNat q.1.1) k)))
  .ok (putXrs (putTile s1 t.val 0 tileBytes) t.val 0 (rows.map Prod.snd))

/-- The bytes of operand row r of a tile, as TST writes them (R210, R211). -/
def storedRow (s : State) (p : Port) (f : Fmt) (t : Nat) (r : Nat) : List Byte :=
  match p with
  | .row => s.tileRow t r
  | .col =>
    let tile := s.tileNum t
    leBytes 64 (packElems f ((List.range f.perRow).map fun k => (k, elemOf f tile (k * 64 + r))))

/-- A store by the engine at a local offset: out-of-range bytes are dropped and the first is remembered. -/
def engineStoreAt (x y off : Nat) (va : Word) (b : List Byte) (s : State) : State :=
  let s1 := match s.engineFirstOor x y off b.length with
    | some (c, j) => s.noteMat c (va + BitVec.ofNat 64 j)
    | none => s
  s1.engineWrite x y off b

/-- A store by the engine at an address. -/
def engineStore (va : Word) (b : List Byte) (s : State) : State :=
  let (x, y, off) := operandAt va s
  engineStoreAt x y off va b s

def storeRows (p : Port) (f : Fmt) (t : Nat) (a st : Word) : List Nat → State → State
  | [], s => s
  | r :: l, s => storeRows p f t a st l (engineStore (tileAddr a st r) (storedRow s p f t r) s)

def runTst (p : Port) (t : Fin 8) (b : Fin 32) (c : Cmd) (s : State) : Run :=
  .ok (storeRows p (s.columnFmt c.a) t.val c.a (strideOf b c.b) (List.range 64) s)

def runTmov (p : Port) (t u : Fin 8) (s : State) : Run :=
  match p with
  | .row =>
    .ok (putXrs (putTile s t.val 0 (s.tileBytes u.val 0 4096)) t.val 0 ((List.range 64).map (s.xr u.val)))
  | .col =>
    let src := s.tileBytes u.val 0 4096
    let moved := (List.range 4096).map fun i => src.getD (i % 64 * 64 + i / 64) 0
    .ok (putXrs (putTile s t.val 0 moved) t.val 0 (List.replicate 64 0))

/-- A function of each of n cells from a first one on. -/
def eachCell (f : Nat → Nat → State → State) (first : Nat) (n : Nat) (s : State) : State :=
  (List.range n).foldl (fun a j => f j ((first + j) % 65536) a) s

def runAccZero (c : Cmd) (s : State) : Run :=
  .ok (eachCell (fun _ i a => a.setCell i 0) (firstCell c.x6 c.a) (accCount c.b) s)

def runAccMode (dst : AccMode) (c : Cmd) (s : State) : Run :=
  .ok (eachCell (fun _ i a => a.putCell i dst (cellValue (modeOf c.x6) (a.cell i))) (firstCell c.x6 c.a) (accCount c.b) s)

/-- An element that ACC.LD or ACC.ST names in a typed bank. -/
def accElt (s : State) (c : Cmd) (j : Nat) : Elt :=
  let (x, y, off) := operandAt c.a s
  let r := s.bankOf x y off
  s.elt r (c.a - BitVec.ofNat 64 (off % 65536)) (elemIndex (s.bankCode r) (off % 65536) + j)

/-- The row exponent of an element that ACC.LD or ACC.ST names is remembered where it lies beyond the allotment. -/
def noteElt (c : Cmd) (r : BankRef) (f : Fmt) (e : Nat) (s : State) : State :=
  let off := r.bank * 65536 + e / f.per * f.size
  s.noteScale r.x r.y off (c.a - BitVec.ofNat 64 (operandAt c.a s).2.2 + BitVec.ofNat 64 off)

/-- One typed element loaded into a cell; an out-of-range element reads as zero, also in LG6, where a code of zeros is another
number (log 105). -/
def loadCell (c : Cmd) (j i : Nat) (s : State) : State :=
  match accElt s c j with
  | .ok r f e => (noteElt c r f e s).putCell i (modeOf c.x6) (s.readElt r f e)
  | .oor k va => (s.noteMat k va).putCell i (modeOf c.x6) Exact.zero

/-- One raw cell image loaded (R212). -/
def loadImage (c : Cmd) (j i : Nat) (s : State) : State :=
  let (x, y, off) := operandAt c.a s
  s.setCell i (BitVec.ofNat 40 (leNat (s.engineBytes x y (off + 8 * j) 8)))

/-- An element of a typed ACC.LD, or the exponent of its row, is poisoned (R204). -/
def poisonedElt (c : Cmd) (n : Nat) (s : State) : Bool :=
  (List.range n).any fun j => match accElt s c j with
    | .ok r f e => s.eltPoisoned r f e || s.scaleBad r (e / f.per * f.size)
    | .oor _ _ => false

/-- The exponent of a row that a typed ACC.ST divides by is poisoned (R204). -/
def poisonedScale (c : Cmd) (n : Nat) (s : State) : Bool :=
  (List.range n).any fun j => match accElt s c j with
    | .ok r f e => s.scaleBad r (e / f.per * f.size)
    | .oor _ _ => false

def runAccLd (c : Cmd) (s : State) : Run := do
  let (x, y, off) := operandAt c.a s
  let n := accCount c.b
  if s.bankCode (s.bankOf x y off) = .raw then
    let s1 ← engineRead x y off (8 * n) c.a s
    .ok (eachCell (loadImage c) (baseOf c.x6) n s1)
  else if poisonedElt c n s then .error c.a
  else .ok (eachCell (loadCell c) (baseOf c.x6) n s)

/-- One typed element stored from a cell, with the conversion's bits of ACC.SAT (R197, R212). The word stays poisoned also where
the elements of one command write all of it (log 107). -/
def storeCell (c : Cmd) (j i : Nat) (s : State) : State :=
  match accElt s c j with
  | .ok r f e =>
    let w := s.writeElt r f e (cellValue (modeOf c.x6) (s.cell i))
    (noteElt c r f e w.1).accRaise (accFlags w.2)
  | .oor k va => s.noteMat k va

/-- One cell image stored with bits [63:40] zero. -/
def storeImage (c : Cmd) (j i : Nat) (s : State) : State :=
  let (x, y, off) := operandAt c.a s
  engineStoreAt x y (off + 8 * j) (c.a + BitVec.ofNat 64 (8 * j)) (leBytes 8 (s.cell i).toNat) s

def runAccSt (c : Cmd) (s : State) : Run :=
  let (x, y, off) := operandAt c.a s
  if s.bankCode (s.bankOf x y off) = .raw then .ok (eachCell (storeImage c) (baseOf c.x6) (accCount c.b) s)
  else if poisonedScale c (accCount c.b) s then .error c.a
  else .ok (eachCell (storeCell c) (baseOf c.x6) (accCount c.b) s)

/-- A vector register that awaits the command receives its lanes (R55, R201). -/
def settleV (id : Nat) (v : Fin 16) (x : Vector Lane 64) (r : Vector VReg 16) : Vector VReg 16 :=
  if r[v].pend = some id then r.set v (r[v].settle x) else r

/-- A thread's register receives them, also where an uncommitted instruction still holds it. -/
def Thread.settle (t : Thread) (id : Nat) (v : Fin 16) (x : Vector Lane 64) : Thread :=
  { t with
    v := settleV id v x t.v
    window := t.window.map fun e => { e with late := e.late.map fun k => { k with v := settleV id v x k.v } } }

def State.giveLanes (s : State) (own : Agent) (id : Nat) (v : Fin 16) (x : Vector Lane 64) : State :=
  match own with
  | .pri => { s with pri := s.pri.settle id v x }
  | .aux => { s with aux := s.aux.settle id v x }
  | .mseq => { s with core := { s.core with mseq := { s.core.mseq with v := settleV id v x s.core.mseq.v } } }
  | .cseq => { s with core := { s.core with cseq := { s.core.cseq with v := settleV id v x s.core.cseq.v } } }

def runAccTov (t : AccTy) (v : Fin 16) (c : Cmd) (s : State) : Run :=
  let first := firstCell c.x6 c.a
  let r := gather ((List.range 64).map fun i => encLane t.fmt (cellValue (modeOf c.x6) (s.cell (first + i))))
  .ok ((s.giveLanes c.owner c.id v r.1).accRaise (accFlags r.2))

def runAccAddv (t : AccTy) (c : Cmd) (s : State) : Run :=
  let mode := modeOf c.x6
  .ok (eachCell (fun j i a =>
    let x := decLane t.fmt (laneAt c.lanes j)
    a.putCell i mode (if overOf c.x6 then x else (Exact.add (cellValue mode (a.cell i)) x).1)) (firstCell c.x6 c.a) 64 s)

def runAccRawWr (c : Cmd) (s : State) : Run := .ok (s.setCell (firstCell c.x6 c.a) (c.b.truncate 40))

/-- The effect of a matrix command. -/
def runMatrix (c : Cmd) (s : State) : Run :=
  match c.instr with
  | .mma m nf t _ p col _ _ => runMma p false m nf t col c s
  | .mmas m nf t _ col _ _ => runMma .lg6 true m nf t col c s
  | .tld p t _ b _ => runTld p t b c s
  | .tst p t _ b _ => runTst p t b c s
  | .tmov p t u _ => runTmov p t u s
  | .accZero _ _ _ => runAccZero c s
  | .accLd _ _ _ => runAccLd c s
  | .accSt _ _ _ => runAccSt c s
  | .accTov t v _ _ => runAccTov t v c s
  | .accAddv t _ _ _ => runAccAddv t c s
  | .accMode d _ _ _ => runAccMode d c s
  | .accRawWr _ _ _ => runAccRawWr c s
  | _ => .ok s

/-! ## Poisoned tile words and cells (R436, R437) -/

/-- A word of the tiles is an operand of a matrix command: for MMA the elements of its first M rows, through its port. -/
def readsTile (i : Instr) (w : Nat) : Bool :=
  let rows (p : Pair) (m : MSize) (t : Fin 8) (col : Bool) : Bool :=
    let f := pairFmt p
    decide (w / 512 = t.val) &&
      if col then (List.range f.perRow).any fun k => (List.range (MSize.rows m)).any fun r =>
        let b := elemPos f (k * 64 + r)
        decide (b / 64 ≤ w % 512) && decide (w % 512 ≤ (b + f.width - 1) / 64)
      else decide (w % 512 < 8 * MSize.rows m)
  match i with
  | .mma m _ t _ p col _ _ => rows p m t col
  | .mmas m _ t _ col _ _ => rows .lg6 m t col
  | .tst _ t _ _ _ => decide (w / 512 = t.val)
  | .tmov _ _ u _ => decide (w / 512 = u.val)
  | _ => false

/-- The cells that a matrix command reads: the first one, and how many. -/
def cellsRead (c : Cmd) : Nat × Nat :=
  let prior (n first : Nat) : Nat × Nat := if overOf c.x6 then (0, 0) else (first, n)
  match c.instr with
  | .mma m nf .. => prior (MSize.rows m * rowsOf nf) (baseOf c.x6)
  | .mmas m nf .. => prior (MSize.rows m * rowsOf nf) (baseOf c.x6)
  | .accSt _ _ _ => (baseOf c.x6, accCount c.b)
  | .accTov _ _ _ _ => (firstCell c.x6 c.a, 64)
  | .accAddv _ _ _ _ => prior 64 (firstCell c.x6 c.a)
  | .accMode _ _ _ _ => (firstCell c.x6 c.a, accCount c.b)
  | _ => (0, 0)

/-- A matrix command reads a poisoned word of a tile or a poisoned cell: it consumes the poison, after that of its scratchpad
operands, and performs no write (log 104). -/
def State.operandBad (s : State) (c : Cmd) : Bool :=
  let r := cellsRead c
  s.core.tileBad.any (readsTile c.instr) || s.core.accBad.any fun i => decide ((i + 65536 - r.1) % 65536 < r.2)

/-- A tile that a command writes whole holds good data. -/
def State.goodTile (s : State) (i : Instr) : State :=
  let good (t : Fin 8) : State := { s with core := { s.core with tileBad := s.core.tileBad.filter fun w => decide (w / 512 ≠ t.val) } }
  match i with
  | .tld _ t _ _ _ => good t
  | .tmov _ t _ _ => good t
  | _ => s

/-! ## Accounting (R411, R419) -/

/-- The matrix-cycles of a command: the counter of its pair, and how many (R202, R419). -/
def matrixCycles : Instr → Option (Nat × Nat)
  | .mma _ nf _ _ p _ _ _ => some (match p with
    | .i4 | .n4 => 1
    | .lg6 => 2
    | .i8 | .n8 => 3
    | .bf16 | .f16 => 4
    | .f32 => 5, rowsOf nf)
  | .mmas _ nf .. => some (2, rowsOf nf)
  | _ => none

/-- The matrix-cycles of a command that starts count for the domain (R419); the ramp limiter counts each in the microsecond in which the
engine runs it. -/
def State.countMatrix (s : State) (i : Instr) : State :=
  match matrixCycles i with
  | some (w, n) =>
    let s1 := s.account w n
    { s1 with power := { s1.power with rampOwed := n } }
  | none => { s with power := { s.power with rampOwed := 0 } }

/-- The matrix-cycles that one engine of a cluster can run in a microsecond: the cycles of its clock (R17). -/
def Power.rate (p : Power) (k : Nat) : Nat := if p.clocks.getLsbD k then 1400 else 900

/-- The upper bound of a cluster's count in the running microsecond (R411). -/
def Power.rampTop (p : Power) (k : Nat) : Nat := min (sget 0 p.rampPrev k + p.ramp) (4 * p.rate k)

/-- The matrix-cycles of the running command that this core's engine can still run in the running microsecond (R411): above the bound the
limiter puts empty slots, in which no row starts. -/
def State.rampRoom (s : State) : Nat :=
  let k := clusterOf s.core.phys
  min (s.power.rate k - s.power.rampOwn) (s.power.rampTop k - sget 0 s.power.rampNow k)

/-- This core's engine runs n matrix-cycles of its command. -/
def State.runRows (s : State) (n : Nat) : State :=
  let k := clusterOf s.core.phys
  { s with power := { s.power with
      rampOwed := s.power.rampOwed - n, rampOwn := s.power.rampOwn + n
      rampNow := sput 0 k (sget 0 s.power.rampNow k + n) s.power.rampNow } }

/-! ## Events -/

/-- MATRIX_COMMAND_START (R199, R202, R204): the engine takes the oldest command and performs its reads and writes; a
poisoned source ends the launch instead. -/
def execMatrixCommandStart (s : State) : Host.Outcome State Fault Refusal :=
  match s.core.mat.running, s.core.mat.queue with
  | none, c :: q =>
    let s1 := { s with core := { s.core with mat := ⟨q, some c, none, none⟩ } }
    match runMatrix c s1 with
    | .ok s2 => .next (if s1.operandBad c then engineBad coreWord 0 c.pc c.tag c.owner s1 else (s2.goodTile c.instr).countMatrix c.instr)
    | .error va => .next (engineBad coreWord va c.pc c.tag c.owner s1)
  | _, _ => .next s

/-- MATRIX_COMMAND_COMPLETE (R200, R204, R205): the running command's locks are freed and its counter falls. It runs its last
matrix-cycles, which the ramp limiter must let it (R411). -/
def execMatrixCommandComplete (s : State) : Host.Outcome State Fault Refusal :=
  match s.core.mat.running with
  | some c =>
    if s.rampRoom < s.power.rampOwed then .next s
    else
      let s1 := (s.runRows s.power.rampOwed).endCommand s.core.mat c
      .next { s1 with core := { s1.core with mat := { s1.core.mat with running := none, oor := none } } }
  | none => .next s

end Sys2Proof.Machine
end

