-- ==== Sys2Proof/Machine/Copy.lean ====
section
/-! DEFINITION. Copies, completion counters, range-lock queries, engine sequencers and tile-task records (R287 to
R306). -/

namespace Sys2Proof.Machine

/-! ## The shape of a copy (R297) -/

/-- The MODE of an x4. -/
inductive CopyMode where
  | plain | fill | add | ring
  deriving DecidableEq, Repr

def copyMode (x4 : Word) : CopyMode :=
  match bits x4 62 2 with
  | 0 => .plain
  | 1 => .fill
  | 2 => .add
  | _ => .ring

/-- The reserved bits of an x4 are zero. -/
def x4ok (two : Bool) (x4 : Word) : Bool :=
  if two then decide (bits x4 24 8 = 0) && decide (bits x4 56 6 = 0) else decide (bits x4 32 30 = 0)

/-- A run of bytes that a copy moves: source, destination and length. -/
structure CopyRow where
  src : Word
  dst : Word
  len : Nat
  deriving DecidableEq, Repr

/-- The first destination byte: a ring push writes from the slot's payload on. -/
def copyDst (c : Cmd) : Word := if copyMode c.x4 = .ring then c.a + 8 else c.a

/-- The rows of a copy; one that moves nothing has none. -/
def copyRows (two : Bool) (c : Cmd) : List CopyRow :=
  if two then
    let n := bits c.x4 0 24
    if n = 0 then [] else (List.range (bits c.x4 32 24)).map fun j =>
      ⟨c.b + BitVec.ofNat 64 j * c.x5, copyDst c + BitVec.ofNat 64 (j * n), n⟩
  else if bits c.x4 0 32 = 0 then [] else [⟨c.b, copyDst c, bits c.x4 0 32⟩]

/-- The first row of a copy, also of one that moves nothing: the addresses and the row length that the checks of R298 test. -/
def firstRow (two : Bool) (c : Cmd) : CopyRow := ⟨c.b, copyDst c, if two then bits c.x4 0 24 else bits c.x4 0 32⟩

/-- The bytes a copy moves in all. -/
def copyLength (two : Bool) (x4 : Word) : Nat := if two then bits x4 0 24 * bits x4 32 24 else bits x4 0 32

/-- The code of the bank that an address lies in; raw where it is not scratchpad. -/
def State.codeAt (s : State) (va : Word) : Fmt :=
  match s.bankAt va with
  | some (r, _, _) => s.bankCode r
  | none => .raw

/-- How a row is moved: as bytes, as converted elements, or added to the destination's elements. -/
inductive RowKind where
  | bytes | convert (f g : Fmt) | add (f g : Fmt)
  deriving DecidableEq, Repr

/-- A ring push moves bytes, also between two banks whose codes are not raw (R297, log 109). -/
def rowKind (m : CopyMode) (r : CopyRow) (s : State) : RowKind :=
  let f := s.codeAt r.src
  let g := s.codeAt r.dst
  match m with
  | .ring => .bytes
  | .add => .add f g
  | _ => if f ≠ .raw ∧ g ≠ .raw then .convert f g else .bytes

/-- The elements that a row's source bytes hold; a raw source is read as elements of the destination's code. -/
def rowCount (k : RowKind) (len : Nat) : Nat :=
  match k with
  | .bytes => len
  | .convert f _ => len / f.size * f.per
  | .add f g => let h := if f = .raw then g else f; len / h.size * h.per

/-- The bytes of the destination that a row touches, from its first container on. -/
def rowExtent (k : RowKind) (r : CopyRow) (s : State) : Nat :=
  match k with
  | .bytes => r.len
  | .convert _ g | .add _ g =>
    match s.bankAt r.dst with
    | some (_, _, off) =>
      let e := elemIndex g off
      min ((e + rowCount k r.len - 1) / g.per * g.size + g.size) 65536 - off
    | none => r.len

/-! ## Acceptance (R288, R293, R297, R298) -/

/-- An address that a copy may name: not in event space or beyond R140, and not refused (R143). -/
def copyAddr (va : Word) (s : State) : Res Unit :=
  match classify s va with
  | .protect => trapAt 0x03 va s
  | .event => trapAt 0x03 va s
  | .scratch x y _ => if s.refuses va x y then trapAt 0x03 va s else .ok ()
  | _ => .ok ()

/-- Whole containers of R160. -/
def wholeContainers (k : RowKind) (r : CopyRow) : Bool :=
  match k with
  | .bytes => true
  | .convert f g => decide (r.src.toNat % f.size = 0 ∧ r.len % f.size = 0 ∧ r.dst.toNat % g.size = 0)
  | .add f g => let h := if f = .raw then g else f
    decide (r.src.toNat % h.size = 0 ∧ r.len % h.size = 0 ∧ r.dst.toNat % g.size = 0)

/-- A destination in add mode: scratchpad, in a bank whose code is not raw. -/
def addDst (r : CopyRow) (s : State) : Bool := (s.bankAt r.dst).isSome && decide (s.codeAt r.dst ≠ .raw)

/-- The checks on one row. -/
def checkRow (m : CopyMode) (r : CopyRow) (s : State) : Res Unit := do
  copyAddr r.src s
  copyAddr r.dst s
  if m = .add ∧ !addDst r s then trapAt 0x03 r.dst s
  else if !wholeContainers (rowKind m r s) r then trapAt 0x03 r.dst s else .ok ()

def checkRows (m : CopyMode) (s : State) : List CopyRow → Res Unit
  | [] => .ok ()
  | r :: l => do
    checkRow m r s
    checkRows m s l

/-- A page of the destination is known to be host or peer memory. -/
def farPage (va : Word) (n : Nat) (s : State) : Bool := (pagesOf va n s).any fun p => decide (2 ^ 60 ≤ p.2)

/-- The subscription whose slot a ring push gives (R297, R310). -/
def State.givableSub (s : State) (va : Word) : Option (Fin 8 × Sub) :=
  (List.finRange 8).findSome? fun e => match s.core.subs[e] with
    | some u => if u.givable va then some (e, u) else none
    | none => none

/-- The bytes of the destination that a copy writes in all: those of the converted elements where it converts. -/
def destLength (two : Bool) (c : Cmd) (s : State) : Nat :=
  ((copyRows two c).map fun r => rowExtent (rowKind (copyMode c.x4) r s) r s).sum

/-- The check of a copy's mode on the whole copy (R298). -/
def checkMode (two : Bool) (c : Cmd) (s : State) : Res Unit :=
  let n := copyLength two c.x4
  match copyMode c.x4 with
  | .fill =>
    if c.a.toNat % 8 ≠ 0 ∨ destLength two c s % 8 ≠ 0 ∨ farPage c.a (max n 1) s then trapAt 0x03 c.a s else .ok ()
  | .ring => match s.givableSub c.a with
    | some (_, u) => if u.rows * u.rowb < n then trapAt 0x03 c.a s else .ok ()
    | none => trapAt 0x03 c.a s
  | _ => .ok ()

/-- The scratchpad range of n bytes at an address. -/
def copyRange (va : Word) (n : Nat) (dest : Bool) (s : State) (l : List Range) : List Range :=
  match classify s va with
  | .scratch x y off => spanRanges x y off n dest l
  | _ => l

def copyRanges (m : CopyMode) (s : State) (rows : List CopyRow) : List Range :=
  rows.foldl (fun l r => copyRange r.dst (rowExtent (rowKind m r s) r s) true s (copyRange r.src r.len false s l)) []

/-- The location of a word, where its address translates. -/
def State.wordKey (s : State) (va : Word) : Option Nat :=
  match engineSites false va 8 s with
  | .ok (.loc l :: _, _) => some l.key
  | _ => none

/-- Two addresses name one word, be they equal or aliases (R264). -/
def State.sameWord (s : State) (a b : Word) : Bool := decide (a = b) || ((s.wordKey a).isSome && decide (s.wordKey a = s.wordKey b))

/-- The effect bits of a task record that one of its copies, of so many destination bytes, sets: 1 ATOM, 2 FILL, 4 RING (R306). A record
whose word 6 is 0 has no FUT (R303). -/
def effBits (c : Cmd) (t : Task) (len : Nat) (s : State) : Nat :=
  match copyMode c.x4 with
  | .plain => 0
  | .fill => if t.words[6] ≠ 0 ∧ s.sameWord c.a t.words[6] ∧ len = 8 then 0 else 2
  | .add => 1
  | .ring => 4

def State.task (s : State) (r : Nat) : Option Task := sget none s.tasks r
def State.setTask (s : State) (r : Nat) (t : Option Task) : State := { s with tasks := sput none r t s.tasks }

/-- The record of a copy notes its effect. -/
def State.markEff (s : State) (c : Cmd) (len : Nat) : State :=
  match c.record with
  | none => s
  | some r => match s.task r with
    | none => s
    | some t => s.setTask r (some { t with eff := t.eff ||| effBits c t len s })

/-- The L1 beside an accepted copy (R288). -/
def flushCopy (s : State) (rows : List CopyRow) : State :=
  rows.foldl (fun a r => flushRange true r.dst r.len (flushRange false r.src r.len a)) s

/-- Acceptance of CPY and CPY2D. -/
def acceptCopy (two : Bool) (own : Agent) (i : Instr) (a b : Fin 32) (s : State) : Res State := do
  let c := s.command own i a b noLanes
  if !(x4ok two c.x4 && x7ok c.x7) then trapAt 0x01 0 s
  else do
    copyAddr c.b s
    copyAddr c.a s
    checkMode two c s
    let rows := copyRows two c
    let m := copyMode c.x4
    checkRows m s (firstRow two c :: rows)
    let cc := counterOf c.x7
    if 16 ≤ s.core.cpy.queue.length ∨ s.storeWaits c.owner (copyRanges m s rows) then parkOn 32 0 0 s
    else if s.counterFull cc then parkOn 32 0 0 s
    else match registerLocks c.id cc (copyRanges m s rows) s.core.locks with
      | none => parkOn 32 0 0 s
      | some l =>
        let s1 := { s with core := { s.core with
          locks := l
          cmdCtr := s.core.cmdCtr + 1
          cpy := { s.core.cpy with queue := s.core.cpy.queue ++ [c] } } }
        .ok ((flushCopy ((s1.countUp cc c.id).markEff c (destLength two c s)) rows).advance 4)

def execCpy (a b : Fin 32) (s : State) : Host.Outcome State Fault Refusal :=
  finish (acceptCopy false s.owner (.cpy a b) a b s)

def execCpy2d (a b : Fin 32) (s : State) : Host.Outcome State Fault Refusal :=
  finish (acceptCopy true s.owner (.cpy2d a b) a b s)

/-! ## What a copy does (R82, R297) -/

/-- A row with its sites, translated before anything moves. -/
structure RowPlan where
  row : CopyRow
  kind : RowKind
  src : List Site
  dst : List Site
  deriving DecidableEq, Repr

/-- Element i after the one at an address of a bank. -/
def State.eltAt (s : State) (va : Word) (i : Nat) : Elt :=
  match s.bankAt va with
  | some (r, va0, off) => s.elt r va0 (elemIndex (s.bankCode r) off + i)
  | none => .oor 0 va

/-- The key of a poisoned word among an element's row exponent and, where asked for, its own word. -/
def State.badElt (s : State) (own : Bool) : Elt → Option Nat
  | .ok r f e =>
    let off := e / f.per * f.size
    if own && s.eltPoisoned r f e then some (r.key off) else (s.rowExp r off).filter s.poisoned
  | .oor _ _ => none

/-- The first poisoned word that a converting or adding row reads beside its source bytes: a row exponent of the source or the
destination (R80), or a destination word that it adds to (R437). -/
def badRow (k : RowKind) (r : CopyRow) (s : State) : Option (Word × Nat) :=
  let n := rowCount k r.len
  let scan (own : Bool) (va : Word) : Option (Word × Nat) :=
    ((List.range n).findSome? fun i => s.badElt own (s.eltAt va i)).map fun key => (va, key)
  match k with
  | .bytes => none
  | .convert _ _ => scan false r.src <|> scan false r.dst
  | .add f _ => (if f = .raw then none else scan false r.src) <|> scan true r.dst

/-- The rows of a copy translated; a poisoned source word is a fault (R298), as is any other that it reads (R437). -/
def planRows (m : CopyMode) : List CopyRow → State → Except Stall (List RowPlan × State)
  | [], s => .ok ([], s)
  | r :: l, s => do
    let k := rowKind m r s
    let (a, s1) ← engineSites false r.src r.len s
    let (b, s2) ← engineSites true r.dst (rowExtent k r s) s1
    if a.any s2.siteBad then .error (.bad r.src (s2.firstBad a))
    else match badRow k r s2 with
      | some (va, key) => .error (.bad va key)
      | none => do
        let (p, s3) ← planRows m l s2
        .ok (⟨r, k, a, b⟩ :: p, s3)

/-- What a row's source holds before anything is written: its bytes, its converted elements, or the bits of elements
whose scale is the destination's. -/
inductive Moved where
  | bytes (l : List Byte)
  | exact (l : List Exact)
  | plain (l : List Nat)

/-- The exact value of an element; an out-of-range one reads as zero. -/
def State.eltValue (s : State) : Elt → Exact
  | .ok r f e => s.readElt r f e
  | .oor _ _ => Exact.zero

/-- The bits of element i of raw bytes laid out in a format. -/
def rawElt (f : Fmt) (b : List Byte) (i : Nat) : Nat :=
  leNat ((b.drop (i / f.per * f.size)).take f.size) / 2 ^ (i % f.per * f.width) % 2 ^ f.width

def readRow (p : RowPlan) (s : State) : Moved :=
  let n := rowCount p.kind p.row.len
  match p.kind with
  | .bytes => .bytes (p.src.map s.siteByte)
  | .convert _ _ => .exact ((List.range n).map fun i => s.eltValue (s.eltAt p.row.src i))
  | .add f g =>
    if f = .raw then .plain ((List.range n).map (rawElt g (p.src.map s.siteByte)))
    else .exact ((List.range n).map fun i => s.eltValue (s.eltAt p.row.src i))

/-- A running copy's first out-of-range byte is remembered. -/
def State.noteCpy (s : State) (x : Option (Nat × Word)) : State :=
  match x with
  | some (c, va) => { s with core := { s.core with cpy := s.core.cpy.note c va } }
  | none => s

/-- The first out-of-range element of a run. -/
def State.eltOor (s : State) (va : Word) (n : Nat) : Option (Nat × Word) :=
  (List.range n).findSome? fun i => match s.eltAt va i with
    | .oor c a => some (c, a)
    | .ok _ _ _ => none

/-- Element i of the destination written or added to. The spec names no thread whose FP.FLAGS a copy's conversion would raise: it
raises none (R84, log 83). -/
def moveElt (add : Bool) (va : Word) (i : Nat) (x : Exact) (s : State) : State :=
  match s.eltAt va i with
  | .ok r f e => if add then (s.writeElt r f e (Exact.add (s.readElt r f e) x).1).1 else (s.writeElt r f e x).1
  | .oor _ _ => s

/-- A raw source element with the scale of the destination row it is added to (R297). -/
def scaledElt (va : Word) (i v : Nat) (s : State) : Exact :=
  match s.eltAt va i with
  | .ok r f e => (f.decode v).scale (s.scaleAt r (e / f.per * f.size))
  | .oor _ _ => Exact.zero

def moveElts (add : Bool) (va : Word) : Nat → List Exact → State → State
  | _, [], s => s
  | i, x :: l, s => moveElts add va (i + 1) l (moveElt add va i x s)

def movePlain (va : Word) : Nat → List Nat → State → State
  | _, [], s => s
  | i, v :: l, s => movePlain va (i + 1) l (moveElt true va i (scaledElt va i v s) s)

/-- One row written. -/
def writeRow (m : CopyMode) (p : RowPlan) (x : Moved) (s : State) : State :=
  let n := rowCount p.kind p.row.len
  match x with
    | .bytes b => cleanRun (putSites (s.noteCpy (firstOor p.row.src p.src <|> firstOor p.row.dst p.dst)) p.dst b) p.dst
    | .exact l =>
      let a := moveElts (decide (m = .add)) p.row.dst 0 l
        (s.noteCpy (s.eltOor p.row.src n <|> s.eltOor p.row.dst n))
      if m = .add then a else cleanRun a p.dst
    | .plain l => movePlain p.row.dst 0 l (s.noteCpy (firstOor p.row.src p.src <|> s.eltOor p.row.dst n))

/-- The words of which rows together write every byte, as packed rows do, hold good data (R147). -/
def cleanCovered (s : State) (l : List Nat) : State := (wordsIn l).foldl (fun a k => a.setPoison k false) s

/-- Every row is read before any row is written (R297); fill mode then sets the tag of every word of the destination. -/
def moveRows (m : CopyMode) (l : List RowPlan) (s : State) : State :=
  let s1 := (List.zip l (l.map fun p => readRow p s)).foldl (fun a q => writeRow m q.1 q.2 a) s
  let keys := siteKeys (l.flatMap RowPlan.dst)
  let s2 := if l.length ≤ 1 ∨ m = .add then s1 else cleanCovered s1 keys
  if m = .fill then keys.foldl (fun a k => a.setTag k true) s2 else s2

/-- A copy is of the two-dimensional form. -/
def isTwo : Instr → Bool
  | .cpy2d _ _ => true
  | _ => false

/-- A running copy that faults ends there, with the launch's terminal fault (R298): its locks are free and its counter falls. -/
def failCopy (c : Cmd) (cause : Nat) (va : Word) (s : State) : State :=
  let s1 := (engineFault cause va c.pc c.tag c.owner s).endCommand s.core.cpy c
  { s1 with core := { s1.core with cpy := { s1.core.cpy with running := none, parked := none, oor := none } } }

/-- A copy that the engine has taken runs, parks on a page, or faults (R298). A fill whose page was absent at its acceptance, and that
proves to be host or peer memory, faults here (log 112). -/
def runCopy (c : Cmd) (s : State) : Host.Outcome State Fault Refusal :=
  let m := copyMode c.x4
  match planRows m (copyRows (isTwo c.instr) c) s with
  | .ok (p, s1) =>
    let s2 := p.foldl (fun a q => let b := (a.countPages q.src).countPages q.dst; if m = .add then b.linkRun q.dst else b) s1
    if m = .fill ∧ p.any (fun q => q.dst.any fun x => match x with
        | .loc l => !l.tagged
        | _ => false) then .next (failCopy c 0x03 c.a s)
    else .next (moveRows m p s2)
  | .error (.page r va w) =>
    let (park, s1) := postEngine r va w false c.owner c.pc s
    .next { s1 with core := { s1.core with cpy := { s1.core.cpy with parked := some park } } }
  | .error (.fault k va) => .next (failCopy c k va s)
  | .error (.bad va key) => .next (failCopy c 0x05 va (s.logPoison 0x05 key))
  | .error .beyond => .fault .hbmBeyondEnd

/-- COPY_COMMAND_START (R297, R298): the engine takes the oldest copy and moves its bytes, or a parked copy whose record
has been answered tries again. -/
def execCopyCommandStart (s : State) : Host.Outcome State Fault Refusal :=
  match s.core.cpy.running, s.core.cpy.queue with
  | none, c :: q => runCopy c { s with core := { s.core with cpy := ⟨q, some c, none, none⟩ } }
  | some c, _ =>
    match s.core.cpy.parked with
    | none => .next s
    | some p =>
      let s1 := { s with core := { s.core with cpy := { s.core.cpy with parked := none } } }
      match parkAnswer p c.owner c.pc s with
      | .wait q t => .next { t with core := { t.core with cpy := { t.core.cpy with parked := some q } } }
      | .fail => .next (failCopy c 0x03 p.va s1)
      | .retry => runCopy c s1
  | none, [] => .next s

/-- A ring push gives its slot as SLOT.GIVE does (R297); a slot that a thread has given before gives nothing (log 114). -/
def givePushed (c : Cmd) (s : State) : State :=
  if copyMode c.x4 = .ring then match s.givableSub c.a with
    | some (e, u) => s.giveSlot e u
    | none => s
  else s

/-- COPY_COMMAND_COMPLETE (R290, R293): locks are freed and the counter falls. -/
def execCopyCommandComplete (s : State) : Host.Outcome State Fault Refusal :=
  match s.core.cpy.running, s.core.cpy.parked with
  | some c, none =>
    let s1 := (givePushed c s).endCommand s.core.cpy c
    .next { s1 with core := { s1.core with cpy := { s1.core.cpy with running := none, oor := none } } }
  | _, _ => .next s

/-! ## Counters and locks as a thread sees them (R291, R292, R296) -/

def execCcWait (i : Fin 16) (b : Fin 32) (s : State) : Host.Outcome State Fault Refusal :=
  let n := max 1 (s.reg b).toNat
  finish (if s.core.cc[i].toNat < n then .ok ((s.acquire .clu).advance 4) else parkOn 32 0 0 s)

def execCcRead (d : Fin 32) (i : Fin 16) (s : State) : Host.Outcome State Fault Refusal :=
  .next (s.ret d (s.core.cc[i].zeroExtend 64))

/-- The record of RL.QRY for a byte of a bank. -/
def lockRecord (l : List Lock) (x y bank off : Nat) : Word :=
  let mine := l.filter fun k => decide (k.x = x) && decide (k.y = y) && decide (k.bank = bank)
  let free := (4 - mine.length) * 2 ^ 58
  match ([0, 1, 2, 3].findSome? fun j => mine.find? fun k => decide (k.slot = j) && decide (k.lo ≤ off) && decide (off ≤ k.hi)) with
  | none => BitVec.ofNat 64 free
  | some k => BitVec.ofNat 64 (2 ^ 63 + (if k.dest then 2 ^ 62 else 0) + free + k.hi % 65536 * 65536 + k.lo % 65536 +
      match k.counter with
      | some c => c.val * 2 ^ 48
      | none => 2 ^ 61)

/-- RL.QRY (R296), at the port of the bank: an older STP of the thread to that bank is performed first. -/
def execRlQry (d a : Fin 32) (s : State) : Host.Outcome State Fault Refusal :=
  let va := s.reg a
  finish (match classify s va with
    | .scratch x y off =>
      if s.refuses va x y then trapAt 0x03 va s
      else if s.me.journal.toList.any fun e => e.waits && decide (bits e.addr 16 13 = (y * 32 + x) * 8 + off / 65536) then parkOn 32 va 0 s
      else match s.scratchSite x y off with
        | .oor c => .ok ((s.noteRange c va).ret d 0)
        | _ => .ok (s.ret d (lockRecord s.core.locks x y (off / 65536) (off % 65536)))
    | .gap => .ok ((s.noteRange 2 va).ret d 0)
    | _ => trapAt 0x03 va s)

/-! ## FORK and RDV (R300, R301) -/

def State.seqr (s : State) (q : SeqId) : Sequencer :=
  match q with
  | .matrix => s.core.mseq
  | .copy => s.core.cseq

def State.setSeqr (s : State) (q : SeqId) (x : Sequencer) : State :=
  match q with
  | .matrix => { s with core := { s.core with mseq := x } }
  | .copy => { s with core := { s.core with cseq := x } }

/-- The sequencers that a FORK names. -/
def forked : ForkSel → List SeqId
  | .matrix => [.matrix]
  | .copy => [.copy]
  | .both => [.matrix, .copy]

/-- The start address that a FORK gives a sequencer. -/
def State.startOf (s : State) : SeqId → Word
  | .matrix => s.xreg 2
  | .copy => s.xreg 3

/-- A thread's mark that a sequencer it forked since its last RDV has not performed EXIT. -/
def Thread.setFork (t : Thread) (q : SeqId) (b : Bool) : Thread :=
  match q with
  | .matrix => { t with forkM := b }
  | .copy => { t with forkC := b }

/-- A sequencer starts a program with the forking thread's x registers. -/
def startSeq (cc : Option (Fin 16)) (s : State) (q : SeqId) : State :=
  let id := s.core.cmdCtr
  let x : Sequencer := { Sequencer.reset with
    running := true, pc := s.startOf q, x := s.me.x, owner := s.owner, fork := id }
  let s1 := (s.setSeqr q x).setMe (s.me.setFork q true)
  { s1 with core := { s1.core with cmdCtr := id + 1 } }.countUp cc id

/-- Room for n increments of a counter. A FORK of both sequencers waits for room for both (R300, log 92). -/
def State.counterRoom (s : State) (c : Option (Fin 16)) (n : Nat) : Bool :=
  match c with
  | some i => decide (s.core.cc[i].toNat + n ≤ 255)
  | none => true

def execFork (q : ForkSel) (s : State) : Host.Outcome State Fault Refusal :=
  let l := forked q
  let x7 := s.xreg 7
  finish (
    if !x7ok x7 then trapAt 0x01 0 s
    else match l.find? fun k => (s.startOf k).getLsbD 0 with
      | some k => trapAt 0x03 (s.startOf k) s
      | none =>
        if l.any fun k => (s.seqr k).running then parkOn 32 0 0 s
        else if !s.counterRoom (counterOf x7) l.length then parkOn 32 0 0 s
        else .ok ((l.foldl (startSeq (counterOf x7)) s).advance 4))

/-- RDV: its commands' writes are visible to every later access of the thread (R287, R301). -/
def execRdv (s : State) : Host.Outcome State Fault Refusal :=
  finish (if s.me.forkM || s.me.forkC then parkOn 32 0 0 s else .ok ((s.acquire .clu).advance 4))

/-! ## The sequencers (R112, R299) -/

/-- A sequencer's registers as those of the performing thread. -/
def State.asSeq (s : State) (x : Sequencer) : State :=
  { s with
    cur := .pri
    pri := { Thread.reset with s := x.s, x := x.x, v := x.v, pc := x.pc, nom := x.nom, run := .running, lastTag := 0 } }

/-- The sequencer's registers after an instruction, and the threads as they were; an access of the shared L1 that the far side will
acknowledge counts for the thread (R284). -/
def State.fromSeq (s t : State) (q : SeqId) : State :=
  { t.setSeqr q { t.seqr q with s := t.pri.s, x := t.pri.x, v := t.pri.v, nom := t.pri.nom, pc := t.pri.pc } with
    pri := { s.pri with unacked := s.pri.unacked + t.pri.unacked }
    cur := s.cur }

/-- A sequencer as the giver of its commands. -/
def seqAgent : SeqId → Agent
  | .matrix => .mseq
  | .copy => .cseq

/-- A branch of a sequencer: hint bits are ignored. -/
def seqBranch (taken : Bool) (dest fall : Word) (s : State) : Res State := .ok (s.goto (if taken then dest else fall))

/-- One instruction of the subset of R112, on the overlaid registers; none for any other. EXIT is apart. -/
def seqPerform (own : Agent) (i : Instr) (s : State) : Option (Res State) :=
  match i with
  | .add w d a b => some (.ok (s.ret d (alu .add w (s.src a) (s.src b))))
  | .cAdd d r => some (.ok ((s.setReg (low32 d) (alu .add false (s.reg (low32 d)) (s.reg (low32 r)))).advance 2))
  | .cAddi d i => some (.ok ((s.setReg (low32 d) (alu .add false (s.reg (low32 d)) (i.signExtend 64))).advance 2))
  | .li d imm => some (.ok (s.ret d (imm.signExtend 64)))
  | .cLi d i => some (.ok ((s.setReg (low32 d) (i.signExtend 64)).advance 2))
  | .lix n imm => some (.ok ((s.setXreg n (imm.signExtend 64)).advance 4))
  | .lxh n imm => some (.ok ((s.setXreg n (s.xreg n * 65536 + imm.zeroExtend 64)).advance 4))
  | .movxFromX d n => some (.ok (s.ret d (s.xreg n)))
  | .movxToX n a => some (.ok ((s.setXreg n (s.src a)).advance 4))
  | .b c x y _ off => some (seqBranch (holds c (s.reg x) (s.reg y)) (s.target off) (s.pc + 4) s)
  | .loop c off =>
    let n := s.reg c - 1
    some (seqBranch (decide (n ≠ 0)) (s.target off) (s.pc + 4) (s.setReg c n))
  | .cBeqz r off => some (seqBranch (decide (s.reg (low32 r) = 0)) (s.target off) (s.pc + 2) s)
  | .cBnez r off => some (seqBranch (decide (s.reg (low32 r) ≠ 0)) (s.target off) (s.pc + 2) s)
  | .mma _ nf _ b p _ _ _ => some (acceptMma own i p false nf b 0 s)
  | .mmas _ nf _ b _ _ _ => some (acceptMma own i .lg6 true nf b 0 s)
  | .tld _ _ a b _ => some (acceptTile own i false a b 0 s)
  | .tst _ _ a b _ => some (acceptTile own i true a b 0 s)
  | .accZero a b _ => some (acceptAcc own i a b true noLanes 0 s)
  | .accLd a b _ => some (acceptAccMem own i false a b 0 s)
  | .accSt a b _ => some (acceptAccMem own i true a b 0 s)
  | .accTov t v a _ => some (acceptTov own t v a 0 s)
  | .accAddv t a v _ => some (acceptAddv own t a v 0 s)
  | .accMode _ a b _ => some (acceptAcc own i a b true noLanes 0 s)
  | .accRaw d a _ => some (accRawRead d a 0 s)
  | .accRawWr a b _ => some (acceptAcc own i a b false noLanes 0 s)
  | .cpy a b => some (acceptCopy false own i a b s)
  | .cpy2d a b => some (acceptCopy true own i a b s)
  | .ccRead d c => some (.ok (s.ret d (s.core.cc[c].zeroExtend 64)))
  | _ => none

/-- An agent placed a command that has not completed. -/
def State.hasCommands (s : State) (own : Agent) : Bool :=
  let mine (c : Cmd) : Bool := decide (c.owner = own)
  s.core.mat.queue.any mine || s.core.cpy.queue.any mine || s.core.mat.running.any mine || s.core.cpy.running.any mine

/-- The end of a program: the FORK's counter falls and its thread's RDV may pass (R300, R301). -/
def endProgram (q : SeqId) (s : State) : State :=
  let x := s.seqr q
  let s1 := (s.setSeqr q { x with running := false, record := none, parked := none }).countDown x.fork
  match x.owner with
  | .pri => { s1 with pri := s1.pri.setFork q false }
  | .aux => { s1 with aux := s1.aux.setFork q false }
  | _ => s1

/-- A sequencer's page wait. -/
def parkSeq (q : SeqId) (r : Nat) (va : Word) (w fetch : Bool) (s : State) : State :=
  let x := s.seqr q
  let (park, s1) := postEngine r va w fetch x.owner x.pc s
  s1.setSeqr q { x with parked := some park }

/-- A sequencer's fault ends the launch; the message names its program counter. The key is that of a poisoned word it consumes. -/
def faultSeq (q : SeqId) (c : Nat) (va : Word) (key : Nat) (s : State) : State :=
  engineFault c va (s.seqr q).pc 0 (s.seqr q).owner (s.logPoison c key)

/-- A stall of a sequencer; `fetch` marks one of its code. -/
def stallSeq (q : SeqId) (fetch : Bool) (x : Stall) (s : State) : Host.Outcome State Fault Refusal :=
  match x with
  | .page r va w => .next (parkSeq q r va w fetch s)
  | .fault c va => .next (faultSeq q c va 0 s)
  | .bad va key => .next (faultSeq q 0x05 va key s)
  | .beyond => .fault .hbmBeyondEnd

/-- The scheduler fills a record's future, where it names one (R305). -/
def fillFuture (t : Task) (s : State) : Except Stall State :=
  if t.words[6] = 0 then .ok s
  else do
    let (l, s1) ← engineSites true t.words[6] 8 s
    .ok (tagRun true (cleanRun (putSites s1 l (leBytes 8 0)) l) l)

/-- The scheduler fills a record's future and frees the record (R305). -/
def endRecord (q : SeqId) (r : Nat) (t : Task) (s : State) : Host.Outcome State Fault Refusal :=
  match fillFuture t s with
  | .ok s1 => .next ((endProgram q s1).setTask r none)
  | .error x => stallSeq q false x s

/-- EXIT of a sequencer (R136, R299, R305). -/
def seqExit (q : SeqId) (s : State) : Host.Outcome State Fault Refusal :=
  if s.hasCommands (seqAgent q) then .next s
  else match (s.seqr q).record with
    | none => .next (endProgram q s)
    | some r => match s.task r with
      | some t => endRecord q r t s
      | none => .next (endProgram q s)

/-- One instruction of a running sequencer, fetched at its program counter. -/
def stepSeq (q : SeqId) (s : State) : Host.Outcome State Fault Refusal :=
  match fetchAt (s.seqr q).pc s with
  | .error x => stallSeq q true x s
  | .ok (.instr .exit _, s1) => seqExit q s1
  | .ok (.instr i _, s1) =>
    match seqPerform (seqAgent q) i (s1.asSeq (s1.seqr q)) with
    | none => .next (faultSeq q 0x01 0 0 s1)
    | some (.ok t) => .next (s1.fromSeq t q)
    | some (.error (.trap c va j _)) => .next (faultSeq q c va j.toNat s1)
    | some (.error (.park _ _)) => .next s1
    | some (.error (.fault f)) => .fault f
  | .ok (.illegal, s1) => .next (faultSeq q 0x01 0 0 s1)
  | .ok (.pool, s1) => .next (faultSeq q 0x08 0 0 s1)

/-- SEQUENCER_STEP (R299). -/
def execSequencerStep (q : SeqId) (s : State) : Host.Outcome State Fault Refusal :=
  let x := s.seqr q
  if !x.running then .next s
  else match x.parked with
    | none => stepSeq q s
    | some p =>
      let s1 := s.setSeqr q { x with parked := none }
      match parkAnswer p x.owner x.pc s with
      | .wait k t => .next (t.setSeqr q { x with parked := some k })
      | .fail => .next (faultSeq q 0x03 p.va 0 s1)
      | .retry => stepSeq q s1

/-! ## Tile-task records (R303 to R306) -/

/-- The record keeps R303. -/
def recordOk (w : Vector Word 8) : Bool :=
  !w[0].getLsbD 0 && decide (bits w[1] 4 60 = 0) && decide (bits w[1] 2 2 = 0) &&
    (decide (bits w[1] 0 2 = 1) || decide (bits w[1] 0 2 = 2))

/-- The operand words and the future that a record names. -/
def namedWords (w : Vector Word 8) : List Word := [w[2], w[3], w[4], w[5]].filter (· ≠ 0)

/-- An address of a record names an aligned word of scratchpad or HBM (R304); the gap of the own-core alias is neither (R140). -/
def recordWord (need : Need) (va : Word) (s : State) : Res State := do
  if va.toNat % 8 ≠ 0 then trapAt 0x03 va s
  else
    let (l, s1) ← sites need va 8 s
    match l with
    | .loc k :: _ => if k.tagged then .ok s1 else trapAt 0x03 va s1
    | .event :: _ => trapAt 0x03 va s1
    | .oor 2 :: _ => trapAt 0x03 va s1
    | _ => .ok s1

def recordWords (need : Need) : List Word → State → Res State
  | [], s => .ok s
  | a :: l, s => do
    let s1 ← recordWord need a s
    recordWords need l s1

/-- A free record of the scheduler: the model takes the lowest (R304, log 93). -/
def State.freeRecord (s : State) : Option Nat := (List.range 64).find? fun r => (s.task r).isNone

/-- A record as the scheduler takes it. -/
def newTask (w : Vector Word 8) (s : State) : Task := ⟨w, s.ctxNo, s.core.launch, 0, 0, none, none, none⟩

def ttEnq (d a : Fin 32) (s : State) : Res State := do
  let va := s.reg a
  match classify s va with
  | .gap => trapAt 0x03 va s
  | .event => trapAt 0x03 va s
  | .protect => trapAt 0x03 va s
  | _ => do
    if va.toNat % 64 ≠ 0 then trapAt 0x01 va s
    else do
      let (b, s1) ← loadBytes va 64 s
      let w := eightWords b
      if !recordOk w then trapAt 0x01 va s1
      else do
        let s2 ← recordWords Need.load (namedWords w) s1
        let s3 ← recordWords Need.store ([w[6]].filter (· ≠ 0)) s2
        match s3.freeRecord with
        | none => .ok (s3.ret d noneFree)
        | some r => .ok ((s3.setTask r (some (newTask w s3))).ret d (BitVec.ofNat 64 r))

def execTtEnq (d a : Fin 32) (s : State) : Host.Outcome State Fault Refusal := finish (ttEnq d a s)

/-- The sequencer that a record's KIND names. -/
def Task.kind (t : Task) : SeqId := if bits t.words[1] 0 2 = 1 then .matrix else .copy

/-- Every operand word of a record is full; one whose page is not there counts as empty (log 113). -/
def Task.full (t : Task) (s : State) : Bool :=
  (namedWords t.words).all fun va => match engineSites false va 8 s with
    | .ok (x :: _, _) => match x with
      | .loc l => s.tag l.key
      | _ => false
    | _ => false

/-- The place of this core in its cluster: the logical cores of a cluster in ascending order. -/
def State.place (s : State) : Fin 4 := ⟨s.core.lx.val % 2 + 2 * (s.core.ly.val % 2), by omega⟩

/-- A core of the cluster, by its place, belongs to the context. -/
def State.mate (s : State) (d : Fin 4) : Bool :=
  decide (d = s.place) || s.corePresent s.ctxNo (s.core.lx.val / 2 * 2 + d.val % 2) (s.core.ly.val / 2 * 2 + d.val / 2)

/-- The sequencer of a kind on a core of the cluster is free. -/
def State.seqFree (s : State) (d : Fin 4) (q : SeqId) : Bool :=
  if d = s.place then !(s.seqr q).running
  else !s.core.forks.contains (d, q) &&
    s.tasks.all fun p => p.2.all fun t => decide (t.away ≠ some d) || decide (t.kind ≠ q)

/-- A core of the cluster, by its place, is retired: it receives no new work (R12, R440). -/
def State.retiredMate (s : State) (d : Fin 4) : Bool :=
  s.mgmt.fenced.contains (if d = s.place then s.core.phys
    else s.physAt s.ctxNo (s.core.lx.val / 2 * 2 + d.val % 2) (s.core.ly.val / 2 * 2 + d.val / 2))

/-- The core of the cluster on which a record that waits may run now: the lowest that is not retired and has a free sequencer of its
KIND, for a replay not the one that met the error (R12, R305, R306). -/
def State.dispatchTo (s : State) (r : Nat) : Option (Fin 4) :=
  match s.task r with
  | some t =>
    if t.on.isNone && t.away.isNone && decide (t.ctx = s.ctxNo) && t.full s then
      (List.finRange 4).find? fun d => s.mate d && !s.retiredMate d && decide (t.avoid ≠ some d) && s.seqFree d t.kind
    else none
  | none => none

/-- A record that waits may run now. -/
def State.dispatchable (s : State) (r : Nat) : Bool := (s.dispatchTo r).isSome

/-- A record starts on this core's sequencer. -/
def startRecord (r : Fin 64) (t : Task) (s : State) : State :=
  let x : Sequencer := { Sequencer.reset with
    running := true, pc := t.words[0], x := Sequencer.reset.x.set 0 t.words[7], owner := seqAgent t.kind
    record := some r.val, fork := s.core.cmdCtr }
  let s1 := (s.setSeqr t.kind x).setTask r.val (some { t with on := some t.kind, dispatched := t.dispatched + 1 })
  { s1 with core := { s1.core with cmdCtr := s1.core.cmdCtr + 1 } }

/-- TASK_RECORD_DISPATCH (R305): a record whose words are full starts on a free sequencer of its KIND in the cluster. -/
def execTaskRecordDispatch (r : Fin 64) (s : State) : Host.Outcome State Fault Refusal :=
  match s.task r.val with
  | none => .next s
  | some t => .next (match s.dispatchTo r.val with
    | none => s
    | some d => if d = s.place then startRecord r t s
      else s.setTask r.val (some { t with away := some d, dispatched := t.dispatched + 1 }))

/-- The unstarted commands of a record are discarded: their locks are freed and their counters fall. -/
def discardRecord (r : Nat) (s : State) : State :=
  let mine (c : Cmd) : Bool := decide (c.record = some r)
  let gone := (s.core.mat.queue ++ s.core.cpy.queue).filter mine
  let s1 := { s with core := { s.core with
    mat := { s.core.mat with queue := s.core.mat.queue.filter fun c => !mine c }
    cpy := { s.core.cpy with queue := s.core.cpy.queue.filter fun c => !mine c } } }
  gone.foldl (fun a c => (a.freeLocks c.id).countDown c.id) s1

/-- The launch of a record ends with a status of R306. -/
def failRecord (st : Nat) (t : Task) (s : State) : State :=
  match t.launch with
  | some id => s.failLaunch id (st, 0, bits s.core.lnPos 20 10)
  | none => s

/-- DATAPATH_ERROR_REPLAY (R306). A record without effects is to be dispatched again, on another core of the cluster. -/
def execDatapathErrorReplay (r : Fin 64) (s : State) : Host.Outcome State Fault Refusal :=
  match s.task r.val with
  | none => .next s
  | some t => match t.on with
    | none => .next s
    | some q =>
      let s1 := discardRecord r.val s
      let s2 := s1.setSeqr q { s1.seqr q with running := false, record := none, parked := none }
      if t.eff ≠ 0 then .next (failRecord 5 t s2)
      else if 3 ≤ t.dispatched then .next (failRecord 4 t s2)
      else .next (s2.setTask r.val (some { t with on := none, avoid := some s.place }))

end Sys2Proof.Machine
end

