-- ==== Sys2Proof/Machine/Sha3.lean ====
section
/-! DEFINITION. SHA3-256, which the spec takes by its name (R364, R426, R427): the sponge of FIPS 202 with a rate of 136 bytes
(log 122). -/

namespace Sys2Proof.Machine

/-- The 25 lanes of the sponge's state; lane (x, y) stands at x + 5y. -/
abbrev Sponge : Type := List (BitVec 64)

def Sponge.lane (a : Sponge) (x y : Nat) : BitVec 64 := a.getD (x % 5 + 5 * (y % 5)) 0

/-- The lanes from a function of their places. -/
def sponge (f : Nat → Nat → BitVec 64) : Sponge := (List.range 25).map fun i => f (i % 5) (i / 5)

/-- The rotations of the step ρ by place. -/
def keccakRot : List Nat :=
  [0, 1, 62, 28, 27, 36, 44, 6, 55, 20, 3, 10, 43, 25, 39, 41, 45, 15, 21, 8, 18, 2, 61, 56, 14]

/-- The constants of the step ι by round. -/
def keccakConst : List (BitVec 64) :=
  [0x0000000000000001, 0x0000000000008082, 0x800000000000808A, 0x8000000080008000, 0x000000000000808B, 0x0000000080000001,
   0x8000000080008081, 0x8000000000008009, 0x000000000000008A, 0x0000000000000088, 0x0000000080008009, 0x000000008000000A] ++
  [0x000000008000808B, 0x800000000000008B, 0x8000000000008089, 0x8000000000008003, 0x8000000000008002, 0x8000000000000080,
   0x000000000000800A, 0x800000008000000A, 0x8000000080008081, 0x8000000000008080, 0x0000000080000001, 0x8000000080008008]

/-- The step θ. -/
def theta (a : Sponge) : Sponge :=
  let c (x : Nat) : BitVec 64 := a.lane x 0 ^^^ a.lane x 1 ^^^ a.lane x 2 ^^^ a.lane x 3 ^^^ a.lane x 4
  let d := (List.range 5).map fun x => c (x + 4) ^^^ (c (x + 1)).rotateLeft 1
  sponge fun x y => a.lane x y ^^^ d.getD x 0

/-- The steps ρ and π: lane (x, y) is rotated and goes to (y, 2x + 3y). -/
def rhoPi (a : Sponge) : Sponge :=
  sponge fun x y => (a.lane (x + 3 * y) x).rotateLeft (keccakRot.getD ((x + 3 * y) % 5 + 5 * x) 0)

/-- The steps χ and ι. -/
def chiIota (k : BitVec 64) (a : Sponge) : Sponge :=
  sponge fun x y =>
    let v := a.lane x y ^^^ (~~~ a.lane (x + 1) y &&& a.lane (x + 2) y)
    if x = 0 ∧ y = 0 then v ^^^ k else v

/-- The permutation. -/
def keccakF (a : Sponge) : Sponge := keccakConst.foldl (fun b k => chiIota k (rhoPi (theta b))) a

/-- A block of 136 bytes absorbed. -/
def absorb (a : Sponge) (b : List Byte) : Sponge :=
  keccakF (a.zipIdx.map fun p => p.1 ^^^ BitVec.ofNat 64 (leNat ((b.drop (8 * p.2)).take 8)))

/-- The padded message's last block: the domain bits 01 of SHA-3, a one, zeros and a one. -/
def lastBlock (b : List Byte) : List Byte :=
  let p := b ++ 0x06 :: List.replicate (135 - b.length) 0
  p.take 135 ++ [p.getD 135 0 ||| 0x80]

/-- The whole blocks of a message absorbed, then its last one. -/
def absorbAll : Nat → List Byte → Sponge → Sponge
  | 0, b, a => absorb a (lastBlock b)
  | n + 1, b, a => if b.length < 136 then absorb a (lastBlock b) else absorbAll n (b.drop 136) (absorb a (b.take 136))

/-- SHA3-256 of a byte string; byte i of the digest is bits [8i + 7:8i]. -/
def sha3 (m : List Byte) : BitVec 256 :=
  let a := absorbAll (m.length / 136) m (List.replicate 25 0)
  BitVec.ofNat 256 ((a.getD 0 0).toNat + (a.getD 1 0).toNat * 2 ^ 64 + (a.getD 2 0).toNat * 2 ^ 128 + (a.getD 3 0).toNat * 2 ^ 192)

end Sys2Proof.Machine
end

