-- ==== Sys2Proof/Machine/Blo.lean ====
section
/-! DEFINITION. Loading a BLO object (R364 to R371): the checks of LOAD, the Sollarin profile, and measurement. -/

namespace Sys2Proof.Machine

/-! ## Measurement (R426, R427) -/

/-- A measurement slot extended with a byte string. -/
def State.extend (s : State) (slot : Fin 16) (m : List Byte) : State :=
  let d := leBytes 32 (sha3 m).toNat
  let v := sha3 (leBytes 32 s.mgmt.meas[slot].toNat ++ d)
  { s with mgmt := { s.mgmt with meas := s.mgmt.meas.set slot v } }

/-! ## Step 1: the object lies in readable memory -/

def State.total (s : State) (o : Obj) : Nat := s.objNum o 16 8

def State.readable (s : State) (c va n : Nat) : Bool :=
  pagedVa va && pagedVa (va + n - 1) && s.vAll c va n fun e => e.r

def load1 (s : State) (o : Obj) : Bool :=
  s.readable o.ctx o.va 64 && decide (64 ≤ s.total o) && s.readable o.ctx o.va (s.total o) &&
    decide (s.sectOff o + 32 * s.nsect o ≤ s.total o) && decide (s.kernOff o + 32 * s.nkern o ≤ s.total o)

/-! ## Step 2: structure -/

def headerOk (s : State) (o : Obj) : Bool :=
  decide (o.va % 64 = 0) && decide (s.objNum o 0 4 = 0x31424C4F) && decide (s.objNum o 4 2 = 1) && decide (s.objNum o 6 2 < 2) &&
    decide (s.objNum o 13 3 = 0) && decide (s.objNum o 28 4 = 0) && decide (s.objNum o 56 8 = 0) &&
    decide (1 ≤ s.nsect o ∧ s.nsect o ≤ 1024) && decide (1 ≤ s.nkern o ∧ s.nkern o ≤ 1024) &&
    decide (s.total o = s.sigOff o + 2420)

/-- The object is PORTABLE (R369). -/
def State.portable (s : State) (o : Obj) : Bool := decide (s.objNum o 6 1 % 2 = 1)

/-- The image of a graph at an offset, and its size. -/
def graphBytes (s : State) (o : Obj) (off : Nat) : List Byte :=
  s.vBytes o.ctx (o.va + off) (if s.objNum o off 8 / 2 ^ 11 % 2 = 1 then 512 else 256)

/-- The graphs of a section from an offset on are valid (R216, R365). -/
def graphsOk (s : State) (o : Obj) (stop : Nat) : Nat → Nat → Bool
  | 0, off => decide (stop ≤ off)
  | n + 1, off =>
    if stop ≤ off then true
    else
      let b := graphBytes s o off
      decide (off + b.length ≤ stop) && decide (imgFails b = []) && graphsOk s o stop n (off + b.length)

/-- The hoist at an offset of the image. -/
def State.hoistAt (s : State) (o : Obj) (off : Nat) : Hoist := vmk 14 fun j => BitVec.ofNat 64 (s.objNum o (off + 8 * j) 8)

/-- The offsets of the plans of a section. -/
def planOffs (s : State) (o : Obj) (stop : Nat) : Nat → Nat → List Nat
  | 0, _ => []
  | n + 1, off => if stop ≤ off then [] else
      off :: planOffs s o stop n ((off + 16 + 32 * s.objNum o (off + 6) 2 + 63) / 64 * 64)

/-- An entry of a plan keeps R242 and R366. -/
def planEntryOk (s : State) (o : Obj) (len off : Nat) : Bool :=
  let w (j : Nat) : Word := BitVec.ofNat 64 (s.objNum o (off + 8 * j) 8)
  let e := planEntry (w 0) (w 1) (w 2)
  decide (e.start < len) && decide (8 ≤ e.bytes ∧ e.bytes ≤ 65536 ∧ e.bytes % 8 = 0) && decide (bits (w 0) 49 7 = 0) &&
    decide (bits (w 1) 32 32 = 0) && decide (bits (w 2) 42 22 = 0) && decide (w 3 = 0)

def planOk (s : State) (o : Obj) (count stop off : Nat) : Bool :=
  let n := s.objNum o (off + 6) 2
  decide (off + 16 + 32 * n ≤ stop) && decide (s.objNum o (off + 4) 1 < count) && decide (s.objNum o (off + 5) 1 = 0) &&
    decide (s.objNum o (off + 8) 8 = 0) &&
    (List.range n).all fun i => planEntryOk s o (s.objNum o off 4) (off + 16 + 32 * i)

def plansOk (s : State) (o : Obj) (q : Section') : Bool :=
  let l := planOffs s o (q.off + q.size) 257 q.off
  decide (l.length ≤ 256) && l.all (planOk s o l.length (q.off + q.size))

/-- A section keeps R365. -/
def sectOk (s : State) (o : Obj) (code : Nat) (q : Section') : Bool :=
  decide (q.off % 64 = 0) && decide (q.off + q.size ≤ s.sigOff o) && (decide (q.type = 4) || decide (q.addr = 0)) &&
    (match q.type with
      | 1 => true
      | 2 => decide (q.size = ceilDiv (ceilDiv code 64) 8)
      | 3 => decide (q.size ≤ 1024)
      | 4 => true
      | 5 => graphsOk s o (q.off + q.size) (q.size / 256) q.off
      | 6 => plansOk s o q
      | 7 => decide (q.size = 112) && decide (hoistCode (s.hoistAt o q.off) = 0)
      | 8 => s.portable o
      | _ => false)

/-- A section index of a kernel entry names nothing or a section of a type. -/
def indexOk (s : State) (o : Obj) (i t : Nat) : Bool :=
  decide (i = 0xFFFF) || (decide (i < s.nsect o) && decide ((s.sect o i).type = t))

def kernelOk (s : State) (o : Obj) (code i : Nat) : Bool :=
  let k := s.kernel o i
  let e := s.kernOff o + 32 * i
  decide (k.entry % 2 = 0 ∧ k.entry < code) && (decide (k.loader = 0xFFFFFFFF) || decide (k.loader < code)) &&
    indexOk s o k.plan 6 && indexOk s o k.hoist 7 && indexOk s o k.const 3 &&
    ((List.range k.dataCount).all fun j => decide (k.dataFirst + j < s.nsect o) &&
      decide ((s.sect o (k.dataFirst + j)).type = 4)) &&
    decide (s.objNum o (e + 14) 2 = 0) && decide (s.objNum o (e + 20) 4 = 0) && decide (s.objNum o (e + 24) 8 = 0)

/-- The size of the CODE section. -/
def State.codeSize (s : State) (o : Obj) : Nat := (s.sectOf o 1).elim 0 Section'.size

/-- An instruction of the Sollarin profile (R369), among those that decode. -/
def sollarin : Instr → Bool
  | .bsplit .. | .join | .stp .. | .tagset .. | .tagclr .. | .tagtst .. | .vldx .. | .vldb .. | .vstx .. | .vstxAdd ..
  | .cx .. | .cxload .. | .cxevict .. | .cxqry .. | .cxldr .. | .mma .. | .mmas .. | .tld .. | .tst .. | .tmov ..
  | .accZero .. | .accLd .. | .accSt .. | .accTov .. | .accAddv .. | .accMode .. | .accRaw .. | .accRawWr ..
  | .fork .. | .rdv | .ttEnq .. | .cpy .. | .cpy2d .. | .ccWait .. | .ccRead .. | .rlQry .. | .subOpen .. | .subClose ..
  | .slotTake .. | .slotGive .. | .sstep | .taskNext .. | .coverClaim .. | .coverDone .. | .coverYield .. | .hrd ..
  | .hwr .. | .hcommit .. | .rsend .. | .xwin .. | .qLaunch .. | .hintSucc | .waitpred | .trap .. | .tret | .yield
  | .pwrHint .. | .jnlRd .. | .jnlRetry .. | .jnlDrop .. | .tlbInv .. | .tlbShoot .. | .csrr .. | .csrw .. | .csrset ..
  | .csrclr .. => false
  | _ => true

/-- The instructions of a PORTABLE code section from an offset on; pool lines are passed over. -/
def codeOk (s : State) (o : Obj) (code : Section') (pool : Nat → Bool) : Nat → Nat → Bool
  | 0, _ => true
  | n + 1, off =>
    if code.size ≤ off then true
    else if pool (off / 64) then codeOk s o code pool n ((off / 64 + 1) * 64)
    else match decodeParcels (s.objNum o (code.off + off) 2) (s.objNum o (code.off + off + 2) 2) with
      | .ok (i, k) => sollarin i && codeOk s o code pool n (off + k)
      | .error _ => false

/-- A line of the CODE section is a pool line. -/
def State.poolBit (s : State) (o : Obj) (line : Nat) : Bool :=
  (s.sectOf o 2).any fun q => decide (line / 8 < q.size) && decide (s.objNum o (q.off + line / 8) 1 / 2 ^ (line % 8) % 2 = 1)

/-- Step 2 of LOAD: the structure of R364 to R366. A second POOLMAP section is refused like a second CODE section (log 140). -/
def load2 (s : State) (o : Obj) : Bool :=
  headerOk s o && decide (((s.sects o).filter fun q => q.type = 1).length = 1) &&
    decide (((s.sects o).filter fun q => q.type = 2).length ≤ 1) &&
    ((List.range (s.nsect o)).all fun i => decide (s.objNum o (s.sectOff o + 32 * i + 2) 6 = 0)) &&
    (s.sects o).all (sectOk s o (s.codeSize o)) && ((List.range (s.nkern o)).all fun i => kernelOk s o (s.codeSize o) i) &&
    (!s.portable o || (s.sectOf o 1).any fun q => codeOk s o q (s.poolBit o) (q.size + 1) 0)

/-! ## Steps 3 to 5 -/

/-- The digest of bytes 0 to SIGOFF − 1. -/
def State.digest (s : State) (o : Obj) : BitVec 256 := sha3 (s.vBytes o.ctx o.va (s.sigOff o))
def State.svn (s : State) (o : Obj) : Nat := s.objNum o 8 4

def load3 (s : State) (o : Obj) : Bool :=
  Config.verifies (s.objNum o 12 1) (s.digest o) (s.vBytes o.ctx (o.va + s.sigOff o) 2420)

/-- The first failed step of LOAD, or 0 (R368). -/
def loadFail (s : State) (o : Obj) : Nat :=
  if !load1 s o then 1 else if !load2 s o then 2 else if !load3 s o then 3 else if s.svn o < s.mgmt.fsvn then 4 else 0

/-- The translation of an object (R371), with the device's signature of it. -/
def State.translation (s : State) (o : Obj) : Translation := ⟨s.digest o, s.svn o, Config.signTranslation (s.digest o)⟩

/-- A loaded object is measured; a PORTABLE one finds or makes its translation, whose digest is measured (R371, R426). -/
def measureLoad (o : Obj) (s : State) : State :=
  let d := leBytes 32 (s.digest o).toNat
  let s1 := s.extend 8 (leBytes 2 o.ctx ++ leBytes 4 (s.svn o) ++ d)
  if s.portable o then
    let s2 := s1.extend 9 (leBytes 32 (sha3 (Config.translation (s.digest o))).toNat)
    { s2 with mgmt := { s2.mgmt with
      translations := s2.mgmt.translations.filter (·.digest ≠ s.digest o) ++ [s.translation o] } }
  else s1

/-! ## Write-block of an image's pages (R363) -/

/-- The key of the leaf entry of an address, and the logarithm of its page's size. -/
def leafFrom (s : State) (va : Nat) : List (Nat × Nat × Nat) → Nat → Option (Nat × Nat)
  | [], _ => none
  | (lo, n, _) :: rest, node =>
    let k := node + 8 * (va / 2 ^ lo % 2 ^ n)
    let e := s.word k
    if !e.getLsbD 0 then none else if e.getLsbD 1 then some (k, lo) else leafFrom s va rest (bits e 8 44 * 256)

def State.leafOf (s : State) (c va : Nat) : Option (Nat × Nat) := leafFrom s va walkLevels (bits (s.desc c 0) 16 36 * 65536)

/-- The 64 KiB pages of an image. -/
def imagePages (o : Obj) (size : Nat) : List Nat :=
  (List.range ((o.va % 65536 + size - 1) / 65536 + 1)).map fun j => o.va / 65536 * 65536 + j * 65536

/-- WB of some pages of a context set or cleared; the TLBs drop the pages' entries (log 21). -/
def setWb (b : Bool) (o : Obj) (pages : List Nat) (s : State) : State :=
  pages.foldl (fun a va =>
    let drop (l : List TlbEntry) : List TlbEntry := l.filter fun e => !e.maps o.ctx va
    match a.leafOf o.ctx va with
    | some (k, _) =>
      let a1 := a.setWord k (setBit (a.word k) 7 b)
      { a1 with
        core := { a1.core with itlb := drop a1.core.itlb, dtlb := drop a1.core.dtlb }
        clusterTlb := drop a1.clusterTlb
        dieTlb := drop a1.dieTlb }
    | none => a) s

/-! ## Translation of channels (R370, R371) -/

/-- A connection of the CHANNEL section: source core and endpoint, destination core and endpoint. -/
structure Connection where
  src : Nat
  from' : Nat
  dst : Nat
  to' : Nat
  deriving DecidableEq, Repr

def State.connections (s : State) (o : Obj) : List Connection :=
  match s.sectOf o 8 with
  | none => []
  | some q => (List.range (q.size / 16)).map fun i =>
      let w := BitVec.ofNat 64 (s.objNum o (q.off + 16 * i) 8)
      ⟨bits w 0 10, bits w 10 6, bits w 32 10, bits w 42 6⟩

/-- An entry of a router's table written. -/
def State.setRoute (s : State) (c x y r : Nat) (w : Nat) : State :=
  let k := c * 2 ^ 22 + ((y * s.torusW c + x) * 256 + r) * 16
  { s with routes := ((List.range 16).zip (leBytes 16 w)).foldl (fun a p => sput 0 (k + p.1) p.2 a) s.routes }

/-- A forward entry: PORTA, ROUTEA and ENDPOINT. -/
def forwardEntry (port route endpoint : Nat) : Nat := 2 ^ 63 + port * 2 ^ 43 + route * 2 ^ 32 + endpoint * 2 ^ 16

/-- The lowest route number from 64 on that a router has not given to a hop. -/
def freeHop (used : List (Nat × Nat)) (node : Nat) : Option Nat :=
  ((List.range 192).map (64 + ·)).find? fun k => !used.contains (node, k)

/-- The hops of a connection on the torus, first along x and then along y, by the lowest route numbers that each router has free
(log 22); none where a router has none left. -/
def layRoute (c dx dy endpoint : Nat) : Nat → Nat → Nat → Nat → List (Nat × Nat) × State → Option (List (Nat × Nat) × State)
  | 0, _, _, _, _ => none
  | n + 1, x, y, r, (used, s) =>
    if x = dx ∧ y = dy then some (used, s.setRoute c x y r (forwardEntry 0 0 endpoint))
    else
      let east := decide (x ≠ dx)
      let nx := if east then (x + 1) % s.torusW c else x
      let ny := if east then y else (y + 1) % s.torusH c
      match freeHop used (ny * 32 + nx) with
      | none => none
      | some k => layRoute c dx dy endpoint n nx ny k
          ((ny * 32 + nx, k) :: used, s.setRoute c x y r (forwardEntry (if east then 2 else 3) k endpoint))

/-- The hops that the context's other launches hold. -/
def State.otherHops (s : State) (l : Launch) : List (Nat × Nat) :=
  (s.launches.filter fun m => decide (m.ctx = l.ctx) && m.resident && decide (m.id ≠ l.id)).flatMap Launch.hops

/-- The routes of a PORTABLE object written for a launch's rectangle, and the hops that the launch holds then; virtual core v is
launch index v. A connection for which a router has no number left gets no route (log 22). -/
def layRoutes (l : Launch) (s : State) : List (Nat × Nat) × State :=
  if !s.portable l.obj then ([], s)
  else
    let others := s.otherHops l
    let u := (s.connections l.obj).foldl (fun u k =>
      let a := s.rectCore l (k.src % l.w) (k.src / l.w)
      let b := s.rectCore l (k.dst % l.w) (k.dst / l.w)
      if k.src < l.cores ∧ k.dst < l.cores then (layRoute l.ctx b.1 b.2 k.to' 64 a.1 a.2 k.from' u).getD u else u) (others, s)
    (u.1.take (u.1.length - others.length), u.2)

end Sys2Proof.Machine
end

