-- ==== Sys2Proof/Machine/Head.lean ====
section
/-! DEFINITION. What the performing thread performs at its commit head (R41). -/

namespace Sys2Proof.Machine

/-- The tagged word at an address is full. -/
def State.fullAt (s : State) (va : Word) : Bool :=
  match sites ⟨false, false, false⟩ va 8 s with
  | .ok (.loc l :: _, _) => s.tag l.key
  | _ => false

/-- An entry has its completion. -/
def WEntry.ended (e : WEntry) : Bool := decide (e.stage ≠ .lane) && decide (e.stage ≠ .track)

/-- An LDF is performed speculatively where its word is full, and at the commit head otherwise (R156), as every blocking point of a
slaved group is (R52). -/
def WEntry.fullLdf (e : WEntry) (va : Word) (s : State) : Bool :=
  !(decide (s.cur = .pri) && decide (s.core.slave.role ≠ .single)) && if e.ended then decide (e.late = none) else s.fullAt va

/-- The class of an entry: LD.D and ST.D in the event window are performed at the commit head (R41, R315), and an LDF of a full word is
a load (R156). -/
def WEntry.kind (e : WEntry) (s : State) : Kind :=
  match e.instr with
  | .ld _ b off .d | .st _ b off .d =>
    if classify s (e.value (.s b) + BitVec.ofInt 64 (off.toInt * 8)) = .event then .head else kindOf e.instr
  | .ldf _ b off => if e.fullLdf (e.value (.s b) + BitVec.ofInt 64 (off.toInt * 8)) s then .load else kindOf e.instr
  | i => kindOf i

/-- An operation that the performing thread performs at its commit head (R41): every engine-siding and system-siding
operation, the commit-head rows of the memory siding, and, in this model, the vector instructions, whose siding serves them
in program order, and the branches of a slaved group (log 9, log 31). -/
def WEntry.atHead (e : WEntry) (s : State) : Bool :=
  decide (e.kind s = .head) || decide (e.kind s = .vec) ||
    (decide (e.kind s = .branch) && decide (s.cur = .pri) && decide (s.core.slave.role ≠ .single))

/-- A commit-head operation whose side effects have been performed. -/
def WEntry.performed (e : WEntry) (s : State) : Bool :=
  e.atHead s && e.ended

end Sys2Proof.Machine
end

