-- ==== Sys2Proof/Machine/System.lean ====
section
/-! DEFINITION. Traps and their handlers (R378 to R385), the journal instructions, YIELD and PWR.HINT (R384, R389), control
registers (R392), TLB instructions and shoot-downs (R397, R398). -/

namespace Sys2Proof.Machine

/-! ## Subjects of messages (R378, R379) -/

/-- The message being handled names a thread of this core. -/
def State.subjectHere (s : State) : Bool :=
  let w := s.core.trapMsg[0]
  s.isSelf (bits w 42 5) (bits w 47 5) && !w.getLsbD 23

/-- The subject of the message being handled: a thread of this core whose launch the core still runs; none for a thread of
another core (log 1) or one whose launch has ended. -/
def State.subject (s : State) : Option ThreadId :=
  if s.subjectHere && decide (s.msgLaunch s.core.trapMsg = s.core.launch) then
    some (if s.core.trapMsg[0].getLsbD 9 then .aux else .pri)
  else none

/-! ## TRAP, YIELD and PWR.HINT (R384, R389) -/

def execTrap (n : Fin 64) (s : State) : Host.Outcome State Fault Refusal :=
  finish (.error (.trap 0x10 0 (BitVec.ofNat 64 n.val) s))

def execYield (s : State) : Host.Outcome State Fault Refusal :=
  finish (blocking s (if s.saving then parkOn 13 0 0 s else .ok (s.advance 4)))

/-- HINT of PWR.STAT takes the hint; values above 2 are illegal. -/
def execPwrHint (n : Fin 64) (s : State) : Host.Outcome State Fault Refusal :=
  finish (if 2 < n.val then trapAt 0x01 0 s
    else
      let w := s.core.pwrStat &&& ~~~(12 : Word) ||| BitVec.ofNat 64 (n.val * 4)
      .ok ({ s with core := { s.core with pwrStat := w } }.advance 4))

/-! ## TRET (R230, R383, R385) -/

/-- Where a subject resumes: NPC with bit 0 cleared. -/
def State.npc (s : State) : Word := setBit s.core.trapNpc 0 false

/-- A thread in a trap wait issues again from an address; what its wake record kept holds only for its own
instruction. A save that had stopped it there takes it again at its next blocking point (R387). -/
def resumeAt (a : Word) (t : Thread) : Thread :=
  if t.run = .trapWait then
    { t with run := .running, stopped := false, pc := a, wake := if a = t.pc then t.wake else Wake.none, retry := true, anew := true }
  else t

/-- The loader's TRET: the loader ends, misses are issued again, also where a save had stopped their thread (R232, R387), and the
auxiliary thread goes where CX.LPC directs. -/
def tretLoader (s : State) : State :=
  let w := s.core.cxLpc
  let rpc := BitVec.ofNat 64 (bits w 0 56)
  let aux := { s.aux.killed with
    run := if w.getLsbD 62 then .noWork else if w.getLsbD 61 then .trapWait else .running
    pc := rpc
    wake := s.core.loaderWake
    retry := true
    anew := true }
  let pri := if s.pri.run = .missWait then { s.pri with run := .running, stopped := false, wake := Wake.none, retry := false, anew := true } else s.pri
  { s with
    pri := pri
    aux := aux
    core := { s.core with
      cxLpc := setBit w 63 false
      cxMiss := setBit s.core.cxMiss 63 false
      loaderWake := Wake.none } }

/-- The effect of a handler's TRET on the subject of a service message. -/
def tretSubject (s : State) : State :=
  let w := s.core.trapMsg[0]
  if w.getLsbD 8 then s
  else if s.core.trapAct.getLsbD 0 then
    match s.msgLaunch s.core.trapMsg with
    | some id => s.killLaunch id 0x0D (msgInfo s.core.trapMsg)
    | none => s
  else match s.subject with
    | some .pri => { s with pri := resumeAt s.npc s.pri }
    | _ => s

/-- Where the auxiliary thread goes from handler mode: to no work, on as the subject itself, back to its trap wait, or to
RPC. -/
def tretAux (s : State) : Thread :=
  let h := s.core.trapHst
  let rpc := BitVec.ofNat 64 (bits h 0 56)
  let w := s.core.trapMsg[0]
  let back : Thread := { s.aux.killed with pc := rpc, wake := s.core.handlerWake, retry := true, anew := true }
  if h.getLsbD 62 || s.runLaunch.isNone then { s.aux.killed with run := .noWork }
  else if s.core.handlerWake.kind = 16 then
    if s.subject = some .aux ∧ !w.getLsbD 8 then
      { back with pc := s.npc, run := .running, wake := Wake.none }
    else { back with run := .trapWait }
  else { back with run := .running }

/-- The handler's TRET. -/
def tretHandler (s : State) : State :=
  let s1 := tretSubject s
  { s1 with
    aux := tretAux s1
    core := { s1.core with trapHst := setBit s1.core.trapHst 63 false, handlerWake := Wake.none } }

def execTret (s : State) : Host.Outcome State Fault Refusal :=
  finish (if s.inLoader then .ok (tretLoader s)
    else if s.inHandler then .ok (tretHandler s)
    else trapAt 0x02 0 s)

/-! ## The journal instructions (R384) -/

/-- Whose journal JNL acts on: a thread of this core, or none (a thread of another core, or one that has ended). -/
def State.journalOf (s : State) : Option ThreadId := if s.inHandler then s.subject else some s.cur

/-- The JNL.RD record of an entry. -/
def jnlRecord (e : JEntry) : Word :=
  match e.state with
  | .free => 0
  | .posted => BitVec.ofNat 64 (2 ^ 62 + bits e.addr 0 56)
  | .refused => BitVec.ofNat 64 (2 ^ 63 + bits e.addr 0 56)

/-- The journal of another core's thread is not held: its record is a free value (log 1). A subject that has ended has none. -/
def execJnlRd (d : Fin 32) (j : Fin 16) (s : State) : Host.Outcome State Fault Refusal :=
  .next (match s.journalOf with
    | some t => s.ret d (if s.inHandler && (s.th t).over then 0 else jnlRecord (s.th t).journal[j])
    | none => if s.subjectHere || (s.msgLaunch s.core.trapMsg).isNone then s.ret d 0 else s.tickFree.ret d s.free)

/-- An entry of the target journal replaced where it is Refused. -/
def onRefused (j : Fin 16) (s : State) (f : ThreadId → JEntry → State) : State :=
  match s.journalOf with
  | some t =>
    let e := (s.th t).journal[j]
    if e.state = .refused ∧ !(s.inHandler && (s.th t).over) then f t e else s
  | none => s

/-- The state with a journal entry of a thread replaced. -/
def State.setEntry (s : State) (t : ThreadId) (j : Fin 16) (e : JEntry) : State :=
  s.setTh t { (s.th t) with journal := (s.th t).journal.set j e }

/-- A Refused entry is Posted again, behind what its thread has sent to the same core since (R151, R152). -/
def resend (t : ThreadId) (j : Fin 16) (e : JEntry) (s : State) : State :=
  let n := (s.th t).portFor e.addr s
  sendPosted e.addr e.data n (s.setEntry t j { e with state := .posted, port := n })

def execJnlRetry (j : Fin 16) (s : State) : Host.Outcome State Fault Refusal :=
  .next ((onRefused j s fun t e => resend t j e s).advance 4)

def execJnlDrop (j : Fin 16) (s : State) : Host.Outcome State Fault Refusal :=
  .next ((onRefused j s fun t _ => s.setEntry t j JEntry.reset).advance 4)

/-! ## Control registers (R4, R392) -/

/-- CTX.ID (R374). -/
def State.ctxId (s : State) : Word :=
  let c := s.ctxNo
  match s.core.ctx with
  | none => 0
  | some _ => BitVec.ofNat 64 (bits (s.desc c 0) 1 1 * 2 ^ 32 + bits (s.desc c 1) 16 8 * 2 ^ 24 +
      bits (s.desc c 1) 0 11 % 4096 * 2 ^ 12 + c % 4096)

/-- PWR.STAT (R410): STRETCH and HINT as kept, and the partition and rail of the core's cluster. -/
def State.pwrStatus (s : State) : Word :=
  let k := clusterOf s.core.phys
  let reserved := (s.power.rsv.toList.getD (k / 64) 0).getLsbD (k % 64)
  BitVec.ofNat 64 (s.core.pwrStat.toNat / 2 ^ 32 * 2 ^ 32 + bits s.core.pwrStat 2 2 * 4 + (if reserved then 2 else 0) +
    (if s.power.rails.getLsbD k then 1 else 0))

/-- The value of an implemented control register. -/
def State.csr (s : State) (c : Nat) : Word :=
  if c = 0x0A0 then s.core.vecCheck
  else if h : 0x0A8 ≤ c ∧ c < 0x0AE then s.core.hy[c - 0x0A8]
  else if c = 0x0B0 then s.me.fpFlags
  else if c = 0x0B1 then s.core.accSat
  else if c = 0x0B4 then s.core.scrErr
  else if h : 0x0C0 ≤ c ∧ c < 0x0C8 then s.core.bankFmt[c - 0x0C0]
  else if c = 0x0D0 then s.core.cxLdr
  else if c = 0x0D1 then s.core.cxMiss
  else if c = 0x0D2 then s.core.cxLpc
  else if c = 0x0E0 then s.core.lnPos
  else if c = 0x0E2 then s.core.tkOrg0
  else if c = 0x0E3 then s.core.tkOrg1
  else if h : 0x100 ≤ c ∧ c < 0x108 then s.core.trapMsg[c - 0x100]
  else if c = 0x108 then s.core.trapNpc
  else if c = 0x109 then s.core.trapAct
  else if c = 0x10A then s.core.trapHst
  else if c = 0x110 then s.ctxId
  else if c = 0x120 then s.core.cycle
  else if c = 0x121 then s.core.time
  else if c = 0x122 then s.pwrStatus
  else if c = 0x820 then s.hostActhr
  else 0

/-- The RW and the W1C bits of a control register; every other bit is read-only. -/
def csrRw (c : Nat) : Word :=
  if c = 0x0A0 then 1
  else if 0x0C0 ≤ c ∧ c < 0x0C8 then 0x1FF0F
  else if c = 0x0D0 ∨ c = 0x108 then 0xFFFFFFFFFFFFFFFE
  else if c = 0x109 then 1
  else if c = 0x820 then 0xFFFF
  else 0
def csrW1c (c : Nat) : Word :=
  if c = 0x0B0 then 0x7F else if c = 0x0B1 then 7 else if c = 0x0B4 then 0x8000000000000000 else 0

/-- The register stored. -/
def State.putCsr (s : State) (c : Nat) (v : Word) : State :=
  if c = 0x0A0 then { s with core := { s.core with vecCheck := v } }
  else if c = 0x0B0 then s.setMe { s.me with fpFlags := v }
  else if c = 0x0B1 then { s with core := { s.core with accSat := v } }
  else if c = 0x0B4 then { s with core := { s.core with scrErr := v } }
  else if h : 0x0C0 ≤ c ∧ c < 0x0C8 then { s with core := { s.core with bankFmt := s.core.bankFmt.set (c - 0x0C0) v } }
  else if c = 0x0D0 then { s with core := { s.core with cxLdr := v } }
  else if c = 0x108 then { s with core := { s.core with trapNpc := v } }
  else if c = 0x109 then { s with core := { s.core with trapAct := v } }
  else if c = 0x820 then { s with hostActhr := v }
  else s

/-- CSRW, CSRSET and CSRCLR on an old value. A 1 written to VALID of SCR.ERR clears the record (R142). -/
def csrWritten (c : Nat) (old v : Word) : Word :=
  if c = 0x0B4 ∧ v.getLsbD 63 then 0 else old &&& ~~~csrRw c &&& ~~~(v &&& csrW1c c) ||| v &&& csrRw c
def csrSetBits (c : Nat) (old v : Word) : Word := old ||| v &&& csrRw c
def csrClrBits (c : Nat) (old v : Word) : Word := old &&& ~~~(v &&& csrRw c)

/-- A control register access: illegal for a number the device lacks, and for a reserved CODE of a bank format (R79);
0x800 and above need a privileged context. -/
def csrAccess (d : Fin 32) (c : BitVec 12) (f : Word → Word) (s : State) : Res State :=
  let n := c.toNat
  let v := f (s.csr n)
  if !Config.csrImplemented c then trapAt 0x01 0 s
  else if 0x800 ≤ n ∧ !s.priv then trapAt 0x02 0 s
  else if 0x0C0 ≤ n ∧ n < 0x0C8 ∧ 10 ≤ bits v 0 4 then trapAt 0x01 0 s
  else .ok ((s.putCsr n v).ret d (s.csr n))

def execCsrr (d : Fin 32) (c : BitVec 12) (s : State) : Host.Outcome State Fault Refusal :=
  finish (csrAccess d c (fun old => old) s)
def execCsrw (d a : Fin 32) (c : BitVec 12) (s : State) : Host.Outcome State Fault Refusal :=
  finish (csrAccess d c (fun old => csrWritten c.toNat old (s.reg a)) s)
def execCsrset (d a : Fin 32) (c : BitVec 12) (s : State) : Host.Outcome State Fault Refusal :=
  finish (csrAccess d c (fun old => csrSetBits c.toNat old (s.reg a)) s)
def execCsrclr (d a : Fin 32) (c : BitVec 12) (s : State) : Host.Outcome State Fault Refusal :=
  finish (csrAccess d c (fun old => csrClrBits c.toNat old (s.reg a)) s)

/-! ## TLB.INV and TLB.SHOOT (R397, R398) -/

def dropEntries (c base len : Nat) (l : List TlbEntry) : List TlbEntry := l.filter fun e => !e.meets c base len

/-- The core's own TLBs without a range. -/
def State.dropCoreTlb (s : State) (c base len : Nat) : State :=
  { s with core := { s.core with
    itlb := dropEntries c base len s.core.itlb
    dtlb := dropEntries c base len s.core.dtlb } }

def execTlbInv (a b : Fin 32) (s : State) : Host.Outcome State Fault Refusal :=
  .next ((s.dropCoreTlb s.ctxNo (s.reg a).toNat (s.reg b).toNat).advance 4)

/-- Every TLB without a range; a core that was skipped asleep keeps its own until it wakes. -/
def State.dropTlbs (s : State) (c base len : Nat) : State :=
  let s1 := if s.core.asleep then s else s.dropCoreTlb c base len
  { s1 with clusterTlb := dropEntries c base len s1.clusterTlb, dieTlb := dropEntries c base len s1.dieTlb }

/-- The key of an aligned word of HBM at an address of the issuing context. -/
def hbmWord (need : Need) (va : Word) (s : State) : Res (Nat × State) := do
  if va.toNat % 8 ≠ 0 ∨ classify s va ≠ .paged then trapAt 0x03 va s
  else
    let (x, s1) ← pagedSite need va s
    match x with
    | .loc (.hbm p) => .ok (p, s1)
    | _ => trapAt 0x03 va s1

/-- A word written with its tag full. -/
def State.fillWord (s : State) (k : Nat) (v : Word) : State := ((s.setWord k v).setPoison k false).setTag k true

def Shoot.same (h : Shoot) (c base len : Nat) : Bool := decide (h.ctx = c) && decide (h.base = base) && decide (h.len = len)

/-- The shoot-down that a release names. -/
def State.shootFor (s : State) (c base len : Nat) : Option (Fin 4) :=
  (List.finRange 4).find? fun i => s.shoots[i].any fun h => h.same c base len

def State.setShoot (s : State) (i : Fin 4) (h : Option Shoot) : State := { s with shoots := s.shoots.set i h }

/-- A thread whose access waits on a page of a range, or without a record, walks again. -/
def Thread.walkAgain (covers : Word → Bool) (t : Thread) : Thread :=
  if t.wake.kind = 12 ∧ (t.wake.aux = 0xFFFF ∨ covers t.wake.addr) then { t with wake := t.wake.walks, retry := !t.wake.unissued } else t

/-- An engine's park on a page of a range no longer awaits its record's answer. -/
def unrecord (covers : Word → Bool) (p : Option EnginePark) : Option EnginePark :=
  p.map fun x => if covers x.va then { x with record := .none } else x

/-- The accesses of a context that wait on a page of a range walk again (R396, R398); a length of 0 names the whole context. -/
def State.walkAgain (s : State) (c base len : Nat) : State :=
  let f (va : Word) : Bool :=
    decide (s.core.ctx = some c) && (decide (len = 0) || (decide (base ≤ va.toNat) && decide (va.toNat < base + len)))
  { s with
    pri := s.pri.walkAgain f
    aux := s.aux.walkAgain f
    core := { s.core with
      cpy := { s.core.cpy with parked := unrecord f s.core.cpy.parked }
      mseq := { s.core.mseq with parked := unrecord f s.core.mseq.parked }
      cseq := { s.core.cseq with parked := unrecord f s.core.cseq.parked }
      subs := vmap (fun o => o.map fun u => { u with parked := unrecord f u.parked }) s.core.subs } }

/-- A release: the matching entries are invalidated and waiting accesses walk again. -/
def shootRelease (c base len key : Nat) (s : State) : State :=
  ((s.dropTlbs c base len).fillWord key 2).walkAgain c base len

def tlbShoot (a b : Fin 32) (s : State) : Res State := do
  let va := s.reg a
  let w := s.reg b
  if !s.priv then trapAt 0x02 0 s
  else if bits w 12 52 ≠ 0 then trapAt 0x03 0 s
  else
    let (_, s0) ← hbmWord Need.load (setBit (setBit (setBit va 0 false) 1 false) 2 false) s
    let (l, s1) ← loadBytes va 32 s0
    let f (j : Nat) : Word := BitVec.ofNat 64 (leNat ((l.drop (8 * j)).take 8))
    let kind := (f 0).toNat
    let c := bits w 0 12
    let base := (f 1).toNat
    let len := (f 2).toNat
    if 3 ≤ kind ∨ base % 65536 ≠ 0 ∨ len % 65536 ≠ 0 then trapAt 0x03 va s1
    else do
      let (key, s2) ← hbmWord Need.store (f 3) s1
      if kind = 2 then
        match s2.shootFor c base len with
        | none => .ok ((shootRelease c base len key s2).advance 4)
        | some i =>
          if s2.shoots[i].any fun h => decide (h.state = .confirmed) then
            .ok ((shootRelease c base len key (s2.setShoot i none)).advance 4)
          else parkOn 32 va 0 s2
      else match (List.finRange 4).find? fun i => s2.shoots[i].isNone with
        | none => parkOn 32 va 0 s2
        | some i => .ok ((s2.setShoot i (some ⟨c, decide (kind = 1), base, len, key, .draining⟩)).advance 4)

def execTlbShoot (a b : Fin 32) (s : State) : Host.Outcome State Fault Refusal := finish (tlbShoot a b s)

/-- SHOOTDOWN_BLOCKED (R398): every mailbox has blocked the range; this core writes back its dirty bytes. A core whose
clock stands is skipped (log 20). -/
def execShootdownBlocked (i : Fin 4) (s : State) : Host.Outcome State Fault Refusal :=
  .next (match s.shoots[i] with
    | none => s
    | some h =>
      if h.state = .draining then
        let s1 := if s.power.stopped.getLsbD (clusterOf s.core.phys) then { s with core := { s.core with asleep := true } }
          else if s.core.ctx = some h.ctx then s.writeBackAll else s
        s1.setShoot i (some { h with state := .confirming })
      else s)

/-- Every write that the context's threads and engines made has been performed: the L1 holds no dirty byte, and a copy that stands
parked has written nothing. -/
def State.writesDone (s : State) (c : Nat) : Bool :=
  let posted (t : Thread) : Bool := t.journal.toList.any fun e => decide (e.state = .posted)
  decide (s.core.ctx ≠ some c) ||
    (decide (s.pri.stq = []) && decide (s.aux.stq = []) && !posted s.pri && !posted s.aux &&
      s.core.mat.running.isNone && (s.core.cpy.running.isNone || s.core.cpy.parked.isSome) &&
      decide (dirtyLines s.core.l1 = []))

/-- SHOOTDOWN_CONFIRMED (R398). A core that is awake writes back what it has stored since the blocks stood. -/
def execShootdownConfirmed (i : Fin 4) (s : State) : Host.Outcome State Fault Refusal :=
  .next (match s.shoots[i] with
    | none => s
    | some h =>
      let s1 := if s.core.ctx = some h.ctx ∧ !s.core.asleep then s.writeBackAll else s
      if h.state = .confirming ∧ s1.writesDone h.ctx then
        (s1.fillWord h.doneKey 1).setShoot i (some { h with state := .confirmed })
      else s)

/-- CORE_WAKE_TLB_FLUSH (R398). -/
def execCoreWakeTlbFlush (s : State) : Host.Outcome State Fault Refusal :=
  .next { s with core := { s.core with asleep := false, itlb := [], dtlb := [] } }

/-! ## Stop points (R378) and handler entry (R380, R382) -/

/-- A thread stands where it may be stopped: its commit head has performed nothing, no COVER.CLAIM stands between two of its
words, no answer waits to be taken and no exchange step holds its SSTEP. -/
def State.atStop (s : State) (t : ThreadId) : Bool :=
  let x := s.th t
  decide (x.reply = none) && decide (x.wake.kind ≠ 34) && !(x.window.head?.any fun e => e.performed { s with cur := t }) &&
    !(decide (x.wake.kind = 14) && s.runLaunch.any fun l => l.exch.isSome || l.released)

/-- The code that posted a refused store stands interrupted by a handler or by the loader. -/
def State.interrupted (s : State) (t : ThreadId) (m : Mode) : Bool :=
  decide (t = .aux) && ((s.core.hmode && decide (m ≠ .handler)) || (!s.core.hmode && s.core.lmode && decide (m = .work)))

/-- Where an interrupted auxiliary thread resumes, and whether it had work (R231, R382). -/
def State.interruptedPc (s : State) : Word := BitVec.ofNat 64 (bits (if s.core.hmode then s.core.trapHst else s.core.cxLpc) 0 56)
def State.interruptedIdle (s : State) : Bool := (if s.core.hmode then s.core.trapHst else s.core.cxLpc).getLsbD 62

/-- The message of a refused posted store (R379): its PC is the commit-head instruction at the stop point, or the one from
which a subject that already stands stopped or in a trap wait will resume. -/
def State.refusalMsg (s : State) (t : ThreadId) (j : Fin 16) : Msg :=
  let x := s.th t
  let e := x.journal[j]
  s.mkMsg ⟨0x11, false, decide (t = .aux), false, false, e.tag.toNat, true, j.val,
    if s.interrupted t e.mode then s.interruptedPc else x.pc, e.addr, 0⟩

/-- The interrupted auxiliary work stands in a trap wait from now on: TWAIT of CX.LPC, or the wake record that the handler's
TRET takes back. -/
def waitInterrupted (s : State) : State :=
  if s.core.hmode then { s with core := { s.core with handlerWake := ⟨16, false, 0, 0, 0⟩ } }
  else { s with core := { s.core with cxLpc := setBit s.core.cxLpc 61 true } }

/-- A refusal of a thread is served: its message is sent and its subject stands in its trap wait. Interrupted work is there
already; a running handler or loader goes on. Work that has ended sends none. -/
def stopRefused (t : ThreadId) (j : Fin 16) (s : State) : State :=
  let x := s.th t
  let m := s.refusalMsg t j
  let rest (y : Thread) : Thread := { y with refused := x.refused.drop 1 }
  if s.interrupted t x.journal[j].mode then
    let s1 := s.setTh t (rest x)
    if s.interruptedIdle then s1
    else match s.firstHandler s.ctxNo 0 with
      | some h => (waitInterrupted s1).post h m
      | none => match s.core.launch with
        | some id => s1.killLaunch id 0x11 (s.statusInfo t)
        | none => s1
  else if x.over then s.setTh t (rest x)
  else if x.run = .trapWait then takeService m 0x11 t (s.setTh t (rest x))
  else takeService m 0x11 t ((s.stopKill t).setTh t (rest x.stopHere))

/-- The code that a thread runs is to stop at its next stop point (R229, R378, R380): for the loader, for a message that may
enter, or for a refusal of its own. -/
def State.stopDue (s : State) (t : ThreadId) : Bool :=
  let own := match (s.th t).refused with
    | j :: _ => !s.interrupted t (s.th t).journal[j].mode
    | [] => false
  own || (decide (t = .aux) && !s.core.hmode && (s.core.loaderWanted ||
    (decide (s.core.hq ≠ []) && !s.saving && (!s.core.lmode || s.aux.over))))

/-- A thread that stands at its stop point goes no further until it is stopped: R378 stops it at the first such moment. -/
def State.mustStop (s : State) (t : ThreadId) : Bool := s.stopDue t && s.atStop t

/-- STOP_POINT (R378): the loader takes the auxiliary thread, or a refusal is served. -/
def execStopPoint (t : ThreadId) (s : State) : Host.Outcome State Fault Refusal :=
  .next (if t = .aux ∧ s.core.loaderWanted ∧ !s.core.hmode then if s.atStop .aux then enterLoader (s.stopKill .aux) else s
    else match (s.th t).refused with
      | j :: _ => if s.atStop t ∨ s.interrupted t (s.th t).journal[j].mode then stopRefused t j s else s
      | [] => s)

/-- The resume point of a message's subject (R382). -/
def msgNpc (m : Msg) : Word := if bits m[0] 0 8 = 0x10 ∧ !m[0].getLsbD 8 then m[1] + 4 else m[1]

/-- Handler mode is entered with a message. -/
def enterHandler (m : Msg) (rest : List Msg) (s : State) : State :=
  let x := s.aux
  let wake := if x.run = .trapWait then ⟨16, false, 0, 0, 0⟩ else x.wake.kept
  let hst := BitVec.ofNat 64 (2 ^ 63 + (if x.over then 2 ^ 62 else 0) + x.pc.toNat % 2 ^ 56)
  { s with
    aux := { x.stopHere with run := .running, pc := s.desc s.ctxNo 7, wake := Wake.none }
    core := { s.core with
      hq := rest
      hqPos := s.core.hqPos.drop 1
      trapPos := s.core.hqPos.headD s.handlerIndex
      trapMsg := m
      trapNpc := setBit (msgNpc m) 0 false
      trapAct := 0
      trapHst := hst
      handlerWake := wake } }

/-- HANDLER_ENTRY (R380); while the context is Saving a message stays queued (R391). -/
def execHandlerEntry (s : State) : Host.Outcome State Fault Refusal :=
  .next (match s.core.hq with
    | m :: r => if !s.core.hmode ∧ (!s.core.lmode ∨ s.aux.over) ∧ !s.saving ∧ s.atStop .aux then
        enterHandler m r (s.stopKill .aux) else s
    | [] => s)

/-- The causes that a thread in handler mode can fault with: those of R376 that its own instructions and fetches have, 0x10 for a TRAP
and 0x13 for a burgee miss (R380). -/
def handlerCause (n : Nat) : Bool := (decide (1 ≤ n) && decide (n ≤ 8)) || decide (n = 0x10) || decide (n = 0x13)

/-- HANDLER_FAULT (R380). -/
def execHandlerFault (cause : Fin 32) (s : State) : Host.Outcome State Fault Refusal :=
  .next (if s.core.hmode && handlerCause cause.val then handlerFault cause.val 0 s else s)

end Sys2Proof.Machine
end

