-- ==== Sys2Proof/Machine/Launch.lean ====
section
/-! DEFINITION. Queues and their packets (R347 to R352), launches (R353 to R358) and the instructions Q.LAUNCH, HINT.SUCC and
WAITPRED (R359 to R361). -/

namespace Sys2Proof.Machine

/-! ## Queues (R347, R348) -/

def State.queueWord (s : State) (c q w : Nat) : Word := s.word ((s.desc c 3).toNat + 16 * q + 8 * w)
/-- QBASE. -/
def State.qbase (s : State) (c q : Nat) : Nat := (s.queueWord c q 0).toNat / 128 * 128
def State.qen (s : State) (c q : Nat) : Bool := (s.queueWord c q 1).getLsbD 63
def State.qclass (s : State) (c q : Nat) : Nat := bits (s.queueWord c q 1) 16 2
def State.nslot (s : State) (c q : Nat) : Nat := 2 ^ bits (s.queueWord c q 1) 0 4
/-- The virtual address of the slot of index t. -/
def State.slotVa (s : State) (c q t : Nat) : Nat := s.qbase c q + 128 * (1 + t % s.nslot c q)

def queueKey (c q : Nat) : Nat := c * 64 + q
def State.queue (s : State) (c q : Nat) : Queue := (s.queues.find? (·.1 = queueKey c q)).elim ⟨[], none, none⟩ Prod.snd
def State.setQueue (s : State) (c q : Nat) (x : Queue) : State :=
  { s with queues := (queueKey c q, x) :: s.queues.filter (·.1 ≠ queueKey c q) }

/-- The state of a context. -/
def State.ctx? (s : State) (c : Nat) : Option Ctx := (s.ctxs.find? (·.1 = c)).map Prod.snd
def State.ctxState (s : State) (c : Nat) : CtxState := (s.ctx? c).elim .unconfigured Ctx.state
def State.setCtx (s : State) (c : Nat) (x : Ctx) : State := { s with ctxs := (c, x) :: s.ctxs.filter (·.1 ≠ c) }

/-- References of a queue to an object (R362). -/
def Queue.count (q : Queue) (va : Nat) : Nat := (q.refs.find? (·.1 = va)).elim 0 Prod.snd
def Queue.setCount (q : Queue) (va n : Nat) : Queue :=
  { q with refs := (if n = 0 then [] else [(va, n)]) ++ q.refs.filter (·.1 ≠ va) }

/-- Some queue of a context holds a reference to an object. -/
def State.referenced (s : State) (c va : Nat) : Bool :=
  s.queues.any fun p => decide (p.1 / 64 = c) && decide (p.2.count va ≠ 0)

/-! ## Completion status (R351, R352, R356) -/

/-- A paged HBM word of a context with a property of its page. -/
def State.goodWord (s : State) (c va : Nat) (p : TlbEntry → Bool) : Bool :=
  decide (va % 8 = 0) && pagedVa va && (s.vKey c va).isSome && match s.walk c va with
    | .ok e => decide (e.loc = 0) && p e
    | .error _ => false

def statusWord (st detail info : Nat) : Word := BitVec.ofNat 64 (st * 2 ^ 56 + detail % 256 * 2 ^ 48 + info % 2 ^ 48)

/-- The records of bad DONE words enter their fault queues, the oldest first, as far as there is room (R352, R396, log 23). -/
def postLateFrom (s : State) : List (Nat × Nat × Nat) → State
  | [] => { s with late := [] }
  | (c, r, va) :: l =>
    let q := (s.desc c 4).toNat
    match s.queueRoom q with
    | some slot => postLateFrom (s.postRecord q slot (r + 16) va 0 0) l
    | none => let s1 := postLateFrom s l; { s1 with late := (c, r, va) :: s1.late }
def State.postLate (s : State) : State := postLateFrom s s.late

/-- A packet's status is written to DONE; a bad DONE leaves a record for the fault queue. -/
def State.writeStatus (s : State) (c : Nat) (done : Word) (f : Nat × Nat × Nat) : State :=
  if done = 0 then s
  else if s.goodWord c done.toNat fun e => e.w then
    match s.vKey c done.toNat with
    | some k => s.fillWord k (statusWord f.1 f.2.1 f.2.2)
    | none => s
  else
    let r := match s.walk c done.toNat with
      | .error r => r
      | .ok _ => 1
    { s with late := s.late ++ [(c, r, done.toNat)] }.postLate

/-! ## Taking a packet (R350, R352, R358) -/

/-- The launches of a queue that have not ended. -/
def State.openLaunches (s : State) (c q : Nat) : List Launch :=
  s.launches.filter fun l => decide (l.ctx = c) && decide (l.queue = q) && decide (l.phase ≠ .ended)

/-- The 16 words of a packet in the slot at HEAD, whose header is full, with its slot index and the key of HEAD; none while
no slot is posted. -/
def State.posted (s : State) (c q : Nat) : Option (Nat × Nat × Vector Word 16) :=
  let logn := bits (s.queueWord c q 1) 0 4
  if decide (s.ctxState c = .running) && s.qen c q && decide (1 ≤ logn ∧ logn ≤ 12) then
    match s.vKey c (s.qbase c q + 8) with
    | none => none
    | some hk =>
      let t := s.num hk 8
      match s.vKey c (s.slotVa c q t) with
      | none => none
      | some k => if s.tag k then some (t, hk, vmk 16 fun j => s.word (k + 8 * j)) else none
  else none

def packetType (p : Vector Word 16) : Nat := bits p[0] 60 4

/-- A queue may take the packet at HEAD: its packets have ended, or a hint allows an early start of a LAUNCH (R358). -/
def State.mayTake (s : State) (c q t : Nat) (p : Vector Word 16) : Bool :=
  (s.queue c q).waiting.isNone && match s.openLaunches c q with
    | [] => true
    | [l] => l.hint && decide (l.phase ≠ .waiting) && decide (packetType p = 0) && decide (t = l.slot + 1)
    | _ => false

/-- The slot is taken, as an acquire at `.dev` (R350): its header's tag is empty and HEAD has moved; launches of the queue that
have ended are forgotten. -/
def State.takeSlot (s : State) (c q t hk : Nat) : State :=
  let s1 := match s.vKey c (s.slotVa c q t) with
    | some k => s.setTag k false
    | none => s
  { (s1.setWord hk (BitVec.ofNat 64 (t + 1))).dropClean with
    launches := s1.launches.filter fun l => !(decide (l.ctx = c) && decide (l.queue = q) && decide (l.phase = .ended)) }

/-- Checks 1 and 2 of a packet (R351, R357): the first that fails, or 0. -/
def headerCheck (t : Nat) (p : Vector Word 16) (zero : List (Nat × Nat × Nat)) : Nat :=
  if bits p[0] 48 12 ≠ 0 ∨ bits p[0] 0 32 ≠ 0 ∨ 6 ≤ packetType p ∨
      zero.any fun z => decide (bits (p.toList.getD z.1 0) z.2.1 z.2.2 ≠ 0) then 1
  else if bits p[0] 32 16 ≠ t % 65536 then 2 else 0

/-- Whole words that must be zero. -/
def zeroWords (a b : Nat) : List (Nat × Nat × Nat) := (List.range (b - a)).map fun j => (a + j, 0, 64)

/-- The reserved fields of a LAUNCH (R353). Bit 63 of word 6, which no field names, counts as one (log 139). -/
def launchZero : List (Nat × Nat × Nat) :=
  [(3, 0, 14), (4, 30, 34), (4, 10, 8), (5, 63, 1), (6, 63, 1), (7, 42, 22), (11, 49, 15), (11, 26, 6), (11, 9, 7)] ++
    zeroWords 12 16

/-- A packet of one of some types is taken and given to its meaning, after checks 1 and 2. -/
def takePacket (c : Fin 4096) (q : Fin 64) (types : Nat → Bool) (zero : List (Nat × Nat × Nat)) (s : State)
    (f : Nat → Vector Word 16 → State → State) : Host.Outcome State Fault Refusal :=
  .next (match s.posted c.val q.val with
    | none => s
    | some (t, hk, p) =>
      if types (packetType p) && s.mayTake c.val q.val t p then
        let s1 := s.takeSlot c.val q.val t hk
        let code := headerCheck t p zero
        if code = 0 then f t p s1 else s1.writeStatus c.val p[1] (1, code, 0)
      else s)

/-! ## LOAD, UNLOAD, WAIT, FILL and BARRIER (R351, R362, R363, R368) -/

def loadPacket (c q : Nat) (p : Vector Word 16) (s : State) : State :=
  let o : Obj := ⟨c, p[2].toNat⟩
  let code := loadFail s o
  if code ≠ 0 then s.writeStatus c p[1] (7, code, 0)
  else
    let first := !s.referenced c o.va
    let x := s.queue c q
    let s1 := measureLoad o (s.setQueue c q (x.setCount o.va (x.count o.va + 1)))
    let s2 := if first then setWb true o (imagePages o (s.total o)) s1 else s1
    s2.writeStatus c p[1] (0, 0, 0)

def execQueueLoadPacket (c : Fin 4096) (q : Fin 64) (s : State) : Host.Outcome State Fault Refusal :=
  takePacket c q (· = 1) (zeroWords 3 16) s fun _ p s => loadPacket c.val q.val p s

/-- The page that an address lies in, be it of 64 KiB, 2 MiB or 1 GiB (R393), holds part of an object that a queue of the context
references. -/
def State.pageHeld (s : State) (c va : Nat) : Bool :=
  let size := 2 ^ ((s.leafOf c va).elim 16 Prod.snd)
  (s.queues.filter fun p => decide (p.1 / 64 = c)).any fun p => p.2.refs.any fun r =>
    (imagePages ⟨c, r.1⟩ (s.total ⟨c, r.1⟩)).any fun q => decide (q / size = va / size)

/-- The last reference of a context is dropped (R363): the object's pages are open to stores, but for those that hold part of
another object still referenced, and its lines leave the instruction cache. -/
def lastDropped (o : Obj) (s : State) : State :=
  let n := s.total o
  let mine (k : Nat) : Bool := (List.range (ceilDiv n 64)).any fun j => decide ((s.vKey o.ctx (o.va + 64 * j)).map (· / 64) = some k)
  setWb false o ((imagePages o n).filter fun p => !s.pageHeld o.ctx p) { s with core := { s.core with
    icache := s.core.icache.filter fun p => !mine p.1
    badLines := s.core.badLines.filter fun k => !mine k } }

def unloadPacket (c q : Nat) (p : Vector Word 16) (s : State) : State :=
  let o : Obj := ⟨c, p[2].toNat⟩
  let x := s.queue c q
  let n := x.count o.va
  if n = 0 then s.writeStatus c p[1] (1, 3, 0)
  else
    let s1 := s.setQueue c q (x.setCount o.va (n - 1))
    (if s1.referenced c o.va then s1 else lastDropped o s1).writeStatus c p[1] (0, 0, 0)

def execQueueUnloadPacket (c : Fin 4096) (q : Fin 64) (s : State) : Host.Outcome State Fault Refusal :=
  takePacket c q (· = 2) (zeroWords 3 16) s fun _ p s => unloadPacket c.val q.val p s

def execQueueWaitPacket (c : Fin 4096) (q : Fin 64) (s : State) : Host.Outcome State Fault Refusal :=
  takePacket c q (· = 3) (zeroWords 3 16) s fun t p s =>
    if s.goodWord c.val p[2].toNat fun e => e.r then
      s.setQueue c.val q.val { s.queue c.val q.val with waiting := some (t, p) }
    else s.writeStatus c.val p[1] (1, 10, 0)

/-- WAIT_PACKET_END (R351): the word's tag is full; it is not emptied, and the read is an acquire at `.dev`. -/
def execWaitPacketEnd (c : Fin 4096) (q : Fin 64) (s : State) : Host.Outcome State Fault Refusal :=
  let x := s.queue c.val q.val
  .next (match x.waiting with
    | none => s
    | some (_, p) => match s.vKey c.val p[2].toNat with
      | none => s
      | some k =>
        if s.tag k then (s.dropClean.setQueue c.val q.val { x with waiting := none }).writeStatus c.val p[1] (0, 0, 0) else s)

def execQueueFillPacket (c : Fin 4096) (q : Fin 64) (s : State) : Host.Outcome State Fault Refusal :=
  takePacket c q (· = 4) (zeroWords 4 16) s fun _ p s =>
    if s.goodWord c.val p[2].toNat fun e => e.w then
      match s.vKey c.val p[2].toNat with
      | some k => (s.fillWord k p[3]).writeStatus c.val p[1] (0, 0, 0)
      | none => s
    else s.writeStatus c.val p[1] (1, 10, 0)

/-- BARRIER (R351): a release at `.sys` of every earlier packet's writes. The packet is taken once the far sides have
acknowledged what this core's threads wrote. -/
def execQueueBarrierPacket (c : Fin 4096) (q : Fin 64) (s : State) : Host.Outcome State Fault Refusal :=
  if s.core.ctx = some c.val ∧ (s.pri.unacked ≠ 0 ∨ s.aux.unacked ≠ 0) then .next s
  else takePacket c q (· = 5) (zeroWords 2 16) s fun _ p s => s.writeStatus c.val p[1] (0, 0, 0)

/-! ## The checks of a LAUNCH (R354, R357) -/

def Launch.kent (l : Launch) : Nat := bits l.packet[3] 48 16
def Launch.tent (l : Launch) : Nat := bits l.packet[3] 32 16
def Launch.tun (l : Launch) : Bool := l.packet[3].getLsbD 31
def Launch.succ (l : Launch) : Bool := l.packet[3].getLsbD 30
def Launch.tlx (l : Launch) : Nat := bits l.packet[3] 25 5
def Launch.tly (l : Launch) : Nat := bits l.packet[3] 20 5
def Launch.gw (l : Launch) : Nat := 2 ^ bits l.packet[3] 17 3
def Launch.gh (l : Launch) : Nat := 2 ^ bits l.packet[3] 14 3
def Launch.pwords (l : Launch) : Nat := bits l.packet[11] 0 9
def State.kern (s : State) (l : Launch) : Kernel := s.kernel l.obj l.kent

/-- The DATA sections of the launch's kernel. -/
def State.dataSects (s : State) (l : Launch) : List Section' :=
  let k := s.kern l
  (List.range k.dataCount).map fun j => s.sect l.obj (k.dataFirst + j)

/-- The initial hoist (R250). -/
def State.initialHoist (s : State) (l : Launch) : Hoist :=
  if l.packet[8] ≠ 0 then vmk 14 fun j => BitVec.ofNat 64 (s.vNum l.ctx (l.packet[8].toNat + 8 * j) 8)
  else match s.sectAt l.obj (s.kern l).hoist with
    | some q => s.hoistAt l.obj q.off
    | none => defaultHoist

def Launch.isEmpty (l : Launch) : Bool :=
  decide (l.w = 0) || decide (l.h = 0) || (l.hasMap && (extents l.packet).any fun x => decide (x = 0))

/-- The rectangle, whose origin is a torus coordinate, the slave group and the tuner (R235 to R237). -/
def check5 (s : State) (l : Launch) : Bool :=
  decide (l.ox < s.torusW l.ctx ∧ l.oy < s.torusH l.ctx) && decide (l.w ≤ s.torusW l.ctx ∧ l.h ≤ s.torusH l.ctx) && decide (l.gw ≤ 16 ∧ l.gh ≤ 16) &&
    decide (l.w % l.gw = 0 ∧ l.h % l.gh = 0) && (!l.tun || decide (l.tlx < l.w ∧ l.tly < l.h))

def check6 (l : Launch) : Bool :=
  let x := extents l.packet
  let g := grainSizes l.packet
  if l.hasMap then
    x.all (fun v => decide (v ≤ 2 ^ 20)) && (List.zip g x).all (fun p => decide (1 ≤ p.1 ∧ p.1 ≤ p.2)) &&
      decide (totalGrains l.packet ≤ 2 ^ 32)
  else x.all (· = 0) && g.all (· = 0)

/-- The bytes of the coverage map. -/
def Launch.mapBytes (l : Launch) : Nat := 8 * ceilDiv (totalGrains l.packet) 32

def check7 (s : State) (l : Launch) : Bool :=
  let va := l.packet[9].toNat
  !l.hasMap || (decide (va % 8 = 0) && pagedVa va && pagedVa (va + l.mapBytes - 1) &&
    s.vAll l.ctx va l.mapBytes fun e => decide (e.loc = 0) && decide (e.pa < hbmSize) && e.r && e.w)

def check8 (s : State) (l : Launch) : Bool :=
  let va := l.packet[8].toNat
  (decide (va = 0) || (decide (va % 8 = 0) && s.readable l.ctx va 112)) && decide (hoistCode (s.initialHoist l) = 0)

def check9 (s : State) (l : Launch) : Bool :=
  let n := bits l.packet[11] 16 10
  decide (1 ≤ n ∧ n ≤ 512) && ((s.dataSects l).all fun q => decide (q.addr + q.size ≤ n * 1024)) &&
    (!s.portable l.obj || decide (384 ≤ n))

def check10 (s : State) (l : Launch) : Bool :=
  let va := l.packet[10].toNat
  decide (l.pwords ≤ 256) && decide (va % 8 = 0) && (decide (l.pwords = 0) || s.readable l.ctx va (4 * l.pwords))

/-- The first failed check from 3 on, or 0; an empty launch passes after check 4. -/
def launchCheck (s : State) (l : Launch) : Nat :=
  if (s.queue l.ctx l.queue).count l.packet[2].toNat = 0 then 3
  else if s.nkern l.obj ≤ l.kent ∨ (l.tun ∧ s.nkern l.obj ≤ l.tent) then 4
  else if l.isEmpty then 0
  else if !check5 s l then 5
  else if !check6 l then 6
  else if !check7 s l then 7
  else if !check8 s l then 8
  else if !check9 s l then 9
  else if !check10 s l then 10
  else 0

def RangeUnit.reset : RangeUnit := ⟨defaultHoist, defaultHoist, defaultHoist, 0, 0, 0, 0, [], 0, defaultHoist⟩

/-- A launch as its packet is taken. -/
def State.newLaunch (s : State) (c q t : Nat) (p : Vector Word 16) : Launch where
  id := s.nextLaunch
  ctx := c
  queue := q
  slot := t
  packet := p
  phase := .waiting
  fault := none
  hint := false
  pred := (s.openLaunches c q).head?.map Launch.id
  arrived := false
  released := false
  plan := 0
  exch := none
  range := RangeUnit.reset
  exited := []
  atStep := []
  waits := []
  hops := []

def launchPacket (c q t : Nat) (p : Vector Word 16) (s : State) : State :=
  let l := s.newLaunch c q t p
  let code := launchCheck s l
  if code ≠ 0 then s.writeStatus c p[1] (1, code, 0)
  else if l.isEmpty then s.writeStatus c p[1] (0, 0, 0)
  else { s with launches := s.launches ++ [l], nextLaunch := s.nextLaunch + 1 }.setQueue c q
    { s.queue c q with lastLaunch := some l.id }

/-- QUEUE_LAUNCH_PACKET (R357); it also takes, and refuses, a packet of an unallocated TYPE. -/
def execQueueLaunchPacket (c : Fin 4096) (q : Fin 64) (s : State) : Host.Outcome State Fault Refusal :=
  takePacket c q (fun t => decide (t = 0) || decide (6 ≤ t)) launchZero s fun t p s => launchPacket c.val q.val t p s

/-! ## Starting a launch (R355) -/

/-- The logical cores of the clusters that a launch holds. -/
def State.heldCores (s : State) (l : Launch) : List (Nat × Nat) :=
  ((List.range (s.torusH l.ctx)).flatMap fun y => (List.range (s.torusW l.ctx)).map fun x => (x, y)).filter fun p =>
    s.holdsCluster l (p.1 / 2) (p.2 / 2)

/-- This core lies in a cluster that the launch holds. -/
def State.inClusters (s : State) (l : Launch) : Bool :=
  decide (s.core.ctx = some l.ctx) && s.holdsCluster l (s.core.lx.val / 2) (s.core.ly.val / 2)

/-- The launch coordinates of this core, where it lies in the rectangle. -/
def State.myPlace (s : State) (l : Launch) : Option (Nat × Nat) :=
  let x := (s.core.lx.val + s.torusW l.ctx - l.ox % s.torusW l.ctx) % s.torusW l.ctx
  let y := (s.core.ly.val + s.torusH l.ctx - l.oy % s.torusH l.ctx) % s.torusH l.ctx
  if s.core.ctx = some l.ctx ∧ x < l.w ∧ y < l.h then some (x, y) else none

/-- The logical clusters of a launch. -/
def State.clusters (s : State) (l : Launch) : List (Nat × Nat) := ((s.heldCores l).map fun p => (p.1 / 2, p.2 / 2)).eraseDups

/-- The clusters that a launch has still to take. -/
def State.wanted (s : State) (l : Launch) : List (Nat × Nat) :=
  if l.phase = .waiting then s.clusters l else if l.phase = .running then l.waits else []

/-- Step 1 of R355 for one cluster: no other launch of the context holds it and its auxiliary thread is not in handler mode;
and no core of it is retired (R12, R440). -/
def State.freeFor (s : State) (l : Launch) (k : Nat × Nat) : Bool :=
  let own := decide (s.core.ctx = some l.ctx) && decide (k = (s.core.lx.val / 2, s.core.ly.val / 2))
  !(s.launches.any fun m => decide (m.id ≠ l.id) && decide (m.ctx = l.ctx) && s.holds m k.1 k.2) &&
    !(own && (s.core.hmode || s.core.fenced)) &&
    [(0, 0), (1, 0), (0, 1), (1, 1)].all fun d => !s.mgmt.fenced.contains (s.physAt l.ctx (2 * k.1 + d.1) (2 * k.2 + d.2))

/-- The clusters that are free for a launch: all that it wants at once, or for an early start each by itself (R358). -/
def State.open' (s : State) (l : Launch) : List (Nat × Nat) :=
  let w := s.wanted l
  let f := w.filter (s.freeFor l)
  if l.pred.isSome ∨ f.length = w.length then f else []

/-- Class order (R414): the lower class, and within a class the slot taken first. -/
def State.prior (s : State) (m l : Launch) : Bool :=
  decide (s.qclass m.ctx m.queue < s.qclass l.ctx l.queue) ||
    (decide (s.qclass m.ctx m.queue = s.qclass l.ctx l.queue) && decide (m.id < l.id))

/-- The clusters on which a launch takes residency now: a cluster whose clock is stopped does nothing (R407). -/
def State.startable (s : State) (l : Launch) : List (Nat × Nat) :=
  let f := (s.open' l).filter fun k => !s.coreStopped l.ctx (2 * k.1) (2 * k.2) && !s.launches.any fun m =>
    decide (m.id ≠ l.id) && decide (m.ctx = l.ctx) && s.prior m l && (s.open' m).contains k
  if s.ctxState l.ctx ≠ .running then [] else if l.pred.isSome ∨ f.length = (s.open' l).length then f else []

/-- Step 1 of R355 lets a launch start, or an early one go on to clusters that have become free (R358). -/
def State.mayStart (s : State) (l : Launch) : Bool := decide (s.startable l ≠ [])

/-- A start takes this core's cluster. -/
def State.startsHere (s : State) (l : Launch) : Bool :=
  s.inClusters l && (s.startable l).contains (s.core.lx.val / 2, s.core.ly.val / 2)

/-- The range of memory keys of n bytes of a core's scratchpad cleared, with its tags and poison; the core's bank formats
are 0 (R355). -/
def clearScratch (c n : Nat) (s : State) (p : Nat × Nat) : State :=
  let k := (Loc.scratch c p.1 p.2 0).key
  { s with
    mem := sclear k (k + n) s.mem
    tags := sclear (k / 8) (k / 8 + n / 8) s.tags
    poison := sclear (k / 8) (k / 8 + n / 8) s.poison
    farFmt := sclear (((c * 32 + p.2) * 32 + p.1) * 8) (((c * 32 + p.2) * 32 + p.1) * 8 + 8) s.farFmt }

/-- A byte image copied to a core's scratchpad, one byte a step. -/
def copyImage (o : Obj) (va key : Nat) : Nat → State → State
  | 0, s => s
  | n + 1, s => copyImage o (va + 1) (key + 1) n (s.setByte key (match s.vKey o.ctx va with
      | some k => s.byte k
      | none => 0))

/-- The DATA sections copied into one core. -/
def copyData (l : Launch) (s : State) (p : Nat × Nat) : State :=
  (s.dataSects l).foldl (fun a q => copyImage l.obj (l.obj.va + q.off) (Loc.scratch l.ctx p.1 p.2 q.addr).key q.size a) s

/-- The cores of the rectangle. -/
def State.rectCores (s : State) (l : Launch) : List (Nat × Nat) :=
  (List.range l.cores).map fun i => s.rectCore l (i % l.w) (i / l.w)

/-- k[0] to k[255]: the CONST section, then the parameter block. -/
def State.constants (s : State) (l : Launch) : List (Nat × BitVec 32) :=
  let c := s.sectAt l.obj (s.kern l).const
  (List.range 256).foldl (fun a i =>
    let v := if i < l.pwords then s.vNum l.ctx (l.packet[10].toNat + 4 * i) 4
      else match c with
        | some q => if 4 * i < q.size then s.objNum l.obj (q.off + 4 * i) 4 else 0
        | none => 0
    sput 0 i (BitVec.ofNat 32 v) a) []

/-- LN.POS (R238). -/
def State.position (s : State) (l : Launch) (x y : Nat) : Word :=
  let group := decide (1 < l.gw * l.gh)
  let lead := decide (x % l.gw = 0 ∧ y % l.gh = 0)
  let tuner := l.tun && decide (l.tlx = x ∧ l.tly = y)
  BitVec.ofNat 64 ((if tuner then 2 ^ 45 else 0) + (if group && !lead then 2 ^ 44 else 0) +
    (if group && lead then 2 ^ 43 else 0) + l.h * 2 ^ 36 + l.w * 2 ^ 30 + (y * l.w + x) * 2 ^ 20 + y * 2 ^ 15 + x * 2 ^ 10 +
    s.core.ly.val * 2 ^ 5 + s.core.lx.val)

/-- The address of an offset in the CODE section. -/
def State.codeVa (s : State) (l : Launch) (off : Nat) : Word :=
  BitVec.ofNat 64 (l.obj.va + (s.sectOf l.obj 1).elim 0 Section'.off + off)

/-- A thread that starts at an address. -/
def Thread.started (t : Thread) (pc : Word) : Thread :=
  { Thread.reset with run := .running, pc := pc, fetchPc := pc, unacked := t.unacked, lastTag := t.lastTag }

/-- The core's registers and units cleared (step 2 of R355). -/
def clearCore (c : Core) : Core :=
  { c with
    bankFmt := Vector.replicate 8 0, vecCheck := 0, accSat := 0, scrErr := 0, cxMiss := 0, cxLpc := 0
    tkOrg0 := 0, tkOrg1 := 0, tiles := [], xr := [], acc := [], tileBad := [], accBad := [], cc := Vector.replicate 16 0
    mat := c.mat.ofHandler, cpy := c.cpy.ofHandler, locks := keepLocks c.mat.ofHandler c.cpy.ofHandler c.locks, counted := [], subs := Vector.replicate 8 none, forks := []
    chans := Vector.replicate 64 Chan.reset, windows := Vector.replicate 64 none
    mseq := { c.mseq with running := false }, cseq := { c.cseq with running := false }
    slots := Vector.replicate 8 none, loadOrder := 0, loaderWanted := false, loaderWake := Wake.none
    slave := Slaving.reset, pwrStat := c.pwrStat &&& ~~~(12 : Word) }

/-- Steps 4 to 6 of R355 on this core, at launch coordinates (x, y). -/
def startHere (l : Launch) (h : Hoist) (x y : Nat) (s : State) : State :=
  let k := s.kern l
  let lead := decide (x % l.gw = 0 ∧ y % l.gh = 0)
  let role : Role := if l.gw * l.gh ≤ 1 then .single else if lead then .leader else .attached
  let tuner := l.tun && decide (l.tlx = x ∧ l.tly = y)
  { s with
    pri := s.pri.started (s.codeVa l k.entry)
    aux := if tuner then s.aux.started (s.codeVa l (s.kernel l.obj l.tent).entry)
      else { Thread.reset with unacked := s.aux.unacked, lastTag := s.aux.lastTag }
    core := { s.core with
      launch := some l.id
      k := s.constants l
      view := h
      viewGen := 0
      lnPos := s.position l x y
      cxLdr := if k.loader = 0xFFFFFFFF then 0 else setBit (s.codeVa l k.loader) 0 false
      slave := { Slaving.reset with role := role } } }

/-- The coverage map zeroed. -/
def zeroMap (l : Launch) (s : State) : State :=
  if !l.hasMap then s
  else (List.range (l.mapBytes / 8)).foldl (fun a j => match a.vKey l.ctx (l.packet[9].toNat + 8 * j) with
    | some k => a.setWord k 0
    | none => a) s

/-- The initial hoist, the range unit and the map of a launch that starts (step 4 of R355). The packet's hoist words are read here again,
after check 8 (log 136). -/
def prepareLaunch (l : Launch) (s : State) : Launch × State :=
  if l.phase ≠ .waiting then (l, s)
  else
    let h := s.initialHoist l
    let u : RangeUnit := ⟨h, h, h, 0, 0, 0, 0, [], 0, h⟩
    let l1 := { l with phase := .running, range := u, waits := s.clusters l }
    let r := layRoutes l (zeroMap l s)
    ({ l1 with range := { u with ranges := if l.hasMap then l1.seed h else [] }, hops := r.1 }, r.2)

/-- A context holds its clusters while it runs or is being saved; a halted one still does. -/
def CtxState.holds (x : CtxState) : Bool := decide (x = .running) || decide (x = .saving) || decide (x = .halted)

/-- The launch index of another physical core in a launch's rectangle. -/
def State.indexOf (s : State) (l : Launch) (phys : Nat) : Option Nat :=
  (List.range l.cores).find? fun i =>
    let p := s.rectCore l (i % l.w) (i / l.w)
    decide (physOf (s.remap l.ctx p.1 p.2 % 256) p.1 p.2 = phys)

/-- The launches that hold a core: those that run in a context that holds its clusters, and have taken residency on its cluster (R358). -/
def State.launchesOn (s : State) (phys : Nat) : List (Launch × Nat) :=
  (s.launches.filter fun l => l.resident && (s.ctxState l.ctx).holds).filterMap fun l => (s.indexOf l phys).bind fun i =>
    let p := s.rectCore l (i % l.w) (i / l.w)
    if l.waits.contains (p.1 / 2, p.2 / 2) then none else some (l, i)

/-- The latest hints of the cores of a launch, other than this one, are 0 at its start (R408). -/
def State.clearHints (l : Launch) (mine : Nat × Nat → Bool) (s : State) : State :=
  let cores := (s.rectCores l).filter mine
  { s with power := { s.power with
    hints := cores.foldl (fun a p => sput 0 (s.physAt l.ctx p.1 p.2) 0 a) s.power.hints } }

/-- A launch starts by R355 on some clusters. What its writes replace leaves the L1: they happen before its first
instruction, and the take of its packet was an acquire at `.dev` (R350). A held core outside the rectangle keeps its LN.POS (log 135). -/
def startLaunch (l : Launch) (s : State) : State :=
  let ks := s.startable l
  let mine (p : Nat × Nat) : Bool := ks.contains (p.1 / 2, p.2 / 2)
  let s0 := ((s.heldCores l).filter mine).foldl (clearScratch l.ctx l.scratchBytes) s
  let (l1, s1) := prepareLaunch l s0
  let l2 := { l1 with waits := l1.waits.filter fun k => !ks.contains k }
  let s2 := ((s.rectCores l).filter mine).foldl (copyData l) s1
  let s3 := (s2.setLaunch l2).clearHints l mine
  if s.startsHere l then
    let s4 := { s3.dropClean with
      core := { clearCore s3.dropClean.core with launch := none }
      pri := { Thread.reset with unacked := s3.pri.unacked, lastTag := s3.pri.lastTag }
      aux := { Thread.reset with unacked := s3.aux.unacked, lastTag := s3.aux.lastTag } }
    match s.myPlace l with
    | some (x, y) => startHere l2 l2.range.first x y s4
    | none => s4
  else s3

/-- LAUNCH_START (R355). -/
def execLaunchStart (id : Nat) (s : State) : Host.Outcome State Fault Refusal :=
  .next (match s.launch? id with
    | none => s
    | some l => if s.mayStart l then startLaunch l s else s)

/-! ## The end of a launch (R239, R355, R356) -/

/-- A task record of a launch runs on another core of the cluster, whose engines hold its commands. -/
def State.recordsAway (s : State) (id : Nat) : Bool :=
  s.tasks.any fun p => p.2.any fun t => decide (t.launch = some id) && t.away.isSome

/-- The clock of a cluster that a launch holds is stopped. -/
def State.launchStopped (s : State) (l : Launch) : Bool :=
  decide (s.power.stopped ≠ 0) && (s.clusters l).any fun k => s.holds l k.1 k.2 && s.coreStopped l.ctx (2 * k.1) (2 * k.2)

/-- The launch may end (R239): the primary threads of all its cores have ended, and what it placed on this core is done, unless
this core has stopped for good (R380, R439), and so is each of its task records that another core runs; the launches of a saved
context stand still (R387), and so does a launch while the clock of one of its clusters is stopped (R407). Task records that still wait do not hold it up (log 110). -/
def State.mayEnd (s : State) (l : Launch) : Bool :=
  let here := decide (s.core.launch = some l.id) && !s.core.dead && !s.clusterHalted (clusterOf s.core.phys)
  if s.ctxState l.ctx = .saved ∨ s.launchStopped l then false
  else match l.phase with
  | .running => s.programsOver l && !s.recordsAway l.id && (!here || (s.workOver false && s.slotsWritten false))
  | .ending => !here || (s.workOver true && s.slotsWritten true)
  | _ => false

/-- The status of a launch (R239, R356). -/
def Launch.status (l : Launch) : Nat × Nat × Nat :=
  match l.fault with
  | some f => f
  | none => if l.hasMap ∧ l.range.done < totalGrains l.packet then (3, 0, l.range.done) else (0, 0, 0)

/-- Every open subscription of the core is closed (R311). -/
def State.closeSubs (s : State) : State :=
  (List.finRange 8).foldl (fun a e => match a.core.subs[e] with
    | some u => a.closeSub e u
    | none => a) s

/-- The journal of a thread that goes on as a handler: its work has ended with the launch, and no refusal of its posted stores
sends a message (R378). -/
def Thread.finishWork (t : Thread) : Thread :=
  { t with
    journal := vmap (fun e => if e.state ≠ .free ∧ e.mode ≠ .handler then { e with mode := .finished } else e) t.journal
    refused := t.refused.filter fun j => decide (t.journal[j].mode = .handler) }

/-- This core after its launch: subscriptions closed, threads stopped, the release performed. -/
def leaveCore (s : State) : State :=
  let s1 := s.closeSubs.writeBackAll.killLaunchThreads
  let idle (t : Thread) : Thread := { t.ended with run := .noWork, window := [], wake := Wake.none }
  { s1 with
    pri := idle s1.pri
    aux := if s1.core.hmode then s1.aux.finishWork else idle s1.aux
    core := { s1.core with
      launch := none
      mat := s1.core.mat.ofHandler
      cpy := s1.core.cpy.ofHandler
      locks := keepLocks s1.core.mat.ofHandler s1.core.cpy.ofHandler s1.core.locks
      forks := []
      loaderWanted := false
      slave := Slaving.reset } }

/-- A launch ends: the release, the status, and the clusters are free. Task records that still wait stay in the scheduler (log 110). -/
def endLaunch (l : Launch) (s : State) : State :=
  let f := l.status
  let s1 := if s.core.launch = some l.id then leaveCore s else s
  let s2 := s1.setLaunch { l with phase := .ended, exch := none }
  let s3 := if f.1 = 2 ∨ f.1 = 4 ∨ f.1 = 5 ∨ f.1 = 6 then s2.accountCtx l.ctx 13 1 else s2
  s3.writeStatus l.ctx l.packet[1] f

/-- LAUNCH_END (R239, R355). -/
def execLaunchEnd (id : Nat) (s : State) : Host.Outcome State Fault Refusal :=
  .next (match s.launch? id with
    | none => s
    | some l => if s.mayEnd l then endLaunch l s else s)

/-! ## HINT.SUCC and WAITPRED (R359, R360) -/

def execHintSucc (s : State) : Host.Outcome State Fault Refusal :=
  finish (match s.runLaunch with
    | some l => if l.succ then .ok ((s.setLaunch { l with hint := true }).advance 4) else trapAt 0x02 0 s
    | none => trapAt 0x02 0 s)

/-- The predecessor of a launch taken early has not ended. -/
def State.predRuns (s : State) : Bool :=
  match s.runLaunch with
  | some l => match l.pred with
    | some p => s.launches.any fun m => decide (m.id = p) && decide (m.phase ≠ .ended)
    | none => false
  | none => false

def execWaitpred (s : State) : Host.Outcome State Fault Refusal :=
  finish (blocking s (if s.predRuns then parkOn 11 0 0 s else .ok ((s.acquire .dev).advance 4)))

/-! ## Q.LAUNCH (R361) -/

/-- The paged sites of n words from an address, for a write at their home slices. -/
def wordSites (va : Word) (n : Nat) (s : State) : Res (List Site × State) := pagedSites Need.store va (8 * n) s

/-- Every L1 line of some sites is written back and dropped. -/
def State.flushSites (s : State) (l : List Site) : State :=
  l.foldl (fun a x => match x with
    | .loc k => if k.key % 64 = 0 then a.flushLoc k else a
    | _ => a) s

/-- The key of a site. -/
def siteKey : List Site → Nat
  | .loc k :: _ => k.key
  | _ => 0

/-- The slot written: words 1 to 15, then word 0 with SEQ and its tag full. -/
def postSlot (l : List Site) (img : List Byte) (t : Nat) (s : State) : State :=
  let w0 := BitVec.ofNat 64 (leNat (img.take 8))
  let seq := BitVec.ofNat 64 (w0.toNat - bits w0 32 16 * 2 ^ 32 + t % 65536 * 2 ^ 32)
  let s1 := cleanRun (putSites (s.flushSites l) l (leBytes 8 seq.toNat ++ img.drop 8)) l
  s1.setTag (siteKey l) true

def qLaunch (d a b : Fin 32) (s : State) : Res State := do
  let n := s.reg a
  let va := s.reg b
  let c := s.ctxNo
  let q := bits n 0 6
  if bits n 6 58 ≠ 0 ∨ !s.qen c q then trapAt 0x03 0 s
  else if va.toNat % 128 ≠ 0 then trapAt 0x03 va s
  else match classify s va with
    | .gap | .event | .protect => trapAt 0x03 va s
    | _ => do
      let (img, s1) ← loadBytes va 128 s
      let cb := BitVec.ofNat 64 (s1.qbase c q)
      let (ctl, s2) ← wordSites cb 2 s1
      let k := siteKey ctl
      let tail := s2.num k 8
      let (slot, s3) ← wordSites (BitVec.ofNat 64 (s2.slotVa c q tail)) 16 s2
      if s2.nslot c q ≤ tail - s2.num (k + 8) 8 then .ok (s2.ret d noneFree)
      else do
        let s4 ← releaseRes .dev s3
        let s5 := (s4.flushSites ctl).setWord k (BitVec.ofNat 64 (tail + 1))
        .ok ((postSlot slot img tail s5).ret d (BitVec.ofNat 64 tail))

def execQLaunch (d a b : Fin 32) (s : State) : Host.Outcome State Fault Refusal := finish (qLaunch d a b s)

end Sys2Proof.Machine
end

