-- ==== Sys2Proof/Machine/Context.lean ====
section
/-! DEFINITION. The life of a context (R375): the commands, saves (R387, R388, R391), resumes (R390) and class-0 pre-emption
(R414, R415). -/

namespace Sys2Proof.Machine

/-! ## Management commands (R423, R424) -/

/-- The management window answers from step 3 of a start on (R433). -/
def Mgmt.answers (m : Mgmt) : Bool := m.powered && (m.ready || decide (3 ≤ m.last))

/-- A command ends with a status and a value. -/
def State.respond (s : State) (status value : Nat) : State :=
  { s with mgmt := { s.mgmt with rsp := BitVec.ofNat 64 (status * 2 ^ 56 + value % 2 ^ 56), go := false } }

/-- The meaning of a command whose CODE stands with GO set; until READY every command but WARM and COLD ends with
status 1. -/
def mgCommand (code : Nat) (s : State) (f : State → State) : Host.Outcome State Fault Refusal :=
  .next (if s.mgmt.go ∧ s.mgmt.code.toNat = code then
      if s.mgmt.ready ∨ code = 0x10 ∨ code = 0x11 then f s else s.respond 1 0
    else s)

/-- A context command: its number in ARG0. -/
def ctxCommand (code : Nat) (s : State) (f : Nat → State → State) : Host.Outcome State Fault Refusal :=
  mgCommand code s fun s => let c := s.mgmt.taken[0].toNat
    if 4095 < c then s.respond 2 0 else f c s

/-! ## Clusters (R373, R414) -/

/-- The valid ones among the remap entries of a table: logical cluster (x, y) and physical cluster. -/
def validRemaps (f : Nat → Nat → Nat) : List (Nat × Nat × Nat) :=
  ((List.range 16).flatMap fun y => (List.range 16).map fun x => (x, y)).filterMap fun p =>
    let e := f (2 * p.1) (2 * p.2)
    if e / 2 ^ 15 = 1 then some (p.1, p.2, e % 256) else none

/-- The valid entries that the routers hold for a context, and those of its table in HBM. -/
def State.remaps (s : State) (c : Nat) : List (Nat × Nat × Nat) := validRemaps (s.remap c)
def State.tableRemaps (s : State) (c : Nat) : List (Nat × Nat × Nat) := validRemaps (s.tableRemap c)

/-- The physical clusters that other contexts hold. -/
def State.taken (s : State) (c : Nat) : List Nat :=
  s.ctxs.flatMap fun p => if p.1 ≠ c ∧ p.2.state.holds then (s.remaps p.1).map fun m => m.2.2 else []

/-- A context has a queue of class 0. -/
def State.ensign (s : State) (c : Nat) : Bool := (List.range 64).any fun q => s.qen c q && decide (s.qclass c q = 0)

/-- A bit of a mask over the 256 clusters. -/
def maskBit (m : Vector Word 4) (k : Nat) : Bool := (m.toList.getD (k / 64) 0).getLsbD (k % 64)

/-- A remap keeps the placement rules of R414 and names available clusters (R424). -/
def State.placeOk (s : State) (c : Nat) : Bool :=
  (s.tableRemaps c).all fun m =>
    let k := m.2.2
    s.mgmt.avail.getLsbD k &&
      (if s.ensign c then maskBit s.power.rsv k else !maskBit s.power.rsv k || maskBit s.power.lend k)

/-- Every valid remap entry names a free cluster. -/
def State.remapFree (s : State) (c : Nat) : Bool := (s.tableRemaps c).all fun m => !(s.taken c).contains m.2.2

/-! ## The core as a context takes and leaves it -/

/-- The core without its context: what belongs to the physical core stays (R59, R410). -/
def Core.bare (c : Core) : Core :=
  { Core.reset with phys := c.phys, cycle := c.cycle, time := c.time, pwrStat := c.pwrStat, hy := c.hy,
                    asleep := c.asleep, fenced := c.fenced, dead := c.dead }

def State.bareCore (s : State) : State := { s with core := s.core.bare, pri := Thread.reset, aux := Thread.reset, cur := .pri }

/-- The logical core of a context that a physical core hosts. -/
def State.hosted (s : State) (c phys : Nat) : Option (Nat × Nat) :=
  ((s.remaps c).find? fun m => decide (m.2.2 = clusterOf phys)).map fun m => (2 * m.1 + phys % 2, 2 * m.2.1 + phys / 16 % 2)

/-- The route image of a context written into its routers (R372, R375). -/
def State.loadRoutes (s : State) (c : Nat) : State :=
  let base := (s.desc c 9).toNat
  let n := s.torusW c * s.torusH c * 4096
  let mine := s.mem.filter fun p => decide (base ≤ p.1) && decide (p.1 < base + n)
  { s with routes := mine.foldl (fun a p => sput 0 (c * 2 ^ 22 + (p.1 - base)) p.2 a) (sclear (c * 2 ^ 22) ((c + 1) * 2 ^ 22) s.routes) }

/-- A context's event lines unconfigured with PHASE 0 (R313, R375). -/
def State.freshLines (s : State) (c : Nat) : State := { s with lines := sclear (c * 16384) ((c + 1) * 16384) s.lines }

/-- The clock of a cluster that a context holds is stopped: its cores are neither saved nor given up before it restarts (R407). -/
def State.holdsStopped (s : State) (c : Nat) : Bool :=
  decide (s.power.stopped ≠ 0) && (s.remaps c).any fun m => s.power.stopped.getLsbD m.2.2

/-- The clock of a cluster that a context's table names is stopped: its cores take nothing before it restarts (R407). -/
def State.wantsStopped (s : State) (c : Nat) : Bool :=
  decide (s.power.stopped ≠ 0) && (s.tableRemaps c).any fun m => s.power.stopped.getLsbD m.2.2

/-! ## Class-0 slots (R415) -/

/-- The slots of class-0 queues that are full, by queue and slot. -/
def State.ensignFull (s : State) (c : Nat) : List (Nat × Nat) :=
  ((List.range 64).filter fun q => s.qen c q && decide (s.qclass c q = 0)).flatMap fun q =>
    ((List.range (s.nslot c q)).filter fun t => (s.vKey c (s.slotVa c q t)).any s.tag).map fun t => (q, t)

/-! ## ATTACH, RUN, PREEMPT and DETACH (R375) -/

/-- ATTACH: a descriptor that is not valid ends it with STATUS 2, also where STATUS 1 would hold (log 117). -/
def attachCtx (c : Nat) (s : State) : State :=
  if !(s.desc c 0).getLsbD 0 then s.respond 2 0
  else if s.mgmt.kind = 2 ∨ s.ctxState c ≠ .unconfigured then s.respond 1 0
  else
    let s1 := (s.freshLines c).setCtx c ⟨.ready, false, 0, false, none, s.ensignFull c⟩
    ({ s1 with queues := s1.queues.filter fun p => p.1 / 64 ≠ c }).respond 0 0

def execAttach (s : State) : Host.Outcome State Fault Refusal := ctxCommand 0x01 s attachCtx

/-- A Ready context runs: its remap and routes stand in the routers, and this core belongs to it where the remap names
it. -/
def startCtx (c : Nat) (x : Ctx) (s : State) : State :=
  let s1 := ((s.writeRemap c).loadRoutes c).setCtx c { x with state := .running, wanted := false }
  match s.core.ctx, s1.hosted c s.core.phys with
  | none, some (lx, ly) =>
    let s2 := s1.bareCore
    { s2 with core := { s2.core with ctx := some c, lx := Fin.ofNat 32 lx, ly := Fin.ofNat 32 ly } }
  | _, _ => s1

def runCtx (c : Nat) (s : State) : State :=
  match s.ctx? c with
  | some x =>
    if x.state = .ready ∧ s.placeOk c ∧ s.remapFree c then (if s.wantsStopped c then s else (startCtx c x s).respond 0 0)
    else s.respond 1 0
  | none => s.respond 1 0

def execRun (s : State) : Host.Outcome State Fault Refusal := ctxCommand 0x02 s runCtx

/-- A save of a Running context is requested (R387). -/
def State.requestSave (s : State) (c : Nat) : State :=
  match s.ctx? c with
  | some x => if x.state = .running then s.setCtx c { x with state := .saving, watchdog := 0, saveFailed := false } else s
  | none => s

def preemptCtx (c : Nat) (s : State) : State :=
  if s.ctxState c = .running then (s.requestSave c).respond 0 0 else s.respond 1 0

def execPreempt (s : State) : Host.Outcome State Fault Refusal := ctxCommand 0x03 s preemptCtx

/-- Saved state is discarded with the context's launches, queues, lines and records. -/
def detachCtx (c : Nat) (s : State) : State :=
  let x := s.ctxState c
  if x = .halted ∧ s.holdsStopped c then s
  else if x = .ready ∨ x = .saved ∨ x = .halted then
    let s1 := s.freshLines c
    let s2 := { s1 with
      ctxs := s1.ctxs.filter (·.1 ≠ c)
      queues := s1.queues.filter fun p => p.1 / 64 ≠ c
      launches := s1.launches.filter fun l => l.ctx ≠ c
      tasks := s1.tasks.filter fun p => match p.2 with
        | some t => t.ctx ≠ c
        | none => true
      rmap := sclear (c * 256) ((c + 1) * 256) s1.rmap
      routes := sclear (c * 2 ^ 22) ((c + 1) * 2 ^ 22) s1.routes
      fabric := s1.fabric.filter fun f => f.ctx ≠ c
      mgmt := { s1.mgmt with halted := s1.mgmt.halted.filter fun h => h.1 ≠ c }
      rstages := s1.rstages.filter fun p => p.1 / 2 ^ 18 ≠ c }
    (if s.core.ctx = some c then s2.bareCore else s2).respond 0 0
  else s.respond 1 0

def execDetach (s : State) : Host.Outcome State Fault Refusal := ctxCommand 0x05 s detachCtx

/-! ## Saves (R387, R388) -/

/-- The thread stands at a blocking point at its commit head (R47, R386). -/
def State.atBlock (s : State) (t : ThreadId) : Bool :=
  let x := s.th t
  x.over || decide (x.run = .trapWait) || decide (x.run = .missWait) ||
    (decide (x.run = .running) && decide (1 ≤ x.wake.kind ∧ x.wake.kind ≤ 17) && s.atStop t)

/-- The kind of a thread's wake record in a save (R386). -/
def wakeKind (t : Thread) : Nat :=
  if t.over then 0 else if t.run = .trapWait then 16 else if t.run = .missWait then 15 else t.wake.kind

/-- The forward log without the parcels that a leader forwarded beyond its blocking instruction; the records and marks of that
instruction and the older ones stay (R52 rule 4). -/
def cutLog (tag : BitVec 7) (l : List LogItem) : List LogItem :=
  let mine (i : LogItem) : Bool := match i with
    | .parcels t _ => decide (t = tag)
    | _ => false
  let parcels (i : LogItem) : Bool := match i with
    | .parcels .. => true
    | _ => false
  let n := l.length - (l.reverse.takeWhile fun i => !mine i).length
  l.take n ++ (l.drop n).filter fun i => !parcels i

/-- THREAD_STOP (R387 step 1): the save takes the thread; its window is discarded, and the blocking instruction is counted
with the packets and entries beyond it (R47). -/
def execThreadStop (t : ThreadId) (s : State) : Host.Outcome State Fault Refusal :=
  .next (if s.saving ∧ !(s.th t).stopped ∧ s.atBlock t then
      let s0 := closeCycle s
      let x := s0.th t
      let tag := x.headTag
      let s1 := if x.waits then (s0.countHy 3 1).countHy 4 (1 + packets (x.window.drop 1)) else s
      let s2 := if t = .pri ∧ s.core.slave.role = .leader ∧ x.waits then
          s1.setSlave { s.core.slave with log := cutLog tag s.core.slave.log }
        else s1
      s2.setTh t { x.killed with
        rebuild := 0, stopped := true, wake := x.wake, lastTag := if x.waits then tag else x.lastKept }
    else s)

/-- A wake record as four words, by the table of R386. Of kind 16, word 1 is the address from which the subject resumes. -/
def wakeWords (t : Thread) : List Nat :=
  let k := wakeKind t
  let w := t.wake
  let flag := decide (k = 2 ∨ k = 14) && w.done
  let aux := if k = 2 then w.aux.toNat else 0
  let addr := if k ≤ 7 ∨ k = 12 then w.addr.toNat else 0
  let operand := if k ≤ 3 ∨ k = 6 ∨ k = 8 ∨ k = 9 ∨ k = 12 ∨ k = 17 then w.operand.toNat else 0
  if k = 0 then [0, 0, 0, 0] else [k + (if flag then 256 else 0) + aux * 65536, t.pc.toNat, addr, operand]

/-- A wake record written at an HBM address. -/
def putWake (k : Nat) (t : Thread) (s : State) : State :=
  ((wakeWords t).zipIdx).foldl (fun a p => a.setNum (k + 8 * p.2) 8 p.1) s

/-- No slot of a subscription is being filled or written (R312). -/
def Sub.quiet (u : Sub) : Bool := u.slots.all fun p => decide (p.1 ≠ .filling) && decide (p.1 ≠ .writing)

/-- The conditions of a save (R206, R241, R302, R312, R325, R333, R387); a launch that ends does so first (R391). A copy or a
stream controller that is parked on a page is saved as it stands (log 79). -/
def State.mayFinish (s : State) (c : Nat) : Bool :=
  let mine (k : Nat) : Bool := decide (k / 16384 = c)
  !s.holdsStopped c && (decide (s.core.ctx ≠ some c) || (s.pri.stopped && s.aux.stopped && decide (s.pri.stq = []) && decide (s.aux.stq = []) &&
    decide (s.core.mat.queue = []) && s.core.mat.running.isNone &&
    decide (s.core.cpy.queue = []) && (s.core.cpy.running.isNone || s.core.cpy.parked.isSome) &&
    !s.core.mseq.running && !s.core.cseq.running && s.core.subs.toList.all fun o => o.all fun u => u.quiet || u.parked.isSome)) &&
  (s.fabric.all fun f => decide (f.ctx ≠ c)) &&
  (s.launches.all fun l => decide (l.ctx ≠ c) || (l.exch.isNone && decide (l.phase ≠ .ending))) &&
  (s.tasks.all fun p => p.2.all fun t => decide (t.ctx ≠ c) || (t.on.isNone && t.away.isNone)) &&
  (s.flight.all fun m => match m with
    | .arrival p _ _ => !mine p
    | .completion k => !mine k) &&
  (s.rstages.all fun p => decide (p.1 / 2 ^ 18 ≠ c) || decide (p.2.held = []))

/-- The bytes that a save writes into SAVE: a record of 1 MiB for each logical core, of 64 KiB for each logical cluster, and one of
64 KiB for the context. -/
def State.saveBytes (s : State) (c : Nat) : Nat :=
  s.torusW c * s.torusH c * 2 ^ 20 + (s.torusW c + 1) / 2 * ((s.torusH c + 1) / 2) * 65536 + 65536

/-- The records of SAVE: their layout is the device's own, so that their bytes are free values, but for the wake records. -/
def putSave (c : Nat) (s : State) : State :=
  let n := s.saveBytes c
  let f (j : Nat) : Byte := BitVec.ofNat 8 (Config.freeValue (s.freeCtr + j)).toNat
  { s with freeCtr := s.freeCtr + n }.setBytes (s.desc c 8).toNat ((List.range n).map f)

/-- Steps 3 and 4: this core's L1 lines are written back and dropped, its TLB entries flushed, and cells at and above ACC are lost
(R354); the records are written. What they keep of this core the model holds as data. -/
def saveCore (c : Nat) (x : Ctx) (s : State) : State :=
  let s1 := s.writeBackAll
  let keep := s.myLaunch.elim 0 fun l => bits l.packet[11] 32 17
  let core := { s1.core with
    l1 := [], itlb := [], dtlb := [], icache := []
    acc := (s1.core.acc.filter fun p => p.1 < keep)
    accBad := s1.core.accBad.filter (· < keep) }
  let at' := (s.desc c 8).toNat + (s.core.ly.val * s.torusW c + s.core.lx.val) * 2 ^ 20 + 0xFFF00
  let s2 := putWake (at' + 32) s1.aux (putWake at' s1.pri (putSave c s1))
  let held (p : Nat × Option Task) : Bool := p.2.any fun t => decide (t.ctx = c)
  { (s2.setCtx c { x with
      state := .saved, saved := some ⟨s1.pri, s1.aux, core, s1.tasks.filter held⟩, full0 := s1.ensignFull c }).bareCore with
    tasks := s1.tasks.filter fun p => !held p }

/-! ## Resumes (R276, R390) -/

/-- A thread of a saved record issues again; posted stores of the save are settled first (R276). -/
def resumeThread (s : State) (t : Thread) : Thread :=
  let settle' (e : JEntry) : JEntry :=
    if s.entryRefused e.addr ∧ e.state = .posted then { e with state := .refused, port := 0 } else if e.state = .posted ∧ e.port = 0 then JEntry.reset else e
  let late := (List.finRange 16).filter fun j => decide (t.journal[j].state = .posted) && s.entryRefused t.journal[j].addr
  { t with
    stopped := false
    retry := true
    fetchPc := t.pc
    anew := t.anew || t.waits
    settling := t.journal.toList.any fun e => e.waits && !s.entryRefused e.addr
    journal := vmap settle' t.journal
    refused := t.refused ++ late
    wake := if t.wake.kind = 3 then { t.wake with aux := 0 } else t.wake }

/-- The out-of-range bytes of settled posted stores are reported (R152). -/
def noteSettled (t : Thread) (s : State) : State :=
  t.journal.toList.foldl (fun a e => if e.state = .posted ∧ e.port = 0 ∧ !a.entryRefused e.addr then
    a.noteSites e.addr [a.scratchSite (bits e.addr 19 5) (bits e.addr 24 5) (bits e.addr 0 19)] else a) s

/-- The saved core stands on the physical core that the remap names; what belongs to that core is as it was, or a free
value where it is another one (log 24). -/
def restoreCore (c : Nat) (r : Saved) (s : State) : State :=
  let k := ((s.remaps c).find? fun m => decide (m.1 = r.core.lx.val / 2 ∧ m.2.1 = r.core.ly.val / 2)).elim 0 fun m => m.2.2
  let phys := physOf k r.core.lx.val r.core.ly.val
  let same := decide (phys = s.core.phys)
  let f (n : Nat) (old : Word) : Word := if same then old else Config.freeValue (s.freeCtr + n)
  let s1 := { s with
    freeCtr := s.freeCtr + 8
    core := { r.core with
      phys := phys
      cycle := f 0 s.core.cycle
      time := s.core.time
      pwrStat := if same then s.core.pwrStat else BitVec.ofNat 64 ((f 1 0).toNat / 2 ^ 32 * 2 ^ 32 + (f 1 0).toNat % 3 * 4)
      hy := vmk 6 fun i => f (i + 2) (s.core.hy.toList.getD i 0)
      asleep := s.core.asleep
      fenced := s.mgmt.fenced.contains phys
      dead := s.mgmt.fenced.contains phys && (s.mgmt.fences.any fun f => decide (f.1 = phys) && decide (f.2.1 = 0x0C))
      icache := []
      badLines := [] } }
  let s2 := noteSettled r.aux (noteSettled r.pri s1)
  { s2 with
    pri := resumeThread s2 r.pri, aux := resumeThread s2 r.aux, cur := .pri
    tasks := r.tasks.foldl (fun a p => sput none p.1 p.2 a) s2.tasks }

/-- A Saved context runs again: its remap stands in the routers of its new clusters, and the routes of its PORTABLE launches
are written (R371, R390). Where this core runs another context, the model goes on with either core, and the other one is another
core of the device from then on (log 24). -/
def resumeCtx (c : Nat) (x : Ctx) (s : State) : State :=
  let s1 := (s.launches.filter fun l => decide (l.ctx = c) && l.resident).foldl
    (fun a l => let r := layRoutes l a; r.2.setLaunch { l with hops := r.1 }) (s.writeRemap c)
  let s2 := s1.setCtx c { x with state := .running, wanted := false, saved := none }
  match x.saved with
  | none => s2
  | some r =>
    if s.core.ctx = none then restoreCore c r s2
    else if s.free.getLsbD 0 then restoreCore c r s2.tickFree.bareCore
    else s2.tickFree

def resumeCmd (c : Nat) (s : State) : State :=
  match s.ctx? c with
  | some x =>
    if x.state = .saved ∧ s.placeOk c ∧ s.remapFree c then (if s.wantsStopped c then s else (resumeCtx c x s).respond 0 0)
    else s.respond 1 0
  | none => s.respond 1 0

def execResume (s : State) : Host.Outcome State Fault Refusal := ctxCommand 0x04 s resumeCmd

/-- A class-0 context that waits for clusters runs as soon as they are free (R415). -/
def wakeWanted (s : State) : State :=
  match s.ctxs.find? fun p => p.2.wanted && s.placeOk p.1 && s.remapFree p.1 && !s.wantsStopped p.1 with
  | some (c, x) => if x.state = .saved then resumeCtx c x s else if x.state = .ready then startCtx c x s else s
  | none => s

/-- SAVE_COMPLETE (R387). -/
def execSaveComplete (c : Fin 4096) (s : State) : Host.Outcome State Fault Refusal :=
  .next (match s.ctx? c.val with
    | none => s
    | some x =>
      if x.state = .saving ∧ s.mayFinish c.val then
        let s1 := if s.core.ctx = some c.val then saveCore c.val x s else (putSave c.val s).setCtx c.val { x with state := .saved, full0 := s.ensignFull c.val }
        wakeWanted (s1.accountCtx c.val 12 1)
      else s)

/-- The save fails: every launch of the context ends with status 6 and the context is Ready (R388). -/
def failSave (c : Nat) (x : Ctx) (s : State) : State :=
  let s1 := if s.core.ctx = some c then s.bareCore else s
  let s2 := { s1 with
    tasks := s1.tasks.filter fun p => match p.2 with
      | some t => t.ctx ≠ c
      | none => true
    fabric := s1.fabric.filter fun f => f.ctx ≠ c
    rstages := s1.rstages.filter fun p => p.1 / 2 ^ 18 ≠ c }
  let s3 := (s2.launches.filter fun l => decide (l.ctx = c) && decide (l.phase ≠ .ended)).foldl
    (fun a l => endLaunch { l with fault := some (6, 0, 0) } a) s2
  wakeWanted ((s3.setCtx c { x with
    state := .ready, saveFailed := true, watchdog := 0, saved := none, full0 := s.ensignFull c }).accountCtx c 12 1)

/-- SAVE_WATCHDOG_EXPIRY (R388). -/
def execSaveWatchdogExpiry (c : Fin 4096) (s : State) : Host.Outcome State Fault Refusal :=
  .next (match s.ctx? c.val with
    | none => s
    | some x =>
      if x.state ≠ .saving ∨ s.holdsStopped c.val then s
      else if x.watchdog = 0 then s.setCtx c.val { x with watchdog := 1 }
      else failSave c.val x s)

/-! ## Class-0 pre-emption (R415) -/

/-- CLASS0_PREEMPT_REQUEST (R415): a slot has filled since the context stopped running, and other contexts hold clusters that its remap
names: those contexts are to be saved, and then it runs. -/
def execClass0PreemptRequest (c : Fin 4096) (s : State) : Host.Outcome State Fault Refusal :=
  .next (match s.ctx? c.val with
    | none => s
    | some x =>
      if x.state ≠ .ready ∧ x.state ≠ .saved then s
      else
        let now := s.ensignFull c.val
        let want := (s.tableRemaps c.val).map fun m => m.2.2
        let holders := s.ctxs.filter fun p => decide (p.1 ≠ c.val) && p.2.state.holds &&
          (s.remaps p.1).any fun m => want.contains m.2.2
        if now.all x.full0.contains then s.setCtx c.val { x with full0 := x.full0.filter now.contains }
        else
          let s1 := s.setCtx c.val { x with wanted := x.wanted || decide (holders ≠ []), full0 := now }
          wakeWanted (holders.foldl (fun a p => a.requestSave p.1) s1))

end Sys2Proof.Machine
end

