-- ==== Sys2Proof/Machine/Start.lean ====
section
/-! DEFINITION. Starts of the device (R431 to R435): cold, warm and recovery, step by step, with repair at a start
(R441, R443) and measured boot (R426). -/

namespace Sys2Proof.Machine

/-! ## Leases (R412) -/

/-- SEQ a is newer than SEQ b, modulo 2^32 as R320 takes phases. -/
def newerSeq (a b : BitVec 32) : Bool := decide (a ≠ b) && decide ((a - b).toNat < 2 ^ 31)

/-- The floor budget clamps from below, 1,500 W from above. -/
def clampWatts (w : Nat) : Nat := max Config.floorWatts.toNat (min w 1500)

/-- A lease that the controller takes: adopted or ignored. It expires its duration after the reference count of its
receipt, and is recorded in the log. -/
def takeLease (l : Lease) (s : State) : State :=
  if s.power.anyLease ∧ !newerSeq l.seq s.power.lastSeq then s
  else
    let a : Lease := ⟨l.seq, clampWatts l.watts, l.ms⟩
    let p := { s.power with
      lease := a, active := decide (l.ms ≠ 0), expiry := s.power.ref.toNat + l.ms * 100000, anyLease := true
      lastSeq := l.seq }
    { s with power := p }.addLog .lease 0 [a.seq.zeroExtend 64, BitVec.ofNat 64 a.watts, BitVec.ofNat 64 a.ms]

/-- The leases that the port kept, in arrival order (R432). -/
def takeHeld (s : State) : State :=
  (s.power.held.foldl (fun a l => takeLease l a) { s with power := { s.power with held := [] } })

/-! ## The beginning of a start (R426, R432, R434, R435) -/

/-- The power block's registers as a start begins (R418); a cold start zeroes what a warm start keeps. The last lease adopted is that of
every start since the last cold one (R412). A warm start keeps the droop counters and a cold one zeroes them (log 124). -/
def startPower (cold : Bool) (p : Power) : Power :=
  { Power.reset with
    held := p.held
    anyLease := !cold && p.anyLease
    lastSeq := if cold then 0 else p.lastSeq
    droops := if cold then [] else p.droops
    derates := if cold then 0 else p.derates
    unattrUj := if cold then 0 else p.unattrUj
    unattrNj := if cold then 0 else p.unattrNj
    acct := if cold then [] else p.acct
    residue := if cold then [] else p.residue
    ref := if cold then 0 else p.ref }

/-- A start begins: requested cold (0) or warm (1). A warm request before the first completed training is cold; three
failed starts in the window make it a recovery start. A register with a Reset value takes it here (log 108). -/
def beginStart (req : Nat) (s : State) : State :=
  let m := s.mgmt
  let kept := m.window.filter fun w => decide (m.standby - w ≤ 600)
  let rec' := decide (3 ≤ kept.length)
  let kind := if rec' then 2 else if req = 1 ∧ !m.trained then 0 else req
  { s with
    ctxBase := 0
    power := startPower (decide (kind ≠ 1)) s.power
    mgmt := { m with
      powered := true
      starting := true
      last := 0
      fails := kept.length
      kind := kind
      ready := false
      degraded := false
      code := 0, codeReg := 0, go := false, rsp := 0, args := Vector.replicate 4 0, taken := Vector.replicate 4 0
      retries := 0, discards := 0, corrHbm := 0, corrSram := 0, avail := 0
      window := if rec' then [] else kept
      meas := Vector.replicate 16 0
      translations := []
      spdmVersion := false, spdmAlgorithms := false, spdmRest := [], spdmOut := [] } }

/-! ## Images (R429) -/

/-- The bank that a start boots for an image: the pending one, else the active one. -/
def Mgmt.bootBank (m : Mgmt) (img : Fin 2) : Fin 2 :=
  let other := 1 - m.active[img]
  if (m.banks[img])[other].pending then other else m.active[img]

/-- The bytes that a start boots for an image; recovery boots the golden images. -/
def Mgmt.bootBytes (m : Mgmt) (img : Fin 2) : Config.ImageBytes :=
  if m.kind = 2 then Config.golden img else (m.banks[img])[m.bootBank img].bytes

/-- Steps 2 and 3 of R429 for a booted image; a golden image is checked by step 2 only. -/
def Mgmt.bootOk (m : Mgmt) (img : Fin 2) : Bool :=
  Config.imageSigned (m.bootBytes img) && (decide (m.kind = 2) || match Config.imageSvn (m.bootBytes img) with
    | some v => decide (m.fsvn ≤ v)
    | none => false)

/-- The bank of an image that a start boots; a golden image lies in none. -/
def Mgmt.bankUsed (m : Mgmt) (img : Fin 2) : Option (Fin 2) := if m.kind = 2 then none else some (m.bootBank img)

/-- A golden image whose SVN is below FSVN boots (R435). -/
def Mgmt.belowFsvn (m : Mgmt) : Bool :=
  decide (m.kind = 2) && [0, 1].any fun i => match Config.imageSvn (m.bootBytes i) with
    | some v => decide (v < m.fsvn)
    | none => false

/-- The banks with a change to an image's bank. -/
def Mgmt.setBank (m : Mgmt) (img bank : Fin 2) (b : Bank) : Mgmt :=
  { m with banks := m.banks.set img ((m.banks[img]).set bank b) }

/-- A started image's pending bank becomes active. -/
def Mgmt.adopt (m : Mgmt) (img : Fin 2) : Mgmt :=
  let b := m.bootBank img
  { m.setBank img b { (m.banks[img])[b] with pending := false } with active := m.active.set img b }

/-- A failed start clears the pending mark of a bank it booted. -/
def Mgmt.unmark (m : Mgmt) (img : Fin 2) : Mgmt :=
  let b := m.bootBank img
  m.setBank img b { (m.banks[img])[b] with pending := false }

/-- A failed start (R429, R434): it enters the window and the log, and a cold start begins. -/
def failStart (s : State) : State :=
  let s1 := s.addLog .failedStart 0 [BitVec.ofNat 64 s.mgmt.last]
  let m := if s1.mgmt.kind = 2 then s1.mgmt else (s1.mgmt.unmark 0).unmark 1
  beginStart 0 { s1 with mgmt := { m with window := m.window ++ [m.standby] } }

/-! ## Repair at a start (R10, R12, R441, R443) -/

/-- The row of a die's mesh that holds a physical core. -/
def rowOf (phys : Nat) : Nat := phys / 16

/-- Each retired core's row spare takes its coordinate, unless it is in use or has itself failed BIST: the cores that stay fenced, and
the rows whose spare is in use. -/
def applySpares (bad : List Nat) : List Nat → List Nat → List Nat × List Nat
  | [], rows => ([], rows)
  | p :: l, rows =>
    if rows.contains (rowOf p) || bad.contains (rowOf p) then let r := applySpares bad l rows; (p :: r.1, r.2)
    else applySpares bad l (rows ++ [rowOf p])

/-- The clusters without a fenced core (R422, R440). -/
def availOf (fenced : List Nat) : BitVec 256 :=
  fenced.foldl (fun a p => a &&& ~~~ (1#256 <<< clusterOf p)) (BitVec.allOnes 256)

/-- The retired pages of a stack fill its list: 4,096 pages of the 64 GiB (R443). -/
def pagesFull (pages : List Nat) (stack : Nat) : Bool :=
  decide (4096 ≤ (pages.filter fun p => decide (p * 65536 / 2 ^ 36 = stack)).length)

/-- A retirement's fencing record, in the list that a start keeps and in the log (R440). -/
def State.fence (s : State) (phys cause : Nat) : State :=
  { s with mgmt := { s.mgmt with
      fences := s.mgmt.fences ++ [(phys, cause, s.mgmt.standby)]
      fenced := s.mgmt.fenced ++ [phys] } }.addLog .coreRetired phys [BitVec.ofNat 64 cause, BitVec.ofNat 64 s.mgmt.standby]

/-- Core BIST of a cold start: the defects that it finds retire cores, with cause 0 (log 66), and mark spares as bad (R441). -/
def coreBist (s : State) : State :=
  let cores := ((s.mgmt.defects.filter fun d => !d.1).map Prod.snd).eraseDups.filter fun p => !s.mgmt.fenced.contains p
  let rows := (s.mgmt.defects.filter fun d => d.1).map Prod.snd
  cores.foldl (fun a p => a.fence p 0) { s with mgmt := { s.mgmt with defects := [], badSpares := s.mgmt.badSpares ++ rows } }

/-- Step 7: core BIST, but at a warm start that finds a stored spare map (R431); then the spare map and the pending retirements are applied,
stored and measured. The errors counted in a core that a spare replaces are not the spare's. -/
def applyRepairs (s0 : State) : State :=
  let s := if s0.mgmt.kind = 1 ∧ s0.mgmt.mapSaved then s0 else coreBist s0
  let r := applySpares s.mgmt.badSpares s.mgmt.fenced s.mgmt.spares
  let s1 := { s with
    mgmt := { s.mgmt with
      fenced := r.1, spares := r.2, avail := availOf r.1, mapSaved := true
      coreErrors := s.mgmt.coreErrors.filter fun e => !s.mgmt.fenced.contains e.1 || r.1.contains e.1
      degraded := decide (r.1 ≠ []) || (List.range 8).any fun k => pagesFull s.mgmt.pages k }
    core := { s.core with fenced := r.1.contains s.core.phys, dead := s.core.dead && r.1.contains s.core.phys } }
  s1.extend 2 (Config.repairBytes r.2 r.1 s.mgmt.pages)

/-! ## The device cleared (R431 step 10) -/

/-- Every HBM byte and every SRAM zero, every tag empty and every context Unconfigured; host and peer memory lie
outside the device. The reference count, the accounting and the management controller go on, with the registers of its window, which took
their Reset values as the start began (log 108); no cluster is halted. -/
def clearDevice (s : State) : State :=
  { State.reset with
    core := { Core.reset with phys := s.core.phys, time := s.power.ref, fenced := s.core.fenced, dead := s.core.dead }
    nextLaunch := s.nextLaunch
    mem := s.mem.filter fun p => (decide (2 ^ 60 ≤ p.1) && decide (p.1 < 2 ^ 62)) || decide (2 ^ 70 ≤ p.1)
    ctxBase := s.ctxBase
    mgmt := { s.mgmt with halted := [] }
    power := s.power
    agenda := s.agenda
    turn := s.turn
    freeCtr := s.freeCtr }

/-! ## The steps (R431) -/

/-- The step after the last one completed: a warm start runs neither step 1 nor step 6. -/
def nextStep (kind last : Nat) : Nat :=
  if kind = 1 ∧ last = 0 then 2 else if kind = 1 ∧ last = 5 then 7 else last + 1

/-- The checks of a step, that fail the start. -/
def stepOk (s : State) (k : Nat) : Bool := if k = 3 then s.mgmt.bootOk 0 else if k = 10 then s.mgmt.bootOk 1 else true

/-- What a step does. -/
def runStep (k : Nat) (s : State) : State :=
  let m := s.mgmt
  if k = 3 then takeHeld (s.extend 0 (Config.imageText (m.bootBytes 0)))
  else if k = 4 then s.extend 1 (Config.fuseBytes m.fsvn)
  else if k = 5 then { s with mgmt := { m with trained := true, phySaved := true } }
  else if k = 6 then { s with mgmt := { m with rowsDue := [], rowErrors := m.rowErrors.filter fun e => !m.rowsDue.contains e.1 } }
  else if k = 7 then applyRepairs s
  else if k = 8 then { s with mgmt := { m with linksDown := m.linksDown.filter fun l => l.1 } }
  else if k = 9 then { s with mgmt := { m with linksDown := m.linksDown.filter fun l => !l.1 } }
  else if k = 10 then
    clearDevice (((s.extend 3 (Config.imageText (m.bootBytes 1))).extend 4
      (Config.bootRecord m.kind (m.bankUsed 0) (m.bankUsed 1) m.belowFsvn).toList).extend 5 Config.configRegion)
  else if k = 11 then
    { s with mgmt := { (if m.kind = 2 then m else (m.adopt 0).adopt 1) with ready := true, starting := false } }
  else s

/-- START_STEP_COMPLETE: the next step ends, completing or failing, with its record in the log. -/
def execStartStepComplete (s : State) : Host.Outcome State Fault Refusal :=
  let k := nextStep s.mgmt.kind s.mgmt.last
  .next (if !s.mgmt.starting then s
    else if stepOk s k then
      let s1 := runStep k s
      { s1 with mgmt := { s1.mgmt with last := k } }.addLog .startStep 0 [BitVec.ofNat 64 k]
    else failStart s)

/-- START_STEP_TIMEOUT: a start that exceeds its limit has failed. -/
def execStartStepTimeout (s : State) : Host.Outcome State Fault Refusal := .next (if s.mgmt.starting then failStart s else s)

/-- POWER_ON begins a cold start, the first one, whose training is still to come (R432); the module has standby power from here on (R434,
log 129). -/
def execPowerOn (s : State) : Host.Outcome State Fault Refusal :=
  .next (beginStart 0 { s with mgmt := { s.mgmt with trained := false, standbyPower := true } })

/-- A hot reset of Kararlink-H begins a warm start. -/
def execKararlinkHotReset (s : State) : Host.Outcome State Fault Refusal :=
  .next (if s.mgmt.powered then beginStart 1 s else s)

/-- STANDBY_POWER_LOSS (R434): the seconds counter stands at 0 and the window is empty; without standby power the device
does nothing until it is powered on. The errors counted so far have no time on the new counter and are forgotten (log 129). -/
def execStandbyPowerLoss (s : State) : Host.Outcome State Fault Refusal :=
  .next { s with mgmt := { s.mgmt with
    standby := 0, standbyPower := false, window := [], coreErrors := [], rowErrors := []
    powered := false, starting := false, ready := false, trained := false } }

/-! ## WARM and COLD (R424) -/

def execWarm (s : State) : Host.Outcome State Fault Refusal := mgCommand 0x10 s fun s => beginStart 1 s
def execCold (s : State) : Host.Outcome State Fault Refusal := mgCommand 0x11 s fun s => beginStart 0 s

/-- LINK_DOWN (R431): the next warm start trains the link again. -/
def execLinkDown (kararlink : Bool) (link : Nat) (s : State) : Host.Outcome State Fault Refusal :=
  .next { s with mgmt := { s.mgmt with linksDown := (kararlink, link) :: s.mgmt.linksDown.filter (· ≠ (kararlink, link)) } }

/-- LINK_LEVEL_RETRY (R243, R422). -/
def execLinkLevelRetry (s : State) : Host.Outcome State Fault Refusal :=
  .next { s with mgmt := { s.mgmt with retries := s.mgmt.retries + 1 } }

end Sys2Proof.Machine
end

