-- ==== Sys2Proof/Machine/Errors.lean ====
section
/-! DEFINITION. Soft errors, poison, machine checks and retirement (R39, R436 to R443). -/

namespace Sys2Proof.Machine

/-! ## Retirement of cores (R440) -/

/-- A core is retired: fenced, its cluster unavailable, with its fencing record in the log and the start record. -/
def State.retire (s : State) (phys cause : Nat) : State :=
  if s.mgmt.fenced.contains phys then s
  else
    let s1 := s.fence phys cause
    { s1 with
      mgmt := { s1.mgmt with avail := s.mgmt.avail &&& ~~~ (1#256 <<< clusterOf phys) }
      core := { s1.core with fenced := s.core.fenced || decide (phys = s.core.phys) } }

/-- The errors within the last 86,400 standby seconds. -/
def recent (now : Nat) (l : List (Nat × Nat)) : List (Nat × Nat) := l.filter fun e => decide (now - e.2 < 86400)

/-- A corrected SRAM error in a core: more than 64 within the period retire it (cause 0, log 27). -/
def sramError (phys : Nat) (s : State) : State :=
  let l := recent s.mgmt.standby s.mgmt.coreErrors ++ [(phys, s.mgmt.standby)]
  let s1 := { s with mgmt := { s.mgmt with corrSram := s.mgmt.corrSram + 1, coreErrors := l } }
  if 64 < (l.filter fun e => decide (e.1 = phys)).length then s1.retire phys 0 else s1

/-! ## Repair of HBM (R443) -/

/-- A 64 KiB page is retired, unless its stack's list is full; a full list degrades the device. -/
def State.retirePage (s : State) (pa : Nat) : State :=
  let p := pa / 65536
  let s1 := s.addLog .pageRetired (pa / 2 ^ 36) [BitVec.ofNat 64 (p * 65536)]
  if s.mgmt.pages.contains p then s
  else if pagesFull s.mgmt.pages (pa / 2 ^ 36) then { s1 with mgmt := { s1.mgmt with degraded := true } }
  else
    let l := s1.mgmt.pages ++ [p]
    { s1 with mgmt := { s1.mgmt with pages := l, degraded := s1.mgmt.degraded || pagesFull l (pa / 2 ^ 36) } }

/-- A row is due for repair at the next cold start; its page is retired when no spare row is left. -/
def State.spareRow (s : State) (pa : Nat) : State :=
  let r := Config.hbmRow pa
  if s.mgmt.rowsDue.contains r then s
  else if Config.rowSpareLeft r then
    { s with mgmt := { s.mgmt with rowsDue := s.mgmt.rowsDue ++ [r] } }.addLog .rowSpared (pa / 2 ^ 36) [BitVec.ofNat 64 pa]
  else s.retirePage pa

/-- A corrected HBM error: more than 8 in a row within the period spare it. -/
def hbmError (pa : Nat) (s : State) : State :=
  let r := Config.hbmRow pa
  let l := recent s.mgmt.standby s.mgmt.rowErrors ++ [(r, s.mgmt.standby)]
  let s1 := { s with mgmt := { s.mgmt with corrHbm := s.mgmt.corrHbm + 1, rowErrors := l } }
  if 8 < (l.filter fun e => decide (e.1 = r)).length then s1.spareRow pa else s1

/-- The logical core of a context whose data the scratchpad of a physical core holds. -/
def State.resident (s : State) (phys : Nat) : Option (Nat × Nat × Nat) :=
  (s.ctxs.filter fun p => p.2.state.holds).findSome? fun p => (s.hosted p.1 phys).map fun q => (p.1, q.1, q.2)

/-- CORRECTED_ERROR (R436): the corrected form is written back, so no value changes; the error is counted. -/
def execCorrectedError (site : ErrorSite) (s : State) : Host.Outcome State Fault Refusal :=
  .next (match site with
    | .hbm pa => hbmError pa s
    | .scratch phys _ => sramError phys s
    | .slice _ => { s with mgmt := { s.mgmt with corrSram := s.mgmt.corrSram + 1 } }
    | .l1 phys _ => sramError phys s
    | .tile phys _ => sramError phys s
    | .acc phys _ => sramError phys s
    | .coreSram phys => sramError phys s
    | .coreLogic phys => sramError phys s)

/-! ## Machine checks (R39, R439) -/

/-- The core is in the handler chain of the running context. -/
def State.isHandler (s : State) : Bool :=
  [0, 1, 2, 3].any fun i => match s.handler? s.ctxNo i with
    | some p => s.isSelf p.1 p.2
    | none => false

/-- The message of a machine check. -/
def State.checkMsg (s : State) : Msg :=
  s.mkMsg ⟨0x0C, true, false, false, false, s.pri.lastTag.toNat, false, 0, s.pri.pc, 0, 0⟩

/-- A handler core fails: its chain goes on as after a handler fault. Outside handler mode it served no message. -/
def failHandler (s : State) : State :=
  if s.core.hmode then handlerFault 0x0C 0 s
  else handlerFault 0x0C 0 { s with core := { s.core with trapMsg := Vector.replicate 8 0x100, trapPos := s.handlerIndex } }

/-- A machine check of this core: its launch ends with cause 0x0C, the message goes to the chain of its context, if it has one, and to the
log, the core is retired and does nothing further. -/
def machineCheck (s : State) : State :=
  let s1 := s.addLog .machineCheck s.core.phys []
  let s2 := match s1.core.launch with
    | some id => s1.killLaunch id 0x0C (s1.statusInfo .pri)
    | none => s1
  let s3 := if s2.core.ctx.isNone then s2
    else if s2.isHandler || s2.core.hmode then failHandler s2 else s2.sendTerminal s1.checkMsg
  let s4 := s3.retire s3.core.phys 0x0C
  { s4 with
    pri := { s4.pri.ended with wake := Wake.none }
    aux := { s4.aux.ended with wake := Wake.none }
    core := { s4.core with dead := true } }.stopUnits

/-- PARITY_ERROR (R39). -/
def execParityError (s : State) : Host.Outcome State Fault Refusal := .next (if s.core.dead then s else machineCheck s)

/-- A launch that holds another core whose logic failed ends with cause 0x0C and that core's index (R356, R439). -/
def State.failOthers (s : State) (phys : Nat) : State :=
  (s.launchesOn phys).foldl (fun a p => a.killLaunch p.1.id 0x0C p.2) s

/-- The logical core of a context that a physical core runs. -/
def State.logicalOn (s : State) (c phys : Nat) : Option (Nat × Nat) :=
  ((List.range (s.torusW c)).flatMap fun x => (List.range (s.torusH c)).map fun y => (x, y)).find? fun p =>
    s.corePresent c p.1 p.2 && decide (s.physAt c p.1 p.2 = phys)

/-- The message of a machine check of another core: its PC and TAG are that core's, which the model does not hold, and so is the
cause of the message that a handler served there (log 73). -/
def State.farCheckMsg (s : State) (c phys x y : Nat) (nest : Bool) : Msg :=
  let l := (s.launchesOn phys).find? fun p => decide (p.1.ctx = c)
  let w0 := 0x0C + 2 ^ 8 + (if nest then 2 ^ 9 + 2 ^ 11 else 0) + s.free.toNat % 128 * 2 ^ 16 +
    (l.elim 0 Prod.snd) % 1024 * 2 ^ 32 + x * 2 ^ 42 + y * 2 ^ 47
  #v[BitVec.ofNat 64 w0, s.tickFree.free, 0, if nest then BitVec.ofNat 64 (s.tickFree.tickFree.free.toNat % 256) else 0,
    BitVec.ofNat 64 (l.elim 0 fun p => p.1.slot % 65536 * 2 ^ 32 + p.1.queue % 64), 0, 0, 0]

/-- A message for handler h of a context. -/
def State.postIn (s : State) (c : Nat) (h : Nat × Nat × Nat) (m : Msg) : State :=
  if s.core.ctx = some c then s.post h m else { s with outbox := s.outbox ++ [(h.1, m)] }

/-- What the handler chain of a context learns of another core's machine check: a message, or, where that core is a handler, the
nested message of a handler fault (R380, R439). -/
def farCheck (phys c : Nat) (s : State) : State :=
  match s.logicalOn c phys with
  | none => s
  | some (x, y) =>
    let s1 := s.tickFree.tickFree.tickFree
    match [0, 1, 2, 3].find? fun i => decide (s.handler? c i = some (x, y)) with
    | none => if (s.launchesOn phys).any fun p => decide (p.1.ctx = c) then s1.sendFor c (s.farCheckMsg c phys x y false) else s
    | some i => match s.firstHandler c (i + 1) with
      | some h => s1.postIn c h (s.farCheckMsg c phys x y true)
      | none => s1.haltCtx c (clusterOf phys)

/-- A core whose registers or logic failed. -/
def coreError (phys : Nat) (s : State) : State :=
  if phys = s.core.phys then (if s.core.dead then s else machineCheck s)
  else
    let cs := (s.ctxs.filter fun p => decide (p.2.state = .running) || decide (p.2.state = .saving)).map Prod.fst
    let s1 := cs.foldl (fun a c => farCheck phys c a) ((s.addLog .machineCheck phys []).failOthers phys)
    s1.retire phys 0x0C

/-- The bytes of a word of the L1 are bad. -/
def State.badL1 (s : State) (k : Nat) : State :=
  (List.range 8).foldl (fun a j => let k' := k / 8 * 8 + j; a.setL1 k' ((a.l1 k').map fun b => { b with bad := true })) s

/-- UNCORRECTABLE_ERROR (R436, R439, R443): the word of an SRAM that holds data, or the words of the HBM granule, are poisoned; in a
core's register stores and logic it is a machine check. -/
def execUncorrectableError (site : ErrorSite) (s : State) : Host.Outcome State Fault Refusal :=
  .next (match site with
    | .hbm pa =>
      let g := pa / 32 * 32
      (((((s.setPoison g true).setPoison (g + 8) true).setPoison (g + 16) true).setPoison (g + 24) true).spareRow pa).retirePage pa
    | .scratch phys off => match s.resident phys with
      | some (c, x, y) => s.setPoison (Loc.scratch c x y (off % 524288)).key true
      | none => s
    | .slice pa => s.setPoison pa true
    | .l1 phys k => if phys = s.core.phys then s.badL1 k else s
    | .tile phys w => if phys = s.core.phys then { s with core := { s.core with tileBad := w % 4096 :: s.core.tileBad } } else s
    | .acc phys l =>
      if phys = s.core.phys then { s with core := { s.core with accBad := l.map (· % 65536) ++ s.core.accBad } } else s
    | .coreSram phys => coreError phys s
    | .coreLogic phys => coreError phys s)

/-- CODE_LINE_ERROR (R438): the line is poisoned and logged as deferred. -/
def execCodeLineError (line : Nat) (s : State) : Host.Outcome State Fault Refusal :=
  .next ({ s with core := { s.core with badLines := line :: s.core.badLines.filter (· ≠ line) } }.addLog .deferredCode
    s.core.phys [BitVec.ofNat 64 (line * 64)])

/-- PATROL_SCRUB (R436): the granule is read and written back; what it corrects, CORRECTED_ERROR counts. -/
def execPatrolScrub (_ : Nat) (s : State) : Host.Outcome State Fault Refusal := .next s

end Sys2Proof.Machine
end

