-- ==== Sys2Proof/Machine/Perform.lean ====
section
/-! DEFINITION. One instruction performed: the meanings of exec for the instructions that a thread can hold in its commit
window. The events of the halyard perform through it. -/

namespace Sys2Proof.Machine

/-- The meaning of an encoded instruction; an event of a unit is no instruction of a thread and leaves the state. -/
def perform (i : Instr) (s : State) : Host.Outcome State Fault Refusal :=
  match i with
  | .add w d a b => execAdd w d a b s
  | .sub w d a b => execSub w d a b s
  | .and w d a b => execAnd w d a b s
  | .or w d a b => execOr w d a b s
  | .xor w d a b => execXor w d a b s
  | .andn w d a b => execAndn w d a b s
  | .shl w d a b => execShl w d a b s
  | .shr w d a b => execShr w d a b s
  | .sar w d a b => execSar w d a b s
  | .min w d a b => execMin w d a b s
  | .max w d a b => execMax w d a b s
  | .minu w d a b => execMinu w d a b s
  | .maxu w d a b => execMaxu w d a b s
  | .slt w d a b => execSlt w d a b s
  | .sltu w d a b => execSltu w d a b s
  | .seq w d a b => execSeq w d a b s
  | .clz w d a => execClz w d a s
  | .ctz w d a => execCtz w d a s
  | .popc w d a => execPopc w d a s
  | .sext w d a p => execSext w d a p s
  | .zext w d a p => execZext w d a p s
  | .sel w d a b => execSel w d a b s
  | .mov d a => execMov d a s
  | .mul w d a b => execMul w d a b s
  | .mulh w d a b => execMulh w d a b s
  | .mulhu w d a b => execMulhu w d a b s
  | .div w d a b => execDiv w d a b s
  | .divu w d a b => execDivu w d a b s
  | .rem w d a b => execRem w d a b s
  | .remu w d a b => execRemu w d a b s
  | .li d imm => execLi d imm s
  | .lix n imm => execLix n imm s
  | .lxh n imm => execLxh n imm s
  | .movxFromX d n => execMovxFromX d n s
  | .movxToX n a => execMovxToX n a s
  | .saddr d a b => execSaddr d a b s
  | .lea d b off scale => execLea d b off scale s
  | .b c s1 s2 hint off => execB c s1 s2 hint off s
  | .loop c off => execLoop c off s
  | .bsplit c s1 s2 hint off => execBsplit c s1 s2 hint off s
  | .j off => execJ off s
  | .jal off => execJal off s
  | .jr d a => execJr d a s
  | .cMov d r => execCMov d r s
  | .cAdd d r => execCAdd d r s
  | .cSub d r => execCSub d r s
  | .cAnd d r => execCAnd d r s
  | .cAddi d imm => execCAddi d imm s
  | .cLi d imm => execCLi d imm s
  | .cShli d imm => execCShli d imm s
  | .cShri d imm => execCShri d imm s
  | .cLdw d b o => execCLdw d b o s
  | .cStw d b o => execCStw d b o s
  | .cBeqz r off => execCBeqz r off s
  | .cBnez r off => execCBnez r off s
  | .cJ off => execCJ off s
  | .cJr r => execCJr r s
  | .ld d b off sz => execLd d b off sz s
  | .ldIndexed d b imm sh sz => execLdIndexed d b imm sh sz s
  | .st d b off sz => execSt d b off sz s
  | .stIndexed d b imm sh sz => execStIndexed d b imm sh sz s
  | .ldr d b off => execLdr d b off s
  | .stp d b off => execStp d b off s
  | .pref llc b off => execPref llc b off s
  | .kld d b off => execKld d b off s
  | .ldf d b off => execLdf d b off s
  | .ldfe d b off => execLdfe d b off s
  | .stf d b off => execStf d b off s
  | .stef d b off => execStef d b off s
  | .tagset b off => execTagset b off s
  | .tagclr b off => execTagclr b off s
  | .tagtst d b off => execTagtst d b off s
  | .vld v ty b off => execVld v ty b off s
  | .vlds v ty b off => execVlds v ty b off s
  | .vldx v ty b x => execVldx v ty b x s
  | .vldb v ty b off => execVldb v ty b off s
  | .vst v ty b off => execVst v ty b off s
  | .vsts v ty b off => execVsts v ty b off s
  | .vstx v ty b x => execVstx v ty b x s
  | .vstxAdd v ty b x => execVstxAdd v ty b x s
  | .amoW d b v op o sc => execAmoW d b v op o sc s
  | .amoD d b v op o sc => execAmoD d b v op o sc s
  | .fence o sc => execFence o sc s
  | .vaddI v a b t dl => execVaddI v a b t dl s
  | .vsubI v a b t dl => execVsubI v a b t dl s
  | .vmulI v a b t dl => execVmulI v a b t dl s
  | .vminI v a b t dl => execVminI v a b t dl s
  | .vmaxI v a b t dl => execVmaxI v a b t dl s
  | .vabsI v a dl => execVabsI v a dl s
  | .vnegI v a dl => execVnegI v a dl s
  | .vclampI v a b t dl => execVclampI v a b t dl s
  | .vaddF v a b t dl => execVaddF v a b t dl s
  | .vsubF v a b t dl => execVsubF v a b t dl s
  | .vmulF v a b t dl => execVmulF v a b t dl s
  | .vfma v a b t dl => execVfma v a b t dl s
  | .vfms v a b t dl => execVfms v a b t dl s
  | .vfnma v a b t dl => execVfnma v a b t dl s
  | .vminF v a b t dl => execVminF v a b t dl s
  | .vmaxF v a b t dl => execVmaxF v a b t dl s
  | .vabsF v a t dl => execVabsF v a t dl s
  | .vnegF v a t dl => execVnegF v a t dl s
  | .vclampF v a b t dl => execVclampF v a b t dl s
  | .vrcp v a t dl => execVrcp v a t dl s
  | .vrsq v a t dl => execVrsq v a t dl s
  | .vexp2 v a t dl => execVexp2 v a t dl s
  | .vlog2 v a t dl => execVlog2 v a t dl s
  | .vand v a b dl => execVand v a b dl s
  | .vor v a b dl => execVor v a b dl s
  | .vxor v a b dl => execVxor v a b dl s
  | .vandn v a b dl => execVandn v a b dl s
  | .vshl v a b dl => execVshl v a b dl s
  | .vshr v a b dl => execVshr v a b dl s
  | .vsar v a b dl => execVsar v a b dl s
  | .vmov v a dl => execVmov v a dl s
  | .vcmp m a b c t dl => execVcmp m a b c t dl s
  | .vsel v m a b dl => execVsel v m a b dl s
  | .vperm v a b dl => execVperm v a b dl s
  | .vbcast v a b dl => execVbcast v a b dl s
  | .vslide v a b dl => execVslide v a b dl s
  | .viota v a dl => execViota v a dl s
  | .vlut v a dl => execVlut v a dl s
  | .vext d a b dl => execVext d a b dl s
  | .vins v a b => execVins v a b s
  | .vredAdd v a t dl => execVredAdd v a t dl s
  | .vredMin v a t dl => execVredMin v a t dl s
  | .vredMax v a t dl => execVredMax v a t dl s
  | .vscanAdd v a t dl => execVscanAdd v a t dl s
  | .vscanMin v a t dl => execVscanMin v a t dl s
  | .vscanMax v a t dl => execVscanMax v a t dl s
  | .vdot4 v a b t dl => execVdot4 v a b t dl s
  | .vcvt v a src dst dl => execVcvt v a src dst dl s
  | .mand m a b dl => execMand m a b dl s
  | .mor m a b dl => execMor m a b dl s
  | .mxor m a b dl => execMxor m a b dl s
  | .mnot m a dl => execMnot m a dl s
  | .mpop d a dl => execMpop d a dl s
  | .mfirst d a dl => execMfirst d a dl s
  | .mset m a dl => execMset m a dl s
  | .cx n v a b dl => execCx n v a b dl s
  | .cxload n a => execCxload n a s
  | .cxevict n => execCxevict n s
  | .cxqry d n => execCxqry d n s
  | .cxldr a => execCxldr a s
  | .mma m nf t b p col mc dl => execMma m nf t b p col mc dl s
  | .mmas m nf t b col mc dl => execMmas m nf t b col mc dl s
  | .tld p t a b dl => execTld p t a b dl s
  | .tst p t a b dl => execTst p t a b dl s
  | .tmov p t u dl => execTmov p t u dl s
  | .accZero a b dl => execAccZero a b dl s
  | .accLd a b dl => execAccLd a b dl s
  | .accSt a b dl => execAccSt a b dl s
  | .accTov t v a dl => execAccTov t v a dl s
  | .accAddv t a v dl => execAccAddv t a v dl s
  | .accMode dst a b dl => execAccMode dst a b dl s
  | .accRaw d a dl => execAccRaw d a dl s
  | .accRawWr a b dl => execAccRawWr a b dl s
  | .fork q => execFork q s
  | .ttEnq d a => execTtEnq d a s
  | .cpy a b => execCpy a b s
  | .cpy2d a b => execCpy2d a b s
  | .ccWait imm b => execCcWait imm b s
  | .ccRead d imm => execCcRead d imm s
  | .rlQry d a => execRlQry d a s
  | .subOpen d a => execSubOpen d a s
  | .subClose a => execSubClose a s
  | .slotTake d a => execSlotTake d a s
  | .slotGive a b => execSlotGive a b s
  | .taskNext d => execTaskNext d s
  | .coverClaim d a => execCoverClaim d a s
  | .coverDone a b => execCoverDone a b s
  | .coverYield a b => execCoverYield a b s
  | .hrd d imm => execHrd d imm s
  | .hwr imm a => execHwr imm a s
  | .hcommit d => execHcommit d s
  | .chSend c a => execChSend c a s
  | .chRecv d c => execChRecv d c s
  | .chProbe d c => execChProbe d c s
  | .rsend a b => execRsend a b s
  | .xwin w a b => execXwin w a b s
  | .qLaunch d a b => execQLaunch d a b s
  | .trap n => execTrap n s
  | .pwrHint n => execPwrHint n s
  | .jnlRd d j => execJnlRd d j s
  | .jnlRetry j => execJnlRetry j s
  | .jnlDrop j => execJnlDrop j s
  | .tlbInv a b => execTlbInv a b s
  | .tlbShoot a b => execTlbShoot a b s
  | .csrr d c => execCsrr d c s
  | .csrw d a c => execCsrw d a c s
  | .csrset d a c => execCsrset d a c s
  | .csrclr d a c => execCsrclr d a c s
  | .join => execJoin s
  | .nop => execNop s
  | .exit => execExit s
  | .cNop => execCNop s
  | .rdv => execRdv s
  | .sstep => execSstep s
  | .hintSucc => execHintSucc s
  | .waitpred => execWaitpred s
  | .tret => execTret s
  | .yield => execYield s
  | .evArrive d b off => execEvArrive d b off s
  | .evDrop d b off => execEvDrop d b off s
  | .evWait d b off => execEvWait d b off s
  | .evSync d b off => execEvSync d b off s
  | .evLock d b off => execEvLock d b off s
  | .evUnlock b off => execEvUnlock b off s
  | .evSignal b off => execEvSignal b off s
  | .evClear b off => execEvClear b off s
  | .evInit d b off => execEvInit d b off s
  | _ => .next s

end Sys2Proof.Machine
end

