-- ==== Sys2Proof/Machine/Halyard.lean ====
section
/-! DEFINITION. The halyard (R20 to R59): the lane with its positions, sidings and output buffers, and its events: issue,
dispatch, completions, commit, kills, committed stores and fetch slaving. How many cycles an operation takes is left open
(log 3, log 4). -/

namespace Sys2Proof.Machine

/-- An operation may end now: it has started or starts now; a memory access follows the older ones of its thread to P3, whose
addresses are known (R36, R144). -/
def State.opEnds (s : State) (t : ThreadId) (old : List WEntry) (e : WEntry) : Bool :=
  if startingSidings.contains e.pos then
    e.started || (!s.core.cyc.started.contains e.pos && decide (s.nextStart e.pos = some (t, e.tag)))
  else if e.pos = 3 then old.all fun w => decide (w.pos ≠ 3) || decide (w.stage ≠ .track) || w.present
  else true

/-! ## A cycle of the lane (R29) -/

/-- Phase 2: every completion moves down one position and meets what stands there. -/
def descend (s : State) : State :=
  (List.range 9).foldl (fun a p => meetAt p a)
    (s.mapEntries fun _ e => if e.stage = .completion then { e with pos := e.pos - 1 } else e)

/-- The packet in the main lane at a position. -/
def State.packet (s : State) (p : Nat) : Option (ThreadId × WEntry) :=
  s.entries.find? fun x => decide (x.2.stage = .lane) && decide (x.2.pos = p)

/-- Phase 3 at one position: a packet that is not held climbs when the position above is free, and meets the completion
there. -/
def climbAt (p : Nat) (s : State) : State :=
  match s.packet p with
  | some (t, e) =>
    if e.offer then s.onEntry t e.tag fun w => { w with offer := false }
    else if e.pos = e.last ∨ s.presented t e ∨ s.packetAt (p + 1) then s
    else meetAt (p + 1) (s.onEntry t e.tag fun w => { w with pos := p + 1 })
  | none => s

/-- The packets at some positions climb, the highest first; a packet that is held holds all those behind it, of both threads
(R32). -/
def climbFrom (s : State) : List Nat → State
  | [] => s
  | p :: l => if (s.packet p).any fun x => s.heldPacket x.1 x.2 then s else climbFrom (climbAt p s) l

/-- Phase 3: the packets climb. -/
def climb (s : State) : State := climbFrom s (List.range 9).reverse

/-- The next cycle begins: its sidings have started and drained what the last one left (phase 5), the completions descend and
the packets climb; HY.HOLD counts a cycle in which a packet stands held (R59). -/
def moveLane (s : State) : State :=
  let s3 := climb (descend (closeCycle s))
  let s4 := { s3 with core := { s3.core with
    cyc := ⟨[], [], false, false, false⟩
    outBuf := s3.core.outBuf.filter fun x => (s3.buffered x.1).contains x.2 } }
  if s4.entries.any fun x => s4.heldPacket x.1 x.2 then s4.countHy 5 1 else s4

/-- This cycle's other phases are done: no kill is raised, no trap is to be delivered, no completion stands at F and no packet is to
dispatch. -/
def State.cycleDone (s : State) : Bool :=
  decide (s.pri.raised = none) && decide (s.aux.raised = none) && !s.pri.trapDue && !s.aux.trapDue && !s.slotTaken 0 &&
    !s.dispatchDue

/-! ## Performing an entry -/

/-- The performing thread stands at an entry, with its captured operands in the register file and VEC.CHECK.EN as it stood
when the entry was issued (R58). -/
def overlay (e : WEntry) (s : State) : State :=
  let t := s.setMe { e.ops.foldl (fun t o => if o.await = none then t.put o.value o.reg else t) s.me with
    pc := e.pc, window := [e], lastTag := e.tag }
  if testsDelay e.instr then { t with core := { t.core with vecCheck := if e.check then 1 else 0 } } else t

/-- How performing an entry came out: completed, a trap completion, a wait, a change of the thread's course that empties
its window, or the machine stops. -/
inductive Ran where
  | done (t : State)
  | trap (t : State)
  | park (t : State)
  | gone (t : State)
  | stop (f : Fault)

def runEntry (e : WEntry) (s : State) : Ran :=
  match perform e.instr (overlay e s) with
  | .fault f => .stop f
  | .refused _ => .park s
  | .next u =>
    let t := if testsDelay e.instr then { u with core := { u.core with vecCheck := s.core.vecCheck } } else u
    match t.me.window with
    | [] => if kindOf e.instr = .branch then .done t else .gone t
    | w :: _ => match w.comp with
      | .trap .. => .trap t
      | _ => if t.me.wake.kind = 0 then .done t else .park t

/-- The completion of an entry after it was performed. -/
def completionOf (e : WEntry) (t : State) : Completion :=
  match e.dest with
  | some d => .result (t.me.get d)
  | none => .status

/-- The trap completion an entry holds after it was performed. -/
def trapOf (t : State) : Completion := (t.me.window.head?.map WEntry.comp).getD .status

/-- A committed store with the registers it was committed with. -/
def PStore.entry (p : PStore) : WEntry :=
  ⟨p.tag, p.instr, p.pc, p.pc, none, [], .window, 3, true, false, false, .status, false, none⟩

/-- A committed store reaches its target: it is performed, or waits (R41). The thread keeps its own registers, and gains
the flags of a typed store (R162). Its page was looked up when it committed, so that a shoot-down waits for it and does not block
it (R398). -/
def performStore (p : PStore) (s : State) : Option State :=
  let me := s.me
  let at' := { s with shoots := Vector.replicate 4 none }
  match runEntry p.entry (at'.setMe { me with s := p.s, x := p.x, v := p.v, wake := Wake.none, stq := [] }) with
  | .done t =>
    if t.me.stq = [] then some { t.setMe { me with unacked := t.me.unacked, fpFlags := t.me.fpFlags } with shoots := s.shoots } else none
  | _ => none

/-! ## Loads among the other accesses of their thread (R144, R145, R166) -/

/-- The address and size of a raw scalar access. -/
def WEntry.span (e : WEntry) : Option (Word × Nat) :=
  let at' (b : Fin 32) (off : Int) : Word := e.value (.s b) + BitVec.ofInt 64 off
  match e.instr with
  | .ld _ b off z => some (at' b (off.toInt * LdSize.bytes' z), LdSize.bytes' z)
  | .ldIndexed _ b k sh z => some (e.value (.s b) + (e.value (.s k) <<< sh.val), LdSize.bytes' z)
  | .cLdw _ b o => some (at' (low32 b) (4 * o.val), 4)
  | .st _ b off z => some (at' b (off.toInt * StSize.bytes' z), StSize.bytes' z)
  | .stIndexed _ b k sh z => some (e.value (.s b) + (e.value (.s k) <<< sh.val), StSize.bytes' z)
  | .cStw _ b o => some (at' (low32 b) (4 * o.val), 4)
  | .ldf _ b off | .tagtst _ b off | .tagset b off | .tagclr b off | .stf _ b off => some (at' b (off.toInt * 8), 8)
  | _ => none

/-- The locations of a raw scalar access (R264: two addresses may name one location); none where it cannot be known yet. -/
def WEntry.places (e : WEntry) (s : State) : Option (List Nat) :=
  if !e.present then none
  else match e.span with
    | some (va, n) => match sites ⟨false, false, false⟩ va n s with
      | .ok (l, _) => some (l.filterMap fun x => match x with
          | .loc k => some k.key
          | _ => none)
      | .error _ => none
    | none => none

/-- A raw scalar store, whose value a load may take (R145). -/
def isRawStore (i : Instr) : Bool :=
  match i with
  | .st .. | .stIndexed .. | .cStw .. => true
  | _ => false

/-- A load that reads memory. -/
def readsMemory (i : Instr) : Bool :=
  match i with
  | .ld .. | .ldIndexed .. | .cLdw .. | .tagtst .. | .ldf .. => true
  | _ => false

def isTagtst (i : Instr) : Bool :=
  match i with
  | .tagtst .. => true
  | _ => false

/-- An LDF, which younger accesses of its thread follow, since it is an acquire (R267). -/
def isLdf (i : Instr) : Bool :=
  match i with
  | .ldf .. => true
  | _ => false

/-- What stands between a load and an older entry of its thread: nothing, a store whose value it takes, or the load waits. -/
inductive Before where
  | free | forward | wait
  deriving DecidableEq, Repr

/-- An older entry beside the locations of a load (R144, R145, R166): the load waits for every operation of the commit head
that is still to be performed (log 9), for an LDF, whose acquire is performed at its commit, for a TAGTST of the same line, which leaves
the L1 at its commit (R263), for an overlapping load whose value is still open, and for a store that overlaps it without covering it; a
raw store that covers it supplies its value. -/
def WEntry.before (o : WEntry) (ks : List Nat) (s : State) : Before :=
  if isLdf o.instr then .wait
  else if o.atHead s then
    if o.performed s ∨ (isVecOp o.instr ∧ o.kind s = .vec) then .free else .wait
  else if isTagtst o.instr then
    match o.places s with
    | some l => if l.any fun k => ks.any fun j => decide (j / 64 = k / 64) then .wait else .free
    | none => .wait
  else if readsMemory o.instr && !o.ended then
    match o.places s with
    | some l => if l.any ks.contains then .wait else .free
    | none => .wait
  else if o.kind s = .store then
    match o.places s with
    | some l => if !l.any ks.contains then .free
      else if isRawStore o.instr && ks.all l.contains then .forward else .wait
    | none => .wait
  else .free

/-- A committed store that has not been performed, as an entry with the values it committed with. -/
def PStore.asEntry (p : PStore) : WEntry :=
  { p.entry with ops := (reads p.instr).map fun d => ⟨d, match d with
      | .s r => if r = 0 then 0 else p.s[r]
      | .x n => p.x[n], none⟩ }

/-- The state in which a load reads: memory as it stands, or with the youngest overlapping store of the thread performed; none
where the load waits. The older entries come youngest first. -/
def seenBy (ks : List Nat) (s : State) : List WEntry → Option State
  | [] => some s
  | o :: l => match o.before ks s with
    | .free => seenBy ks s l
    | .wait => none
    | .forward =>
      let open' (x : State) (k : List Lock) : State := { x with core := { x.core with locks := k } }
      match runEntry o (open' (s.setMe { s.me with wake := Wake.none, stq := [] }) []) with
      | .done t =>
        if t.me.stq ≠ [] ∨ l.any fun w => decide (w.before ks s = .wait) then none else some (open' (t.setMe s.me) s.core.locks)
      | _ => none

/-- Where a load of the performing thread reads, behind its older entries and its committed stores. -/
def loadView (old : List WEntry) (e : WEntry) (s : State) : Option State :=
  if !readsMemory e.instr then some s
  else match e.places s with
    | some ks => seenBy ks s (old.reverse ++ (s.me.stq.map PStore.asEntry).reverse)
    | none => if old = [] ∧ s.me.stq = [] then some s else none

/-! ## Issue (R24 to R28, R132, R133) -/

/-- A thread whose fetch waits for a JR to resolve (R133). -/
def Thread.jrPending (t : Thread) : Bool :=
  t.window.any fun e => match e.instr with
    | .jr .. | .cJr .. => decide (e.stage = .lane) || decide (e.stage = .track)
    | _ => false

/-- The counter of a LOOP at issue (R132). -/
def Thread.counter (t : Thread) (c : Fin 32) : Option Word :=
  match t.lastWriter (.s c) with
  | none => some (t.getS c)
  | some w => match w.instr, w.stage, w.comp with
    | .loop .., _, .result v => some v
    | _, .window, .result v => some v
    | _, _, _ => none

/-- Where fetch goes on: the program counter when the window is empty. -/
def Thread.fetchAddr (t : Thread) : Word := if t.window = [] then t.pc else t.fetchPc

/-- A thread can issue (R22, R24, R28). -/
def Thread.mayIssue (t : Thread) : Bool :=
  decide (t.run = .running) && !t.stopped && !t.unsettled && decide (t.window.length < 64) && !t.hold && decide (t.rebuild = 0) &&
    !t.jrPending && (decide (t.wake.kind = 0) || decide (t.window ≠ []) || t.anew || (t.wake.unissued && t.retry))

/-- A thread's next instruction is one that it has not issued before: the leader of a slaved group forwards it. -/
def Thread.fresh (t : Thread) : Bool := !t.anew && (decide (t.wake.kind = 0) || t.wake.unissued || decide (t.window ≠ []))

/-- The primary thread of a slaved group has nothing to issue: a follower without a forwarded instruction, a detached one beyond
its JOIN, which resumes issue from the leader's stream (R51), or a leader with a full forward log (R52). -/
def State.starves (s : State) (t : ThreadId) : Bool :=
  decide (t = .pri) && ((decide (s.core.slave.role = .attached) && s.nextFwd.isNone) ||
    (decide (s.core.slave.role = .detached) && s.pri.window.any fun e => decide (e.instr = .join)) ||
    (decide (s.core.slave.role = .leader) && s.pri.fresh && decide (4096 ≤ s.core.slave.parcels)))

/-- Such a thread waits as a blocking point of kind 17 once its window is empty (R52). -/
def starve (s : State) : State :=
  if s.starves .pri ∧ s.pri.window = [] ∧ s.pri.run = .running ∧ !s.pri.anew ∧ (s.pri.wake.kind = 0 ∨ s.pri.wake.starved) then
    { s with pri := { s.pri with wake := ({ s with cur := .pri }).starveWake, retry := false } }
  else s

/-- A leader's forward log has no room for the parcels of an instruction that is to be issued (R52). -/
def State.logFull (s : State) (i : Instr) : Bool :=
  s.leads && s.me.fresh && decide (4096 < s.core.slave.parcels + sizeOf' i / 2)

/-- A leader forwards the parcels of an instruction it issues (R49, R52). -/
def State.forwardParcels (i : Instr) (s : State) : State := s.forward (.parcels s.me.lastTag (sizeOf' i / 2))

/-- The thread that issues among those that are ready (R24). -/
def pickThread (s : State) (ready : ThreadId → Bool) : Option ThreadId :=
  if ready .aux && (decide (7 ≤ s.auxIdle) || !ready .pri) then some .aux else if ready .pri then some .pri else none

/-- The address fetch follows after an instruction (R129, R132, R133), given LOOP's new counter. -/
def predicted (i : Instr) (n : Word) (s : State) : Word :=
  let fall := s.pc + BitVec.ofNat 64 (sizeOf' i)
  match i with
  | .j off | .jal off => s.target off
  | .cJ off => s.target off
  | .b _ _ _ hint off | .bsplit _ _ _ hint off => if hint then s.target off else fall
  | .cBeqz _ off | .cBnez _ off => if off.msb then s.target off else fall
  | .loop _ off => if n ≠ 0 then s.target off else fall
  | _ => fall

/-- An entry added to the performing thread's window: an issue. -/
def addEntry (e : WEntry) (hold : Bool) (s : State) : State :=
  let s1 := (s.setMe { s.me with
    window := s.me.window ++ [e], lastTag := e.tag, fetchPc := e.next, hold := hold, anew := false
    wake := if s.me.wake.unissued then Wake.none else s.me.wake }).noteIssue s.cur
  if s.me.fresh && decide (e.stage = .lane ∨ e.comp = .status) then s1.forwardParcels e.instr else s1

/-- The entry of an instruction: its operands by the last-writer table, its destination and its prediction. LOOP has its counter
from the foot (R132). -/
def issueEntry (i : Instr) (pc : Word) (s : State) : Option State :=
  let t := s.me
  let at' := s.setMe { t with pc := pc }
  let e (n : Word) (c : Completion) (st : Stage) (ops : List Operand) : WEntry :=
    ⟨t.lastTag + 1, i, pc, predicted i n at', dest i, ops, st, 0, false, false, s.checkDelay, c, false, none⟩
  let ops := (reads i).map t.operand
  match i with
  | .loop c _ => (t.counter c).map fun v => addEntry (e (v - 1) (.result (v - 1)) .lane [⟨.s c, v, none⟩]) false s
  | _ => some (addEntry (if kindOf i = .nop then e 0 .status .window ops else e 0 .none .lane ops) false s)

/-- The state in which the foot fetches for a thread: at the address its fetch has reached, or at the forwarded instruction's. -/
def State.atFoot (s : State) (t : ThreadId) : State :=
  let s1 := { s with cur := t }
  s1.setMe { s1.me with pc := s1.issuePc s1.me.fetchAddr }

/-- A thread has an instruction ready (R24): it can issue, and the instruction is decoded, or a fault of its fetch is to be entered
(R28); a LOOP has its counter (R132), and a leader room in its forward log. -/
def State.canIssue (s : State) (t : ThreadId) : Bool :=
  (s.th t).mayIssue && !s.starves t && match threadFetch (s.atFoot t) with
    | .ok (i, u) => !u.logFull i && (match i with
      | .loop c _ => (u.me.counter c).isSome
      | _ => true)
    | .error (.trap ..) => true
    | .error _ => false

/-- A thread that can issue and whose fetch waits for its page stands in that wait once its window is empty; a leader whose
forward log has no room waits for its followers. -/
def waitFetch (s : State) (t : ThreadId) : State :=
  if (s.th t).mayIssue && !s.starves t && decide ((s.th t).window = []) then
    match threadFetch (s.atFoot t) with
    | .error (.park w u) => { u.setMe { u.me with pc := (s.th t).pc, wake := w, retry := false } with cur := s.cur }
    | .ok (i, u) => if u.logFull i then s.setTh t { (s.th t) with wake := s.starveWake, retry := false } else s
    | .error _ => s
  else s

/-- One issue of a thread: the instruction at its fetch address, or the foot's trap entry (R28). A packet needs F free (log 98); it
meets a completion that stands there (R29). -/
def issueThread (t : ThreadId) (s : State) : Option State :=
  let at' := s.atFoot t
  let back (x : State) : State := x.setMe { x.me with pc := (s.th t).pc }
  match threadFetch at' with
  | .ok (i, s1) =>
    if kindOf i ≠ .nop ∧ s.packetAt 0 then none else (issueEntry i at'.pc (back s1)).map (meetAt 0)
  | .error (.trap c a _ s1) =>
    some (addEntry ⟨at'.me.lastTag + 1, .nop, at'.pc, at'.pc, none, [], .window, 0, false, false, false, .trap c a 0, false, none⟩ true
      (back s1))
  | .error _ => none

/-- A cycle without an issue of the auxiliary thread passes (R24). -/
def idle (s : State) : State := { s with auxIdle := Nat.min 7 (s.auxIdle + 1) }

/-- The cycle's one issue (R24), by the thread that is ready; a thread that rebuilds its last-writer table issues nothing
(R46). -/
def issueOne (s : State) : State :=
  let less (t : Thread) : Thread := { t with rebuild := t.rebuild - 1 }
  let s0 := waitFetch (waitFetch (starve s) .pri) .aux
  let s1 := { s0 with pri := less s0.pri, aux := less s0.aux }
  match pickThread s s.canIssue with
  | some t => (issueThread t s1).getD (idle s1)
  | none => idle s1

/-- ISSUE (R24, R29): once the cycle's other phases are done, the next one begins: the lane moves and the foot issues. -/
def execIssue (s : State) : Host.Outcome State Fault Refusal :=
  .next (if s.cycleDone then issueOne (moveLane s) else s)

/-! ## Dispatch (R35, R37) -/

/-- The entry of a thread with a tag, with the older and the younger ones. -/
def splitAt' (tag : BitVec 7) : List WEntry → List WEntry → Option (List WEntry × WEntry × List WEntry)
  | _, [] => none
  | acc, e :: l => if e.tag = tag then some (acc.reverse, e, l) else splitAt' tag (e :: acc) l

/-- DISPATCH (R29 phase 4, R35): a siding accepts the packet at its position into its track. -/
def execDispatch (t : ThreadId) (tag : BitVec 7) (s : State) : Host.Outcome State Fault Refusal :=
  .next (match splitAt' tag [] (s.th t).window with
    | some (old, e, young) =>
      if s.dispatches t e then
        let s1 := s.setTh t { (s.th t) with window := old ++ { e with stage := .track } :: young }
        { s1 with core := { s1.core with cyc := { s1.core.cyc with accepted := e.pos :: s1.core.cyc.accepted } } }
      else s
    | none => s)

/-! ## Completions (R29, R38, R40) -/

/-- A kill raised: of two, the one with the older boundary stands (R45). -/
def Thread.raiseKill (t : Thread) (b : BitVec 7) (a : Word) : Thread :=
  match t.raised with
  | none => { t with raised := some (b, a) }
  | some (c, _) => if older b c then { t with raised := some (b, a) } else t

/-- The performing thread's operation has ended: its entry holds the completion. -/
def injectComp (e : WEntry) (s : State) : State := endOp s.cur e s

/-- A load of the commit head, which records an out-of-range byte when it commits (R141). -/
def recordsLate (i : Instr) : Bool :=
  match i with
  | .vld .. | .vlds .. | .vldx .. | .vldb .. | .ldr .. | .ldf .. => true
  | _ => false

/-- What a performed instruction leaves to its commit. -/
def lateOf (i : Instr) (s t : State) : Late :=
  ⟨t.me.v, t.me.m, t.me.fpFlags, t.me.nom, if t.core.vecCheck = s.core.vecCheck then none else some t.core.vecCheck,
    if recordsLate i && decide (t.core.scrErr ≠ s.core.scrErr) then some t.core.scrErr else none⟩

/-- What an instruction leaves to its commit is as it was before. -/
def holdBack (i : Instr) (s t : State) : State :=
  let u := t.setMe { t.me with v := s.me.v, m := s.me.m, fpFlags := s.me.fpFlags, nom := s.me.nom }
  { u with core := { u.core with vecCheck := s.core.vecCheck, scrErr := if recordsLate i then s.core.scrErr else u.core.scrErr } }

/-- What the thread keeps when its entry was performed at the commit head: results reach the registers at commit. -/
def keepThread (me : Thread) (t : State) : State :=
  t.setMe { t.me with
    s := me.s, x := me.x, pc := me.pc, window := me.window, lastTag := me.lastTag, hold := me.hold, raised := me.raised
    rebuild := me.rebuild }

/-- After a JR fetch goes on at its target (R133). -/
def followJr (i : Instr) (pc : Word) (s : State) : State :=
  match i with
  | .jr .. | .cJr .. => s.setMe { s.me with fetchPc := pc }
  | _ => s

/-- An entry at the commit head performed in earnest; a branch of a slaved group against its prediction, or with a redirect
marker, raises a kill (R44). An instruction that ends the thread's course, such as EXIT, has done so with a kill of what is
younger (R59, R136). -/
def performHead (e : WEntry) (s : State) : Host.Outcome State Fault Refusal :=
  match runEntry e s with
  | .done t =>
    let s1 := injectComp { e with comp := completionOf e t, next := t.pc, late := some (lateOf e.instr s t) } (holdBack e.instr s (keepThread s.me t))
    if e.kind s = .branch ∧ t.core.hy[3] ≠ s.core.hy[3] then
      let s2 := s1.setMe (s1.me.raiseKill (e.tag + 1) t.pc)
      .next { s2 with core := { s2.core with hy := s2.core.hy.set 3 s.core.hy[3] } }
    else .next (followJr e.instr t.pc s1)
  | .trap t => .next (injectComp { e with comp := trapOf t } (holdBack e.instr s (keepThread s.me t)))
  | .park t => .next (holdBack e.instr s (keepThread s.me t))
  | .gone t => .next ((t.setMe { t.me with lastTag := e.tag }).countHy 4 (packets (s.me.window.drop 1)))
  | .stop f => .fault f

/-- A wait at the commit head of an entry that is performed speculatively: it stands for good only there (R146). -/
def parkHead (old : List WEntry) (t s : State) : State :=
  if old = [] ∧ s.me.stq = [] then keepThread s.me t else s

/-- A store is checked once every older operation of the commit head has been performed: the engine commands are accepted and the
waits for them are over (R288), a BANK.FMT write has been made (R83), and a store with vector operands reads what the older
vector instructions wrote, which their commit does (R27). -/
def waitsForOlder (e : WEntry) (old : List WEntry) (s : State) : Bool :=
  match e.kind s with
  | .store => old.any fun o => o.atHead s && if o.kind s = .vec then decide (vecReads e.instr ≠ []) else !o.performed s
  | _ => false

/-- PREF, which has no effect where the memory siding's buffer is more than three-quarters full: it goes on as a NOP (R153). -/
def isPref (i : Instr) : Bool :=
  match i with
  | .pref .. => true
  | _ => false
def State.bufferHigh (s : State) : Bool := decide (3 * trackSize 3 < 4 * (s.entries.filter fun x => x.2.inTrack 3).length)

/-- An entry performed speculatively (R41): only its completion remains, and a branch against its prediction raises a kill
(R44). A load reads behind its older entries and stores. -/
def performEarly (old : List WEntry) (e : WEntry) (s : State) : Host.Outcome State Fault Refusal :=
  if waitsForOlder e old s then .next s
  else if isPref e.instr && s.bufferHigh then
    .next (injectComp { e with comp := .status } (s.onEntry s.cur e.tag fun w => { w with instr := .nop }))
  else match loadView old e s with
  | none => .next s
  | some x => match runEntry e x with
    | .done t =>
      let s1 := injectComp { e with comp := completionOf e t, next := t.pc } s
      .next (if t.core.hy[3] ≠ x.core.hy[3] then s1.setMe (s1.me.raiseKill (e.tag + 1) t.pc) else followJr e.instr t.pc s1)
    | .trap t => .next (injectComp { e with comp := trapOf t } s)
    | .park t => .next (parkHead old t s)
    | .gone _ => .next s
    | .stop f => if old = [] then .fault f else .next s

/-- COMPLETION_INJECT (R29 phase 5): the operation of a dispatched entry ends, after the cycle's dispatches. What is performed
at the commit head ends only there, and once the thread's committed stores are performed (log 9). -/
def execCompletionInject (t : ThreadId) (tag : BitVec 7) (s : State) : Host.Outcome State Fault Refusal :=
  let s1 := { s with cur := t }
  match splitAt' tag [] s1.me.window with
  | some (old, e, _) =>
    if e.stage ≠ .track ∨ !e.present ∨ s1.core.cyc.closed ∨ s1.me.doomed tag ∨ s1.dispatchDue ∨ !s1.roomFor e.pos ∨ !s1.opEnds t old e then .next s
    else if e.atHead s1 then
      if old = [] ∧ s1.me.stq = [] ∧ !s1.mustStop t then performHead e s1 else .next s
    else performEarly old e s1
  | none => .next s

/-- COMPLETION_ACCEPT (R29 phase 2, R40): the completion at F leaves the lane into the commit window. -/
def execCompletionAccept (t : ThreadId) (tag : BitVec 7) (s : State) : Host.Outcome State Fault Refusal :=
  .next (match splitAt' tag [] (s.th t).window with
    | some (old, e, young) =>
      if e.stage ≠ .completion ∨ e.pos ≠ 0 ∨ (s.th t).doomed tag then s
      else s.setTh t { (s.th t) with window := old ++ { e with stage := .window } :: young }
    | none => s)

/-! ## Commit (R26, R40, R41) -/

/-- What an instruction performed at the commit head left to its commit is written (R58, R84, R141, R173). -/
def writeLate (o : Option Late) (s : State) : State :=
  match o with
  | some k =>
    let u := s.setMe { s.me with v := k.v, m := k.m, fpFlags := k.fpFlags, nom := k.nom }
    { u with core := { u.core with
      vecCheck := k.vecCheck.getD u.core.vecCheck
      scrErr := if u.core.scrErr.getLsbD 63 then u.core.scrErr else k.scrErr.getD u.core.scrErr } }
  | none => s

/-- A result written to the register store, and the thread one instruction on. -/
def retire (e : WEntry) (l : List WEntry) (s : State) : State :=
  let u := writeLate e.late s
  let t := match e.dest, e.comp with
    | some d, .result v => u.me.put v d
    | _, _ => u.me
  u.setMe { t with window := l, pc := e.next, wake := Wake.none, retry := false, reply := none }

/-- A state after an entry was performed at its commit, with the registers and the window from before. -/
def kept (s t : State) : State := let x := keepThread s.me t; { x with core := { x.core with hy := s.core.hy } }

/-- VEC.OPS counts the lane operations of a committed vector instruction (R419, log 4). -/
def chargeVec (i : Instr) (s : State) : State := if isVecOp i then s.account 6 64 else s

/-- What an LDF that was performed speculatively leaves to its commit: its line leaves the L1, and the read is an acquire (R263, R267). -/
def commitLdf (va : Word) (s : State) : State :=
  let s1 := match sites ⟨false, false, false⟩ va 8 s with
    | .ok (.loc l :: _, _) => s.flushLoc l
    | _ => s
  s1.acquire (s.naturalScope va)

/-- The commit of the entry at the performing thread's commit head. A load leaves here what it did beside its value: a line of
the L1, the record of SCR.ERR (R141). -/
def commitEntry (e : WEntry) (l : List WEntry) (s : State) : Option State :=
  match e.kind s with
  | .nop | .alu | .head => some (retire e l s)
  | .vec => some (chargeVec e.instr (retire e l s))
  | .branch => if e.atHead s then some (retire e l s)
    else match runEntry e s with
    | .done t => some (retire e l (kept s t))
    | _ => none
  | .load => match e.instr with
    | .ldf _ b off => some (retire e l (commitLdf (e.value (.s b) + BitVec.ofInt 64 (off.toInt * 8)) s))
    | _ => match runEntry e s with
    | .done t => some (retire e l (kept s t))
    | _ => some (retire e l s)
  | .store =>
    let x := overlay e s
    let s1 := retire e l s
    some (s1.setMe { s1.me with
      stq := s1.me.stq ++ [⟨e.tag, e.instr, e.pc, x.me.s, x.me.x, x.me.v⟩] })

/-- A store that was checked looks its pages up again as it commits: a shoot-down that has blocked them since, or a mapping that
has changed, keeps the thread waiting there, or gives the store a trap completion (R146, R398). -/
def recheck (e : WEntry) (s : State) : Option State :=
  match e.kind s with
  | .store => match runEntry e s with
    | .park t => if t.me.wake.kind = 12 then some (keepThread s.me t) else none
    | .trap t => match trapOf t with
      | .trap 0x12 _ _ => none
      | c => some (s.setMe { s.me with window := { e with comp := c } :: s.me.window.drop 1 })
    | _ => none
  | _ => none

/-- One commit of a thread, where its head's completion is in the window and is no trap (R40, R42). -/
def commitOne (t : ThreadId) (s : State) : Option State :=
  let s1 := { s with cur := t }
  match s1.me.window with
  | e :: l => match e.stage, e.comp with
    | .window, .trap .. => none
    | .window, _ =>
      if s1.me.run = .running ∧ !s1.me.stopped ∧ !s1.me.doomed e.tag ∧ !s1.mustStop t then
        match recheck e s1 with
        | some t => some t
        | none => (commitEntry e l s1).map State.popFwd
      else none
    | _, _ => none
  | [] => none

/-- The next commit of the core: the primary thread is served first. -/
def commitNext (s : State) : Option State :=
  match commitOne .pri s with
  | some t => some t
  | none => commitOne .aux s

/-- COMMIT (R40): the commits of a cycle, up to two. -/
def execCommit (s : State) : Host.Outcome State Fault Refusal :=
  let close (t : State) : State := { t with core := { t.core with cyc := { t.core.cyc with committed := true } } }
  .next (if s.core.cyc.committed then s
    else match commitNext s with
    | some t => close ((commitNext t).getD t)
    | none => s)

/-! ## Kills and traps (R42, R44 to R46) -/

/-- TRAP_DELIVERY (R42): the kill of the trap completion at the commit head is applied once the cycle's other phases are over, and
the trap is delivered. Its boundary is older than that of any kill raised with it (R45). -/
def execTrapDelivery (t : ThreadId) (s : State) : Host.Outcome State Fault Refusal :=
  let s1 := { closeCycle s with cur := t }
  .next (match s1.me.window with
    | e :: l => match e.stage, e.comp with
      | .window, .trap c a i =>
        if (s.th t).doomed e.tag then s
        else deliverTrap c a i ((s1.setMe { s1.me with window := [], pc := e.pc, lastTag := e.tag }).countHy 4 (packets l))
      | _, _ => s
    | [] => s)

/-- KILL (R44): a raised kill is applied once the cycle's other phases are over; the last-writer table is rebuilt over two cycles and
fetch resumes (R46). A trap at the commit head supersedes it (R45). -/
def execKill (t : ThreadId) (boundary : BitVec 7) (s0 : State) : Host.Outcome State Fault Refusal :=
  let s := closeCycle s0
  let x := s.th t
  .next (match x.raised with
    | some (b, a) =>
      if x.trapDue then s0
      else if b = boundary then
        let gone := x.window.filter fun e => atOrBeyond e.tag b
        ((s.setTh t { x with
          window := x.window.filter fun e => !atOrBeyond e.tag b
          raised := none, lastTag := b - 1, fetchPc := a, rebuild := 2
          hold := x.hold && decide (gone = []) }).countHy 3 1).countHy 4 (packets gone)
      else s0
    | none => s0)

/-! ## Committed stores (R41) and fetch (R88, R438) -/

/-- STORE_PERFORMED: the oldest committed store of a thread is performed, or waits on a held range lock. -/
def execStorePerformed (t : ThreadId) (s : State) : Host.Outcome State Fault Refusal :=
  .next (match (s.th t).stq with
    | p :: l =>
      let s1 := { s with cur := t }
      match performStore p s1 with
      | some x => { x.setMe { x.me with stq := l } with cur := s.cur }
      | none => s
    | [] => s)

/-- No Held lock is hit by the instruction that hit one, as it stands now (R295): tried on a copy of the state. -/
def lockClear (t : ThreadId) (s : State) : Bool :=
  s.core.locks.isEmpty ||
    match threadFetch { s.setTh t { (s.th t) with run := .running, wake := Wake.none } with cur := t } with
    | .ok (i, s1) => match perform i s1 with
      | .next u => decide ((u.th t).run ≠ .lockWait)
      | _ => true
    | .error _ => true

/-- RANGE_LOCK_REISSUE (R295): the thread issues again from the instruction that hit the lock. -/
def execRangeLockReissue (t : ThreadId) (s : State) : Host.Outcome State Fault Refusal :=
  let x := s.th t
  if x.run = .lockWait ∧ lockClear t s then .next (s.setTh t { x with run := .running, wake := Wake.none, retry := false })
  else .next s

/-- INSTRUCTION_FETCH: the code line of a thread's fetch address is filled from memory; a line marked bad after an instruction
cache error is good again where memory holds no poison (R438). -/
def execInstructionFetch (t : ThreadId) (s : State) : Host.Outcome State Fault Refusal :=
  .next (match codeLoc (s.th t).fetchAddr s with
    | .ok (l, s1) =>
      let k := l.key / 64
      if s1.poisonedLine k then s1
      else let s2 := (s1.fillCode k).cross 64 l; { s2 with core := { s2.core with badLines := s2.core.badLines.filter (· ≠ k) } }
    | .error _ => s)

/-! ## Fetch slaving (R50, R52) -/

/-- A record that awaits its branch: no branch forwarded before a redirect marker owes one any more (R50). -/
def Slaving.record (k : Slaving) (taken redirect : Bool) : Slaving :=
  { k with outcomes := k.outcomes ++ [(taken, redirect, k.arrived)], owed := if redirect then 0 else k.owed - 1 }

/-- OUTCOME_RECORD_ARRIVAL: the record waits for the follower's branch, which it completes (R50). In a detached follower a
record of the leader's side of the split is the leader's own; after its redirect the stream beyond is a new one (R51). -/
def execOutcomeRecordArrival (taken redirect : Bool) (s : State) : Host.Outcome State Fault Refusal :=
  let k := s.core.slave
  .next (if k.role = .attached then s.setSlave (k.record taken redirect)
    else if k.role = .detached then
      if k.stale = 0 then s.setSlave (k.record taken redirect)
      else if redirect then s.setSlave { k with stale := 0, owed := 0, stream := [], past := false }
      else s.setSlave { k with stale := k.stale - 1 }
    else s)

/-- PERFORM_MARK_ARRIVAL (R52): an attached follower may perform one more blocking point. -/
def execPerformMarkArrival (s : State) : Host.Outcome State Fault Refusal :=
  let k := s.core.slave
  .next (if k.role = .attached then s.setSlave { k with marks := k.marks + 1 } else s)

end Sys2Proof.Machine
end

