-- ==== Sys2Proof/Machine/Link.lean ====
section
/-! DEFINITION. Accesses of outside agents through Kararlink (R285, R286, R349). -/

namespace Sys2Proof.Machine

/-- The word of HBM at an address lies within it. -/
def hbmHas (pa n : Nat) : Bool := decide (pa + n ≤ hbmSize)

/-- A function or port through which an outside agent reaches the device (R433, R435): the physical function and the peers from start
step 9 on, which trains Kararlink, the virtual functions from step 11 on and never in a recovery start. -/
def State.linkOpen (s : State) (k : Link) : Bool :=
  match k with
  | .virtual _ => s.mgmt.ready && decide (s.mgmt.kind ≠ 2)
  | _ => s.mgmt.ready || decide (9 ≤ s.mgmt.last)

/-- LINK_TAGGED_WRITE (R349): performed at the home slice as STF; refused at the port outside HBM. -/
def execLinkTaggedWrite (pa : Nat) (data : BitVec 64) (s : State) : Host.Outcome State Fault Refusal :=
  .next (if s.linkOpen .host ∧ hbmHas pa 8 ∧ pa % 8 = 0 then ((s.setWord pa data).setPoison pa false).setTag pa true else s)

/-- The words that some bytes at an address cover whole lose their poison (R147). -/
def cleanWhole (s : State) (pa n : Nat) : State :=
  (List.range (n / 8 + 1)).foldl (fun a j =>
    let k := (pa + 7) / 8 * 8 + 8 * j
    if k + 8 ≤ pa + n then a.setPoison k false else a) s

/-- LINK_ACCESS (R285): a write performed at the home slice; a read changes nothing here. Whatever lies outside HBM is
refused at the port. -/
def execLinkAccess (k : Link) (write : Bool) (pa : Nat) (data : List Byte) (s : State) : Host.Outcome State Fault Refusal :=
  .next (if s.linkOpen k && write && hbmHas pa data.length then cleanWhole (s.setBytes pa data) pa data.length else s)

/-- PEER_AMO (R286): one indivisible step at the home slice. A poisoned word is left as it is. -/
def execPeerAmo (op : AmoOp) (wide : Bool) (pa : Nat) (v cmp : BitVec 64) (s : State) : Host.Outcome State Fault Refusal :=
  let n := if wide then 8 else 4
  .next (if s.linkOpen (.peer 0) ∧ hbmHas pa n ∧ pa % n = 0 ∧ !s.poisoned pa then
      s.setNum pa n (amoNew op (8 * n) (s.num pa n) (v.toNat % 2 ^ (8 * n)) (cmp.toNat % 2 ^ (8 * n)))
    else s)

end Sys2Proof.Machine
end

