-- ==== Sys2Proof/Machine/Management.lean ====
section
/-! DEFINITION. The management window (R422 to R425), updates and security versions (R429, R430), the repair record (R444)
and the SPDM responder (R428). -/

namespace Sys2Proof.Machine

/-! ## Host memory as the controller's port reaches it (R424) -/

/-- The key of a byte of host memory: a physical address behind Kararlink-H. Those from 2^60 on, which no page entry names, have keys
of their own. -/
def hostKey (a : Nat) : Nat :=
  let b := a % 2 ^ 64
  if b < 2 ^ 60 then 2 ^ 60 + b else 2 ^ 70 + b

def State.hostBytes (s : State) (a n : Nat) : List Byte := (List.range n).map fun j => s.byte (hostKey (a + j))
def State.setHost (s : State) (a : Nat) (l : List Byte) : State := l.zipIdx.foldl (fun u p => u.setByte (hostKey (a + p.2)) p.1) s

/-! ## Updates (R424, R429, R430) -/

/-- The inactive bank of an image. -/
def Mgmt.inactive (m : Mgmt) (img : Fin 2) : Fin 2 := 1 - m.active[img]

/-- An image argument: 0 the MC firmware, 1 the device firmware. -/
def imageArg (w : Word) : Option (Fin 2) := if w = 0 then some 0 else if w = 1 then some 1 else none

def execUpdOpen (s : State) : Host.Outcome State Fault Refusal :=
  mgCommand 0x20 s fun s => match imageArg s.mgmt.taken[0] with
    | some img =>
      let m := s.mgmt.setBank img (s.mgmt.inactive img) Bank.reset
      { s with mgmt := { m with opened := img } }.respond 0 0
    | none => s.respond 2 0

/-- UPD.WRITE copies into the inactive bank of the image last opened (log 26). -/
def execUpdWrite (s : State) : Host.Outcome State Fault Refusal :=
  mgCommand 0x21 s fun s =>
    let m := s.mgmt
    let off := m.taken[1].toNat
    let n := m.taken[2].toNat
    if n = 0 ∨ 65536 < n ∨ 16777216 < off + n then s.respond 2 0
    else
      let b := (m.banks[m.opened])[m.inactive m.opened]
      let data := s.hostBytes m.taken[0].toNat n
      let new := (data.zipIdx).foldl (fun a p => sput 0 (off + p.2) p.1 a) b.bytes
      { s with mgmt := m.setBank m.opened (m.inactive m.opened) { b with bytes := new } }.respond 0 0

/-- UPD.ACTIVATE (R429): the checks in order; the bank is marked pending. -/
def execUpdActivate (s : State) : Host.Outcome State Fault Refusal :=
  mgCommand 0x22 s fun s => match imageArg s.mgmt.taken[0] with
    | some img =>
      let m := s.mgmt
      let b := (m.banks[img])[m.inactive img]
      match Config.imageSvn b.bytes with
      | none => s.respond 2 0
      | some v =>
        if !Config.imageSigned b.bytes then s.respond 3 0
        else if v < m.fsvn then s.respond 4 0
        else ({ s with mgmt := m.setBank img (m.inactive img) { b with pending := true } }.addLog .activation 0
          [BitVec.ofNat 64 img.val, BitVec.ofNat 64 v]).respond 0 v
    | none => s.respond 2 0

/-- A bank is pending. -/
def Mgmt.anyPending (m : Mgmt) : Bool := m.banks.toList.any fun p => p.toList.any Bank.pending

/-- The SVN of a running image. -/
def Mgmt.runningSvn (m : Mgmt) (img : Fin 2) : Nat := (Config.imageSvn (m.banks[img])[m.active[img]].bytes).getD 0

/-- SVN.COMMIT (R430): translations are purged and the commit is logged before the response. -/
def execSvnCommit (s : State) : Host.Outcome State Fault Refusal :=
  mgCommand 0x23 s fun s =>
    let m := s.mgmt
    let v := m.taken[0].toNat
    if m.kind = 2 ∨ m.anyPending then s.respond 1 0
    else if v ≤ m.fsvn ∨ 128 < v ∨ m.runningSvn 0 < v ∨ m.runningSvn 1 < v then s.respond 2 0
    else ({ s with mgmt := { m with fsvn := v, translations := [] } }.addLog .svnCommit 0 [BitVec.ofNat 64 v]).respond 0 0

/-! ## The log, the repair record and MEAS.EXTEND (R424, R425, R427, R444) -/

/-- A log record as 64 bytes. -/
def LogRec.bytes (r : LogRec) : List Byte :=
  ([BitVec.ofNat 64 r.index, BitVec.ofNat 64 r.standby,
    BitVec.ofNat 64 ((Config.logKind r.kind).toNat + r.source % 65536 * 65536)] ++
    ((r.detail ++ List.replicate 5 0).take 5)).flatMap fun w => leBytes 8 w.toNat

/-- LOG.READ copies the records that the log holds, each to its place. -/
def execLogRead (s : State) : Host.Outcome State Fault Refusal :=
  mgCommand 0x30 s fun s =>
    let m := s.mgmt
    let at' := m.taken[0].toNat
    let first := m.taken[1].toNat
    let n := m.taken[2].toNat
    if n = 0 ∨ 1024 < n then s.respond 2 0
    else
      let rs := m.log.filter fun r => decide (first ≤ r.index) && decide (r.index < first + n)
      (rs.foldl (fun a r => a.setHost (at' + 64 * (r.index - first)) r.bytes) s).respond 0 (m.logNext - 1)

/-- The repair record (R444): the two counts share the first word, low half first (log 27). -/
def Mgmt.repairRecord (m : Mgmt) : List Byte :=
  let die (d : Nat) : Nat := (m.spares.filter fun r => decide (r / 16 = d)).length
  leBytes 4 m.fences.length ++ leBytes 4 m.pages.length ++
    [0, 1, 2, 3].flatMap (fun d => leBytes 2 (die d)) ++
    m.fences.flatMap (fun f => leBytes 4 f.1 ++ leBytes 4 f.2.1 ++ leBytes 8 f.2.2) ++
    m.pages.flatMap fun p => leBytes 8 (p * 65536)

def execRepairList (s : State) : Host.Outcome State Fault Refusal :=
  mgCommand 0x31 s fun s =>
    let r := s.mgmt.repairRecord
    (s.setHost s.mgmt.taken[0].toNat r).respond 0 r.length

def execMeasExtend (s : State) : Host.Outcome State Fault Refusal :=
  mgCommand 0x32 s fun s =>
    let k := s.mgmt.taken[0].toNat
    if k < 12 ∨ 15 < k then s.respond 2 0
    else (s.extend (Fin.ofNat 16 k) (s.hostBytes s.mgmt.taken[1].toNat 32)).respond 0 0

/-! ## Registers (R4, R418, R423) -/

/-- A write to MG.CTXBASE; ignored while any context is not Unconfigured. -/
def writeCtxbase (v : Word) (s : State) : State :=
  if s.ctxs.all fun p => decide (p.2.state = .unconfigured) then { s with ctxBase := BitVec.ofNat 64 (bits v 19 33 * 2 ^ 19) } else s

def execMgCtxbaseWrite (v : BitVec 64) (s : State) : Host.Outcome State Fault Refusal :=
  .next (if s.mgmt.answers then writeCtxbase v s else s)

/-- Clusters that the remap of a Running context with a class-0 queue names. -/
def State.ensignClusters (s : State) : List Nat :=
  s.ctxs.flatMap fun p => if p.2.state = .running ∧ s.ensign p.1 then (s.remaps p.1).map fun m => m.2.2 else []

/-- A new mask takes away a cluster of the old one that must stay. -/
def removes (old new : Word) (k : Nat) (keep : List Nat) : Bool :=
  keep.any fun c => decide (c / 64 = k) && old.getLsbD (c % 64) && !new.getLsbD (c % 64)

def writeMask (lend : Bool) (k : Fin 4) (v : Word) (s : State) : State :=
  let old := if lend then s.power.lend else s.power.rsv
  if removes old[k] v k.val s.ensignClusters then s
  else if lend then { s with power := { s.power with lend := old.set k v } }
  else { s with power := { s.power with rsv := old.set k v } }

def execRsvLendWrite (lend : Bool) (k : Fin 4) (v : BitVec 64) (s : State) : Host.Outcome State Fault Refusal :=
  .next (if s.mgmt.answers then writeMask lend k v s else s)

def writeShare (v : Word) (s : State) : State :=
  if bits v 0 8 ≤ 25 ∧ bits v 0 8 + bits v 8 8 + bits v 16 8 + bits v 24 8 ≤ 100 then
    { s with power := { s.power with share := BitVec.ofNat 64 (bits v 0 32) } }
  else s

def execShareWrite (v : BitVec 64) (s : State) : Host.Outcome State Fault Refusal :=
  .next (if s.mgmt.answers then writeShare v s else s)

def writeRamp (v : Word) (s : State) : State :=
  if 1 ≤ bits v 0 13 ∧ bits v 0 13 ≤ 5600 then { s with power := { s.power with ramp := bits v 0 13 } } else s

def execRampWrite (v : BitVec 64) (s : State) : Host.Outcome State Fault Refusal :=
  .next (if s.mgmt.answers then writeRamp v s else s)

/-- ACCT.CLR: GO clears every counter of the domain. -/
def clearAcct (v : Word) (s : State) : State :=
  if v.getLsbD 8 then
    let d := bits v 0 8 * 16
    { s with power := { s.power with acct := sclear d (d + 16) s.power.acct } }
  else s

def execAcctClr (v : BitVec 64) (s : State) : Host.Outcome State Fault Refusal :=
  .next (if s.mgmt.answers then clearAcct v s else s)

/-- The codes of R424. -/
def implementedCodes : List Nat :=
  [0x01, 0x02, 0x03, 0x04, 0x05, 0x10, 0x11, 0x20, 0x21, 0x22, 0x23, 0x30, 0x31, 0x32]

/-- A write to MG.CMD stores CODE (R4). With GO the controller reads it and the arguments, and the command starts; one of an unimplemented code ends
at once, and a write to GO while it reads 1 is ignored (R423). -/
def writeCmd (v : Word) (s : State) : State :=
  let code := BitVec.ofNat 16 (bits v 0 16)
  let s1 := { s with mgmt := { s.mgmt with codeReg := code } }
  if s.mgmt.go ∨ !v.getLsbD 63 then s1
  else
    let s2 := { s1 with mgmt := { s1.mgmt with code := code, taken := s.mgmt.args, go := true } }
    if implementedCodes.contains (bits v 0 16) then s2 else s2.respond (if s.mgmt.ready then 2 else 1) 0

/-- A write to a register of the management window by its offset; read-only registers and offsets that hold none ignore
it. -/
def writeRegister (off : Nat) (v : Word) (s : State) : State :=
  if off = 0x010 then writeCmd v s
  else if h : 0x020 ≤ off ∧ off < 0x040 ∧ off % 8 = 0 then
    { s with mgmt := { s.mgmt with args := s.mgmt.args.set ((off - 0x020) / 8) v } }
  else if off = 0x040 then writeCtxbase v s
  else if off = 0x100018 then writeRamp v s
  else if h : 0x100020 ≤ off ∧ off < 0x100040 ∧ off % 8 = 0 then writeMask false ⟨(off - 0x100020) / 8, by omega⟩ v s
  else if h : 0x100040 ≤ off ∧ off < 0x100060 ∧ off % 8 = 0 then writeMask true ⟨(off - 0x100040) / 8, by omega⟩ v s
  else if off = 0x100060 then writeShare v s
  else if off = 0x100070 then clearAcct v s
  else s

def execRegisterWrite (off : Nat) (v : BitVec 64) (s : State) : Host.Outcome State Fault Refusal :=
  .next (if s.mgmt.answers then writeRegister off v s else s)

/-! ## SPDM (R428) -/

/-- A response given. -/
def State.answer (s : State) (r : Spdm) : State := { s with mgmt := { s.mgmt with spdmOut := s.mgmt.spdmOut ++ [r] } }

/-- A request's response: Busy before step 11. -/
def spdm (s : State) (f : State → State) : Host.Outcome State Fault Refusal :=
  .next (if s.mgmt.ready then f s else s.answer .busy)

def execGetVersion (s : State) : Host.Outcome State Fault Refusal :=
  spdm s fun s => { s with mgmt := { s.mgmt with spdmVersion := true, spdmAlgorithms := false } }.answer (.version [0x13])

/-- CERT, CHAL and MEAS with signatures, and CHUNK; no key exchange, pre-shared keys, sessions or mutual authentication. -/
def execGetCapabilities (s : State) : Host.Outcome State Fault Refusal :=
  spdm s fun s => s.answer (.capabilities [.cert, .chalSigned, .measSigned, .chunk])

def execNegotiateAlgorithms (sha3 mldsa : Bool) (s : State) : Host.Outcome State Fault Refusal :=
  spdm s fun s => if sha3 && mldsa then { s with mgmt := { s.mgmt with spdmAlgorithms := true } }.answer (.algorithms [.sha3_256] [.mlDsa44])
    else s.answer .unsupportedAlgorithm

/-- The first 4,096 bytes of a message; the rest goes in chunks. -/
def State.chunked (s : State) (data : List Byte) (f : List Byte → Spdm) : State :=
  { s with mgmt := { s.mgmt with spdmRest := data.drop 4096 } }.answer (f (data.take 4096))

def execGetCertificate (slot off len : Nat) (s : State) : Host.Outcome State Fault Refusal :=
  spdm s fun s => if slot = 0 then s.chunked ((Config.certChain.drop off).take len) .certificate else s.answer .unexpected

def execChallenge (nonce : List Byte) (s : State) : Host.Outcome State Fault Refusal :=
  spdm s fun s => s.answer (.challengeAuth (Config.spdmSign nonce))

/-- The blocks that a GET_MEASUREMENTS index names, as the slots stand. -/
def measBlocks (m : Vector (BitVec 256) 16) (index : Nat) : List (Nat × BitVec 256) :=
  (m.toList.zipIdx.map fun p => (p.2 + 1, p.1)).filter fun b => decide (index = 0xFF) || decide (b.1 = index)

def execGetMeasurements (index : Nat) (s : State) : Host.Outcome State Fault Refusal :=
  spdm s fun s =>
    let b := measBlocks s.mgmt.meas index
    if b = [] then s.answer .unexpected
    else s.answer (.measurements b (Config.spdmSign (b.flatMap fun p => leBytes 32 p.2.toNat)))

/-- CHUNK_GET: the next chunk of a longer response. -/
def execChunkGet (_ : Nat) (s : State) : Host.Outcome State Fault Refusal :=
  spdm s fun s => if s.mgmt.spdmRest = [] then s.answer .unexpected else s.chunked s.mgmt.spdmRest .chunk

end Sys2Proof.Machine
end

