-- ==== Sys2Proof/Machine/PowerUnit.lean ====
section
/-! DEFINITION. Rails, clocks, the ramp limiter, energy, leases, the power cap and thermal derating (R407 to R421). -/

namespace Sys2Proof.Machine

/-- One bit of a 256-bit map. -/
def putBit (m : BitVec 256) (k : Nat) (b : Bool) : BitVec 256 :=
  if b then m ||| 1#256 <<< k else m &&& ~~~ (1#256 <<< k)

/-- The cluster of this core. -/
def State.myCluster (s : State) : Nat := clusterOf s.core.phys

/-! ## Rails and clocks (R407 to R410) -/

/-- The measure in force (R413): level 0 is none, levels 1 to 3 and 4 to 6 are measures 1 and 2, for class 3, then 2, then 1; 7 and 8
are measures 3 and 4. -/
def Power.measure (p : Power) : Nat :=
  if p.level = 0 then 0 else if p.level ≤ 3 then 1 else if p.level ≤ 6 then 2 else if p.level = 7 then 3 else 4

/-- Measure 2 moves the clusters of a class to the low rail (R413). -/
def Power.lowers (p : Power) (cls : Nat) : Bool := decide (1 ≤ cls) && decide (7 - cls ≤ p.level)

/-- The latest hint of a physical core. -/
def State.hintOf (s : State) (phys : Nat) : Nat :=
  if phys = s.core.phys then bits s.core.pwrStat 2 2 else sget 0 s.power.hints phys

/-- The launches that hold a cluster, each with a core that runs it there. -/
def State.launchCores (s : State) (k : Nat) : List (Launch × Nat) :=
  [(0, 0), (1, 0), (0, 1), (1, 1)].flatMap fun p => (s.launchesOn (physOf k p.1 p.2)).map fun l => (l.1, physOf k p.1 p.2)

/-- The rail of a cluster (R408): reserved clusters are on the high rail but under measure 4, clusters that no launch holds on the
low one, and for the others the hints decide while the budget allows it. The controller's choice is the high rail (log 123). -/
def State.railTarget (s : State) (k : Nat) : Bool :=
  if maskBit s.power.rsv k then decide (s.power.measure < 4)
  else
    let l := s.launchCores k
    decide (l ≠ []) && !(l.any fun p => s.power.lowers (s.qclass p.1.ctx p.1.queue)) &&
      ((l.any fun p => decide (s.hintOf p.2 = 2)) || !(l.all fun p => decide (s.hintOf p.2 = 1)))

/-- A cluster's clock stops for a relock; the microsecond is not counted by the ramp limiter (R411). -/
def Power.stop (p : Power) (k : Nat) (fast : Bool) : Power :=
  { p with stopped := putBit p.stopped k true, relock := putBit p.relock k fast, rampSkip := putBit p.rampSkip k true }

/-- RAIL_CHANGE: the next step of a change to the rail that the controller chooses. To the high rail the cluster selects it, then
relocks to 1.4 GHz; to the low rail it relocks to 0.9 GHz, then selects it. -/
def execRailChange (cluster : Fin 256) (high : Bool) (s : State) : Host.Outcome State Fault Refusal :=
  let k := cluster.val
  let p := s.power
  .next (if p.stopped.getLsbD k ∨ s.railTarget k ≠ high then s
    else if high then
      if !p.rails.getLsbD k then { s with power := { p with rails := putBit p.rails k true } }
      else if !p.clocks.getLsbD k then { s with power := p.stop k true } else s
    else if p.clocks.getLsbD k then { s with power := p.stop k false }
    else if p.rails.getLsbD k then { s with power := { p with rails := putBit p.rails k false } } else s)

/-- This core's clock runs again: its copy of TIME takes the reference count (R410), and a launch that has failed in the meantime stops
here (R377). -/
def State.goOn (s : State) : State :=
  let s1 := { s with core := { s.core with time := s.power.ref } }
  match s1.myLaunch with
  | some l => if l.phase = .ending then s1.stopLaunchHere l.id else s1
  | none => s1

/-- CLOCK_RESTART: the cluster goes on from where it stopped at its new clock. A class-0 context that waited for it runs (R415). -/
def execClockRestart (cluster : Fin 256) (s : State) : Host.Outcome State Fault Refusal :=
  let k := cluster.val
  let p := s.power
  .next (if p.stopped.getLsbD k then
      let s1 := { s with power := { p with
        stopped := putBit p.stopped k false, clocks := putBit p.clocks k (p.relock.getLsbD k) } }
      wakeWanted (if k = s.myCluster then s1.goOn else s1)
    else s)

/-- n stretched cycles of this core's cluster (R409, R410). -/
def Core.stretch (c : Core) (n : Nat) : Core :=
  { c with pwrStat := BitVec.ofNat 64 ((c.pwrStat.toNat / 2 ^ 32 + n) % 2 ^ 32 * 2 ^ 32 + c.pwrStat.toNat % 2 ^ 32) }

/-- DROOP_DETECT: from now on each cycle of the cluster is stretched, and counted as it passes (log 4); a stopped clock has none. The
cluster's droop counter counts each detection (log 121). -/
def execDroopDetect (cluster : Fin 256) (s : State) : Host.Outcome State Fault Refusal :=
  let k := cluster.val
  .next (if s.power.stopped.getLsbD k then s
    else { s with power := { s.power with
      stretching := putBit s.power.stretching k true, droops := sput 0 k (sget 0 s.power.droops k + 1) s.power.droops } })

/-- DROOP_PASS. -/
def execDroopPass (cluster : Fin 256) (s : State) : Host.Outcome State Fault Refusal :=
  .next { s with power := { s.power with stretching := putBit s.power.stretching cluster.val false } }

/-! ## The ramp limiter (R411) -/

/-- The count of a whole microsecond: the matrix-cycles that ran in it, with dummy slots up to the lower bound. -/
def rampCount (prev now bound : Nat) : Nat := max now (prev - bound)

/-- As many of its command's matrix-cycles as this core's engine has run in the microsecond: a free number up to what the limiter lets it
run (log 4). -/
def State.runSome (s : State) : State :=
  if s.core.mat.running.isSome ∧ !s.clockStopped then
    s.tickFree.runRows (s.free.toNat % (min s.power.rampOwed s.rampRoom + 1))
  else s

/-- RAMP_MICROSECOND: a microsecond of TIME ends; one that overlaps a stop is not counted, and the next is bounded by the last one
counted. -/
def execRampMicrosecond (cluster : Fin 256) (s0 : State) : Host.Outcome State Fault Refusal :=
  let k := cluster.val
  let s := if k = s0.myCluster then s0.runSome else s0
  let p := { s.power with
    rampNow := sput 0 k 0 s.power.rampNow, rampOwn := if k = s.myCluster then 0 else s.power.rampOwn }
  .next { s with power :=
    if p.stopped.getLsbD k || p.rampSkip.getLsbD k then { p with rampSkip := putBit p.rampSkip k (p.stopped.getLsbD k) }
    else { p with rampPrev := sput 0 k (rampCount (sget 0 p.rampPrev k) (sget 0 s.power.rampNow k) p.ramp) p.rampPrev } }

/-- The most matrix-cycles that the other cores of a cluster can still run in the microsecond (R411). -/
def State.othersRoom (s : State) (k : Nat) : Nat :=
  let own := decide (k = s.myCluster)
  let now := sget 0 s.power.rampNow k
  min ((if own then 3 else 4) * s.power.rate k - (now - if own then s.power.rampOwn else 0)) (s.power.rampTop k - now)

/-! ## Energy and accounting (R419, R420) -/

/-- The context that holds a cluster. -/
def State.holder (s : State) (k : Nat) : Option Nat :=
  (s.ctxs.find? fun p => p.2.state.holds && (s.remaps p.1).any fun m => decide (m.2.2 = k)).map Prod.fst

/-- The accounting domain of a context (R372). -/
def State.domainOf (s : State) (c : Nat) : Nat := bits (s.desc c 1) 16 8

/-- A word of a domain advances. -/
def Power.charge (p : Power) (d w n : Nat) : Power :=
  let k := d * 16 + w
  { p with acct := sput 0 k (sget 0 p.acct k + BitVec.ofNat 64 n) p.acct }

/-- Energy in nanojoules for a domain: whole microjoules advance ENERGY, the rest is its residue. -/
def Power.energy (p : Power) (d n : Nat) : Power :=
  let r := sget 0 p.residue d + n
  { p with residue := sput 0 d (r % 1000) p.residue }.charge d 11 (r / 1000)

/-- Energy that no domain takes. -/
def Power.unattributed (p : Power) (n : Nat) : Power :=
  let r := p.unattrNj + n
  { p with unattrNj := r % 1000, unattrUj := p.unattrUj + BitVec.ofNat 64 (r / 1000) }

/-- The domains' shares of the shared energy, each rounded down, and what remains. -/
def shares (shared : Nat) (traffic : List (Nat × Nat)) : List (Nat × Nat) × Nat :=
  let total := (traffic.map Prod.snd).foldl (· + ·) 0
  let l := traffic.map fun p => (p.1, if total = 0 then 0 else shared * p.2 / total)
  (l, shared - (l.map Prod.snd).foldl (· + ·) 0)

/-- The bytes of a domain's requests in the microsecond that the model has not counted itself advance HBM.RD, HBM.WR, HOST.B and PEER.B: those
between the slices and HBM, and those of other cores. How they divide is free (log 4). -/
def chargeBytes (d n : Nat) (s : State) : State :=
  let a := s.free.toNat % (n + 1)
  let b := s.tickFree.free.toNat % (n - a + 1)
  let c := s.tickFree.tickFree.free.toNat % (n - a - b + 1)
  { s.tickFree.tickFree.tickFree with
    power := (((s.power.charge d 7 a).charge d 8 b).charge d 9 c).charge d 10 (n - a - b - c) }

/-- The bytes of each domain in a microsecond: those that the event names, and at least those that the model has counted. -/
def Power.traffic (p : Power) (l : List (Nat × Nat)) : List (Nat × Nat) :=
  let named (d : Nat) : Nat := ((l.filter fun x => decide (x.1 % 256 = d)).map Prod.snd).foldl (· + ·) 0
  (List.append (l.map fun x => x.1 % 256) (p.moved.map Prod.fst)).eraseDups.map fun d => (d, max (named d) (sget 0 p.moved d))

/-- ENERGY_ATTRIBUTION: the energies of the clusters by number and the shared energy, in nanojoules, and the domains'
bytes. -/
def execEnergyAttribution (cluster : List (Nat × Nat)) (shared : Nat) (traffic : List (Nat × Nat)) (s : State) :
    Host.Outcome State Fault Refusal :=
  let s1 := cluster.foldl (fun a p => { a with power := match s.holder p.1 with
    | some c => a.power.energy (s.domainOf c) p.2
    | none => a.power.unattributed p.2 }) s
  let bytes := s.power.traffic traffic
  let r := shares shared bytes
  let s2 := r.1.foldl (fun a p => { a with power := a.power.energy p.1 p.2 }) s1
  let s3 := { s2 with power := { s2.power.unattributed r.2 with moved := [] } }
  .next (bytes.foldl (fun a p => chargeBytes p.1 (p.2 - sget 0 s.power.moved p.1) a) s3)

/-- The clusters that launches hold, each with the domain that its cycles count for (R419). -/
def State.heldClusters (s : State) : List (Nat × Nat) :=
  (s.launches.filter fun l => l.resident && (s.ctxState l.ctx).holds).flatMap fun l =>
    ((s.clusters l).filter fun k => !l.waits.contains k).map fun k =>
      (clusterOf (s.physAt l.ctx (2 * k.1) (2 * k.2)), s.domainOf l.ctx)

/-- The clusters whose cycles a step from b to s counts: a cluster that passes on counts for the domain that releases it, and one whose
clock is stopped has none. -/
def countedClusters (b s : State) : List (Nat × Nat) :=
  let old := b.heldClusters
  (old ++ s.heldClusters.filter fun p => !old.any fun q => decide (q.1 = p.1)).filter fun p => !s.power.stopped.getLsbD p.1

/-- CORE.CYC advances by 4 for each cycle of a held cluster in a step: on this core's cluster those of CYCLE, on the others a free number
(log 4). -/
def chargeCycles (own : Nat) (l : List (Nat × Nat)) (s : State) : State :=
  l.foldl (fun a p =>
    if p.1 = s.myCluster then { a with power := a.power.charge p.2 0 (4 * own) }
    else { a.tickFree with power := a.power.charge p.2 0 (4 * (a.free.toNat % 2 ^ 48)) }) s

/-! ## Leases and the power cap (R412, R413) -/

/-- LEASE_RECEIPT: before step 3 of a start the port keeps up to 16 (R432). -/
def execLeaseReceipt (seq : BitVec 32) (watts ms : Nat) (s : State) : Host.Outcome State Fault Refusal :=
  let l : Lease := ⟨seq, watts, ms⟩
  .next (if s.mgmt.starting ∧ s.mgmt.last < 3 then
      { s with power := { s.power with held := (s.power.held ++ [l]).take 16 } }
    else takeLease l s)

/-- LEASE_EXPIRY: the reference count has reached the lease's end, and the budget is the floor. -/
def execLeaseExpiry (s : State) : Host.Outcome State Fault Refusal :=
  .next (if s.power.active then
      { s with power := { s.power with active := false, ref := if s.power.ref.toNat < s.power.expiry then BitVec.ofNat 64 s.power.expiry else s.power.ref } }
    else s)

/-- A lease is active until the reference count reaches its end (R412). -/
def Power.leased (p : Power) : Bool := p.active && decide (p.ref.toNat < p.expiry)

/-- The current budget in watts. -/
def Power.budget (p : Power) : Nat := if p.leased then p.lease.watts else Config.floorWatts.toNat

/-! ## What the registers of the management window read (R4, R418, R421, R422)

The host reads them; no row of the table is a read (log 1). A write-only register, and an offset that holds none, reads zero. -/

/-- The bytes of the image that the controller runs: that of a start from step 3 on, where the start has verified it. -/
def Mgmt.running (m : Mgmt) : Config.ImageBytes :=
  if m.kind = 2 then Config.golden 0
  else if m.starting ∧ 3 ≤ m.last then m.bootBytes 0 else ((m.banks[0])[m.active[0]]).bytes

/-- A register of the power block by its offset in the block. -/
def Power.register (p : Power) (off : Nat) : Nat :=
  if off = 0x000 then p.lease.seq.toNat * 2 ^ 32 + p.budget * 2 ^ 16 + (if p.leased then 1 else 0)
  else if off = 0x008 then if p.leased then (p.expiry - p.ref.toNat) / 100000 else 0
  else if off = 0x010 then Config.floorWatts.toNat
  else if off = 0x018 then p.ramp
  else if 0x020 ≤ off ∧ off < 0x040 then (p.rsv.toList.getD ((off - 0x020) / 8) 0).toNat
  else if 0x040 ≤ off ∧ off < 0x060 then (p.lend.toList.getD ((off - 0x040) / 8) 0).toNat
  else if off = 0x060 then p.share.toNat
  else if off = 0x068 then p.derates.toNat * 2 ^ 32 + p.derated.toNat
  else if off = 0x078 then p.unattrUj.toNat
  else if 0x10000 ≤ off ∧ off < 0x18000 then (sget 0 p.acct ((off - 0x10000) / 128 * 16 + off % 128 / 8)).toNat
  else 0

/-- A register of the controller's own. -/
def State.mgRegister (s : State) (off : Nat) : Nat :=
  let m := s.mgmt
  if off = 0x000 then
    0x4C4D * 2 ^ 48 + 0x7160 * 2 ^ 32 + Config.stepping.toNat * 2 ^ 16 + (Config.firmwareVersion m.running).toNat
  else if off = 0x008 then
    m.last * 2 ^ 56 + m.fails * 2 ^ 48 + m.kind * 2 ^ 32 + (if m.ready then 2 ^ 31 else 0) + (if m.degraded then 2 ^ 30 else 0) + m.fsvn
  else if off = 0x010 then (if m.go then 2 ^ 63 else 0) + m.codeReg.toNat
  else if off = 0x018 then m.rsp.toNat
  else if 0x020 ≤ off ∧ off < 0x040 then (m.args.toList.getD ((off - 0x020) / 8) 0).toNat
  else if off = 0x040 then s.ctxBase.toNat
  else if off = 0x048 then m.retries.toNat * 2 ^ 32 + m.discards.toNat
  else if off = 0x050 then m.corrHbm.toNat * 2 ^ 32 + m.corrSram.toNat
  else if 0x058 ≤ off ∧ off < 0x078 then m.avail.toNat / 2 ^ (64 * ((off - 0x058) / 8)) % 2 ^ 64
  else 0

/-- An offset of a sensor register (R422). -/
def isSensor (off : Nat) : Bool :=
  decide (0x1000 ≤ off ∧ off < 0x18C0) || decide (0x2000 ≤ off ∧ off < 0x2800)

/-- The value of a sensor register: a droop counter, or a free reading. -/
def State.sensor (s : State) (off : Nat) : Word :=
  if 0x2000 ≤ off then BitVec.ofNat 64 (sget 0 s.power.droops ((off - 0x2000) / 8)) else Config.sensor off s.freeCtr

/-- The aligned 64-bit register at an offset of the window, as the physical function reads it. The window answers from step 3 of a
start on (R433); a sensor reads 0 until then. -/
def State.readRegister (s : State) (off : Nat) : Option Word :=
  if !s.mgmt.answers then if isSensor off then some 0 else none
  else if isSensor off then some (s.sensor off)
  else some (BitVec.ofNat 64 (if 0x100000 ≤ off then s.power.register (off - 0x100000) else s.mgRegister off))

/-- The context of a virtual function: its descriptor's FN names it (R372). -/
def State.ctxOfVf (s : State) (f : Fin 1024) : Option Nat :=
  (s.ctxs.find? fun p => decide (p.2.state ≠ .unconfigured) && decide (bits (s.desc p.1 1) 0 11 = f.val + 1)).map Prod.fst

/-- What a virtual function reads at an offset of its own window, once Kararlink-H presents it (R433, R435): the counters of its own
context's domain, and nothing else (R421). -/
def State.readVf (s : State) (f : Fin 1024) (off : Nat) : Option Word :=
  if !s.linkOpen (.virtual f) then none
  else match s.ctxOfVf f with
    | some c => if 0x10000 ≤ off ∧ off < 0x10080 then some (sget 0 s.power.acct (s.domainOf c * 16 + (off - 0x10000) / 8)) else some 0
    | none => some 0

/-- POWER_CAP_CONTROL: the measures in order, class by class, one level more while the power is above the budget and one less when it
is not (log 123); each entry into measure 4 is logged. -/
def execPowerCapControl (above : Bool) (s : State) : Host.Outcome State Fault Refusal :=
  let m := s.power.level
  .next (if above then
      let s1 := { s with power := { s.power with level := min (m + 1) 8 } }
      if m = 7 then s1.addLog .measure4 0 [] else s1
    else { s with power := { s.power with level := m - 1 } })

/-! ## Thermal derating (R417) -/

def execStackDerateEnter (k : Fin 8) (s : State) : Host.Outcome State Fault Refusal :=
  .next (if s.power.derated.getLsbD k.val then s
    else { s with power := { s.power with
      derated := s.power.derated ||| 1#8 <<< k.val, derates := s.power.derates + 1 } }.addLog .derate k.val [])

def execStackDerateExit (k : Fin 8) (s : State) : Host.Outcome State Fault Refusal :=
  .next { s with power := { s.power with derated := s.power.derated &&& ~~~ (1#8 <<< k.val) } }

end Sys2Proof.Machine
end

