-- ==== Sys2Proof/Machine/Dispatch.lean ====
section
/-! DEFINITION. The meaning of every instruction and event: one direct call each. -/

namespace Sys2Proof.Machine

/-- One instruction of the performing thread, or one event (spec/opcode_table.json, a row an arm). -/
def exec (i : Instr) (s : State) : Host.Outcome State Fault Refusal :=
  match i with
  | .add w d a b => Sys2Proof.Machine.execAdd w d a b s
  | .sub w d a b => Sys2Proof.Machine.execSub w d a b s
  | .and w d a b => Sys2Proof.Machine.execAnd w d a b s
  | .or w d a b => Sys2Proof.Machine.execOr w d a b s
  | .xor w d a b => Sys2Proof.Machine.execXor w d a b s
  | .andn w d a b => Sys2Proof.Machine.execAndn w d a b s
  | .shl w d a b => Sys2Proof.Machine.execShl w d a b s
  | .shr w d a b => Sys2Proof.Machine.execShr w d a b s
  | .sar w d a b => Sys2Proof.Machine.execSar w d a b s
  | .min w d a b => Sys2Proof.Machine.execMin w d a b s
  | .max w d a b => Sys2Proof.Machine.execMax w d a b s
  | .minu w d a b => Sys2Proof.Machine.execMinu w d a b s
  | .maxu w d a b => Sys2Proof.Machine.execMaxu w d a b s
  | .slt w d a b => Sys2Proof.Machine.execSlt w d a b s
  | .sltu w d a b => Sys2Proof.Machine.execSltu w d a b s
  | .seq w d a b => Sys2Proof.Machine.execSeq w d a b s
  | .clz w d a => Sys2Proof.Machine.execClz w d a s
  | .ctz w d a => Sys2Proof.Machine.execCtz w d a s
  | .popc w d a => Sys2Proof.Machine.execPopc w d a s
  | .sext w d a p => Sys2Proof.Machine.execSext w d a p s
  | .zext w d a p => Sys2Proof.Machine.execZext w d a p s
  | .sel w d a b => Sys2Proof.Machine.execSel w d a b s
  | .mov d a => Sys2Proof.Machine.execMov d a s
  | .mul w d a b => Sys2Proof.Machine.execMul w d a b s
  | .mulh w d a b => Sys2Proof.Machine.execMulh w d a b s
  | .mulhu w d a b => Sys2Proof.Machine.execMulhu w d a b s
  | .div w d a b => Sys2Proof.Machine.execDiv w d a b s
  | .divu w d a b => Sys2Proof.Machine.execDivu w d a b s
  | .rem w d a b => Sys2Proof.Machine.execRem w d a b s
  | .remu w d a b => Sys2Proof.Machine.execRemu w d a b s
  | .li d imm => Sys2Proof.Machine.execLi d imm s
  | .lix n imm => Sys2Proof.Machine.execLix n imm s
  | .lxh n imm => Sys2Proof.Machine.execLxh n imm s
  | .movxFromX d n => Sys2Proof.Machine.execMovxFromX d n s
  | .movxToX n a => Sys2Proof.Machine.execMovxToX n a s
  | .saddr d a b => Sys2Proof.Machine.execSaddr d a b s
  | .lea d b off scale => Sys2Proof.Machine.execLea d b off scale s
  | .b c s1 s2 hint off => Sys2Proof.Machine.execB c s1 s2 hint off s
  | .loop c off => Sys2Proof.Machine.execLoop c off s
  | .bsplit c s1 s2 hint off => Sys2Proof.Machine.execBsplit c s1 s2 hint off s
  | .j off => Sys2Proof.Machine.execJ off s
  | .jal off => Sys2Proof.Machine.execJal off s
  | .jr d a => Sys2Proof.Machine.execJr d a s
  | .cMov d r => Sys2Proof.Machine.execCMov d r s
  | .cAdd d r => Sys2Proof.Machine.execCAdd d r s
  | .cSub d r => Sys2Proof.Machine.execCSub d r s
  | .cAnd d r => Sys2Proof.Machine.execCAnd d r s
  | .cAddi d imm => Sys2Proof.Machine.execCAddi d imm s
  | .cLi d imm => Sys2Proof.Machine.execCLi d imm s
  | .cShli d imm => Sys2Proof.Machine.execCShli d imm s
  | .cShri d imm => Sys2Proof.Machine.execCShri d imm s
  | .cLdw d b o => Sys2Proof.Machine.execCLdw d b o s
  | .cStw d b o => Sys2Proof.Machine.execCStw d b o s
  | .cBeqz r off => Sys2Proof.Machine.execCBeqz r off s
  | .cBnez r off => Sys2Proof.Machine.execCBnez r off s
  | .cJ off => Sys2Proof.Machine.execCJ off s
  | .cJr r => Sys2Proof.Machine.execCJr r s
  | .ld d b off sz => Sys2Proof.Machine.execLd d b off sz s
  | .ldIndexed d b imm sh sz => Sys2Proof.Machine.execLdIndexed d b imm sh sz s
  | .st d b off sz => Sys2Proof.Machine.execSt d b off sz s
  | .stIndexed d b imm sh sz => Sys2Proof.Machine.execStIndexed d b imm sh sz s
  | .ldr d b off => Sys2Proof.Machine.execLdr d b off s
  | .stp d b off => Sys2Proof.Machine.execStp d b off s
  | .pref llc b off => Sys2Proof.Machine.execPref llc b off s
  | .kld d b off => Sys2Proof.Machine.execKld d b off s
  | .ldf d b off => Sys2Proof.Machine.execLdf d b off s
  | .ldfe d b off => Sys2Proof.Machine.execLdfe d b off s
  | .stf d b off => Sys2Proof.Machine.execStf d b off s
  | .stef d b off => Sys2Proof.Machine.execStef d b off s
  | .tagset b off => Sys2Proof.Machine.execTagset b off s
  | .tagclr b off => Sys2Proof.Machine.execTagclr b off s
  | .tagtst d b off => Sys2Proof.Machine.execTagtst d b off s
  | .vld v ty b off => Sys2Proof.Machine.execVld v ty b off s
  | .vlds v ty b off => Sys2Proof.Machine.execVlds v ty b off s
  | .vldx v ty b x => Sys2Proof.Machine.execVldx v ty b x s
  | .vldb v ty b off => Sys2Proof.Machine.execVldb v ty b off s
  | .vst v ty b off => Sys2Proof.Machine.execVst v ty b off s
  | .vsts v ty b off => Sys2Proof.Machine.execVsts v ty b off s
  | .vstx v ty b x => Sys2Proof.Machine.execVstx v ty b x s
  | .vstxAdd v ty b x => Sys2Proof.Machine.execVstxAdd v ty b x s
  | .amoW d b v op o sc => Sys2Proof.Machine.execAmoW d b v op o sc s
  | .amoD d b v op o sc => Sys2Proof.Machine.execAmoD d b v op o sc s
  | .fence o sc => Sys2Proof.Machine.execFence o sc s
  | .vaddI v a b t dl => Sys2Proof.Machine.execVaddI v a b t dl s
  | .vsubI v a b t dl => Sys2Proof.Machine.execVsubI v a b t dl s
  | .vmulI v a b t dl => Sys2Proof.Machine.execVmulI v a b t dl s
  | .vminI v a b t dl => Sys2Proof.Machine.execVminI v a b t dl s
  | .vmaxI v a b t dl => Sys2Proof.Machine.execVmaxI v a b t dl s
  | .vabsI v a dl => Sys2Proof.Machine.execVabsI v a dl s
  | .vnegI v a dl => Sys2Proof.Machine.execVnegI v a dl s
  | .vclampI v a b t dl => Sys2Proof.Machine.execVclampI v a b t dl s
  | .vaddF v a b t dl => Sys2Proof.Machine.execVaddF v a b t dl s
  | .vsubF v a b t dl => Sys2Proof.Machine.execVsubF v a b t dl s
  | .vmulF v a b t dl => Sys2Proof.Machine.execVmulF v a b t dl s
  | .vfma v a b t dl => Sys2Proof.Machine.execVfma v a b t dl s
  | .vfms v a b t dl => Sys2Proof.Machine.execVfms v a b t dl s
  | .vfnma v a b t dl => Sys2Proof.Machine.execVfnma v a b t dl s
  | .vminF v a b t dl => Sys2Proof.Machine.execVminF v a b t dl s
  | .vmaxF v a b t dl => Sys2Proof.Machine.execVmaxF v a b t dl s
  | .vabsF v a t dl => Sys2Proof.Machine.execVabsF v a t dl s
  | .vnegF v a t dl => Sys2Proof.Machine.execVnegF v a t dl s
  | .vclampF v a b t dl => Sys2Proof.Machine.execVclampF v a b t dl s
  | .vrcp v a t dl => Sys2Proof.Machine.execVrcp v a t dl s
  | .vrsq v a t dl => Sys2Proof.Machine.execVrsq v a t dl s
  | .vexp2 v a t dl => Sys2Proof.Machine.execVexp2 v a t dl s
  | .vlog2 v a t dl => Sys2Proof.Machine.execVlog2 v a t dl s
  | .vand v a b dl => Sys2Proof.Machine.execVand v a b dl s
  | .vor v a b dl => Sys2Proof.Machine.execVor v a b dl s
  | .vxor v a b dl => Sys2Proof.Machine.execVxor v a b dl s
  | .vandn v a b dl => Sys2Proof.Machine.execVandn v a b dl s
  | .vshl v a b dl => Sys2Proof.Machine.execVshl v a b dl s
  | .vshr v a b dl => Sys2Proof.Machine.execVshr v a b dl s
  | .vsar v a b dl => Sys2Proof.Machine.execVsar v a b dl s
  | .vmov v a dl => Sys2Proof.Machine.execVmov v a dl s
  | .vcmp m a b c t dl => Sys2Proof.Machine.execVcmp m a b c t dl s
  | .vsel v m a b dl => Sys2Proof.Machine.execVsel v m a b dl s
  | .vperm v a b dl => Sys2Proof.Machine.execVperm v a b dl s
  | .vbcast v a b dl => Sys2Proof.Machine.execVbcast v a b dl s
  | .vslide v a b dl => Sys2Proof.Machine.execVslide v a b dl s
  | .viota v a dl => Sys2Proof.Machine.execViota v a dl s
  | .vlut v a dl => Sys2Proof.Machine.execVlut v a dl s
  | .vext d a b dl => Sys2Proof.Machine.execVext d a b dl s
  | .vins v a b => Sys2Proof.Machine.execVins v a b s
  | .vredAdd v a t dl => Sys2Proof.Machine.execVredAdd v a t dl s
  | .vredMin v a t dl => Sys2Proof.Machine.execVredMin v a t dl s
  | .vredMax v a t dl => Sys2Proof.Machine.execVredMax v a t dl s
  | .vscanAdd v a t dl => Sys2Proof.Machine.execVscanAdd v a t dl s
  | .vscanMin v a t dl => Sys2Proof.Machine.execVscanMin v a t dl s
  | .vscanMax v a t dl => Sys2Proof.Machine.execVscanMax v a t dl s
  | .vdot4 v a b t dl => Sys2Proof.Machine.execVdot4 v a b t dl s
  | .vcvt v a src dst dl => Sys2Proof.Machine.execVcvt v a src dst dl s
  | .mand m a b dl => Sys2Proof.Machine.execMand m a b dl s
  | .mor m a b dl => Sys2Proof.Machine.execMor m a b dl s
  | .mxor m a b dl => Sys2Proof.Machine.execMxor m a b dl s
  | .mnot m a dl => Sys2Proof.Machine.execMnot m a dl s
  | .mpop d a dl => Sys2Proof.Machine.execMpop d a dl s
  | .mfirst d a dl => Sys2Proof.Machine.execMfirst d a dl s
  | .mset m a dl => Sys2Proof.Machine.execMset m a dl s
  | .cx n v a b dl => Sys2Proof.Machine.execCx n v a b dl s
  | .cxload n a => Sys2Proof.Machine.execCxload n a s
  | .cxevict n => Sys2Proof.Machine.execCxevict n s
  | .cxqry d n => Sys2Proof.Machine.execCxqry d n s
  | .cxldr a => Sys2Proof.Machine.execCxldr a s
  | .mma m nf t b p col mc dl => Sys2Proof.Machine.execMma m nf t b p col mc dl s
  | .mmas m nf t b col mc dl => Sys2Proof.Machine.execMmas m nf t b col mc dl s
  | .tld p t a b dl => Sys2Proof.Machine.execTld p t a b dl s
  | .tst p t a b dl => Sys2Proof.Machine.execTst p t a b dl s
  | .tmov p t u dl => Sys2Proof.Machine.execTmov p t u dl s
  | .accZero a b dl => Sys2Proof.Machine.execAccZero a b dl s
  | .accLd a b dl => Sys2Proof.Machine.execAccLd a b dl s
  | .accSt a b dl => Sys2Proof.Machine.execAccSt a b dl s
  | .accTov t v a dl => Sys2Proof.Machine.execAccTov t v a dl s
  | .accAddv t a v dl => Sys2Proof.Machine.execAccAddv t a v dl s
  | .accMode dst a b dl => Sys2Proof.Machine.execAccMode dst a b dl s
  | .accRaw d a dl => Sys2Proof.Machine.execAccRaw d a dl s
  | .accRawWr a b dl => Sys2Proof.Machine.execAccRawWr a b dl s
  | .fork q => Sys2Proof.Machine.execFork q s
  | .ttEnq d a => Sys2Proof.Machine.execTtEnq d a s
  | .cpy a b => Sys2Proof.Machine.execCpy a b s
  | .cpy2d a b => Sys2Proof.Machine.execCpy2d a b s
  | .ccWait imm b => Sys2Proof.Machine.execCcWait imm b s
  | .ccRead d imm => Sys2Proof.Machine.execCcRead d imm s
  | .rlQry d a => Sys2Proof.Machine.execRlQry d a s
  | .subOpen d a => Sys2Proof.Machine.execSubOpen d a s
  | .subClose a => Sys2Proof.Machine.execSubClose a s
  | .slotTake d a => Sys2Proof.Machine.execSlotTake d a s
  | .slotGive a b => Sys2Proof.Machine.execSlotGive a b s
  | .taskNext d => Sys2Proof.Machine.execTaskNext d s
  | .coverClaim d a => Sys2Proof.Machine.execCoverClaim d a s
  | .coverDone a b => Sys2Proof.Machine.execCoverDone a b s
  | .coverYield a b => Sys2Proof.Machine.execCoverYield a b s
  | .hrd d imm => Sys2Proof.Machine.execHrd d imm s
  | .hwr imm a => Sys2Proof.Machine.execHwr imm a s
  | .hcommit d => Sys2Proof.Machine.execHcommit d s
  | .chSend c a => Sys2Proof.Machine.execChSend c a s
  | .chRecv d c => Sys2Proof.Machine.execChRecv d c s
  | .chProbe d c => Sys2Proof.Machine.execChProbe d c s
  | .rsend a b => Sys2Proof.Machine.execRsend a b s
  | .xwin w a b => Sys2Proof.Machine.execXwin w a b s
  | .qLaunch d a b => Sys2Proof.Machine.execQLaunch d a b s
  | .trap n => Sys2Proof.Machine.execTrap n s
  | .pwrHint n => Sys2Proof.Machine.execPwrHint n s
  | .jnlRd d j => Sys2Proof.Machine.execJnlRd d j s
  | .jnlRetry j => Sys2Proof.Machine.execJnlRetry j s
  | .jnlDrop j => Sys2Proof.Machine.execJnlDrop j s
  | .tlbInv a b => Sys2Proof.Machine.execTlbInv a b s
  | .tlbShoot a b => Sys2Proof.Machine.execTlbShoot a b s
  | .csrr d c => Sys2Proof.Machine.execCsrr d c s
  | .csrw d a c => Sys2Proof.Machine.execCsrw d a c s
  | .csrset d a c => Sys2Proof.Machine.execCsrset d a c s
  | .csrclr d a c => Sys2Proof.Machine.execCsrclr d a c s
  | .dispatch t tag => Sys2Proof.Machine.execDispatch t tag s
  | .completionInject t tag => Sys2Proof.Machine.execCompletionInject t tag s
  | .completionAccept t tag => Sys2Proof.Machine.execCompletionAccept t tag s
  | .trapDelivery t => Sys2Proof.Machine.execTrapDelivery t s
  | .kill t boundary => Sys2Proof.Machine.execKill t boundary s
  | .storePerformed t => Sys2Proof.Machine.execStorePerformed t s
  | .tagWaiterWake t => Sys2Proof.Machine.execTagWaiterWake t s
  | .pageWaitPark t => Sys2Proof.Machine.execPageWaitPark t s
  | .faultReply t => Sys2Proof.Machine.execFaultReply t s
  | .postedStoreAck t j => Sys2Proof.Machine.execPostedStoreAck t j s
  | .postedStoreRefusal t j => Sys2Proof.Machine.execPostedStoreRefusal t j s
  | .eventLineService line => Sys2Proof.Machine.execEventLineService line s
  | .chainedArrival parent child drop => Sys2Proof.Machine.execChainedArrival parent child drop s
  | .chainCompletionMessage child => Sys2Proof.Machine.execChainCompletionMessage child s
  | .eventOpReturn t => Sys2Proof.Machine.execEventOpReturn t s
  | .sequencerStep q => Sys2Proof.Machine.execSequencerStep q s
  | .rangeLockReissue t => Sys2Proof.Machine.execRangeLockReissue t s
  | .taskRecordDispatch r => Sys2Proof.Machine.execTaskRecordDispatch r s
  | .slotFillStart e k => Sys2Proof.Machine.execSlotFillStart e k s
  | .slotFilled e k => Sys2Proof.Machine.execSlotFilled e k s
  | .slotWriteoutDone e k => Sys2Proof.Machine.execSlotWriteoutDone e k s
  | .exchangeTransferBegin imm => Sys2Proof.Machine.execExchangeTransferBegin imm s
  | .routerPacket x y port p => Sys2Proof.Machine.execRouterPacket x y port p s
  | .channelDelivery c payload => Sys2Proof.Machine.execChannelDelivery c payload s
  | .shootdownBlocked imm => Sys2Proof.Machine.execShootdownBlocked imm s
  | .shootdownConfirmed imm => Sys2Proof.Machine.execShootdownConfirmed imm s
  | .stopPoint t => Sys2Proof.Machine.execStopPoint t s
  | .queueLaunchPacket c q => Sys2Proof.Machine.execQueueLaunchPacket c q s
  | .queueLoadPacket c q => Sys2Proof.Machine.execQueueLoadPacket c q s
  | .queueUnloadPacket c q => Sys2Proof.Machine.execQueueUnloadPacket c q s
  | .queueWaitPacket c q => Sys2Proof.Machine.execQueueWaitPacket c q s
  | .waitPacketEnd c q => Sys2Proof.Machine.execWaitPacketEnd c q s
  | .queueFillPacket c q => Sys2Proof.Machine.execQueueFillPacket c q s
  | .queueBarrierPacket c q => Sys2Proof.Machine.execQueueBarrierPacket c q s
  | .launchStart id => Sys2Proof.Machine.execLaunchStart id s
  | .launchEnd id => Sys2Proof.Machine.execLaunchEnd id s
  | .linkAck t => Sys2Proof.Machine.execLinkAck t s
  | .class0PreemptRequest c => Sys2Proof.Machine.execClass0PreemptRequest c s
  | .threadStop t => Sys2Proof.Machine.execThreadStop t s
  | .saveComplete c => Sys2Proof.Machine.execSaveComplete c s
  | .clockRestart cluster => Sys2Proof.Machine.execClockRestart cluster s
  | .join => Sys2Proof.Machine.execJoin s
  | .nop => Sys2Proof.Machine.execNop s
  | .exit => Sys2Proof.Machine.execExit s
  | .cNop => Sys2Proof.Machine.execCNop s
  | .rdv => Sys2Proof.Machine.execRdv s
  | .sstep => Sys2Proof.Machine.execSstep s
  | .hintSucc => Sys2Proof.Machine.execHintSucc s
  | .waitpred => Sys2Proof.Machine.execWaitpred s
  | .tret => Sys2Proof.Machine.execTret s
  | .yield => Sys2Proof.Machine.execYield s
  | .evArrive d b off => Sys2Proof.Machine.execEvArrive d b off s
  | .evDrop d b off => Sys2Proof.Machine.execEvDrop d b off s
  | .evWait d b off => Sys2Proof.Machine.execEvWait d b off s
  | .evSync d b off => Sys2Proof.Machine.execEvSync d b off s
  | .evLock d b off => Sys2Proof.Machine.execEvLock d b off s
  | .evUnlock b off => Sys2Proof.Machine.execEvUnlock b off s
  | .evSignal b off => Sys2Proof.Machine.execEvSignal b off s
  | .evClear b off => Sys2Proof.Machine.execEvClear b off s
  | .evInit d b off => Sys2Proof.Machine.execEvInit d b off s
  | .issue => Sys2Proof.Machine.execIssue s
  | .commit => Sys2Proof.Machine.execCommit s
  | .outcomeRecordArrival taken redirect => Sys2Proof.Machine.execOutcomeRecordArrival taken redirect s
  | .performMarkArrival => Sys2Proof.Machine.execPerformMarkArrival s
  | .parityError => Sys2Proof.Machine.execParityError s
  | .instructionFetch t => Sys2Proof.Machine.execInstructionFetch t s
  | .l1Eviction line => Sys2Proof.Machine.execL1Eviction line s
  | .matrixCommandStart => Sys2Proof.Machine.execMatrixCommandStart s
  | .matrixCommandComplete => Sys2Proof.Machine.execMatrixCommandComplete s
  | .copyCommandStart => Sys2Proof.Machine.execCopyCommandStart s
  | .copyCommandComplete => Sys2Proof.Machine.execCopyCommandComplete s
  | .datapathErrorReplay r => Sys2Proof.Machine.execDatapathErrorReplay r s
  | .taskRequestReserve => Sys2Proof.Machine.execTaskRequestReserve s
  | .barrierTreeComplete => Sys2Proof.Machine.execBarrierTreeComplete s
  | .exchangeStepEnd => Sys2Proof.Machine.execExchangeStepEnd s
  | .coreWakeTlbFlush => Sys2Proof.Machine.execCoreWakeTlbFlush s
  | .handlerEntry => Sys2Proof.Machine.execHandlerEntry s
  | .handlerFault cause => Sys2Proof.Machine.execHandlerFault cause s
  | .linkTaggedWrite pa data => Sys2Proof.Machine.execLinkTaggedWrite pa data s
  | .linkAccess from_ write pa data => Sys2Proof.Machine.execLinkAccess from_ write pa data s
  | .peerAmo op wide pa v cmp => Sys2Proof.Machine.execPeerAmo op wide pa v cmp s
  | .saveWatchdogExpiry c => Sys2Proof.Machine.execSaveWatchdogExpiry c s
  | .attach => Sys2Proof.Machine.execAttach s
  | .run => Sys2Proof.Machine.execRun s
  | .preempt => Sys2Proof.Machine.execPreempt s
  | .resume => Sys2Proof.Machine.execResume s
  | .detach => Sys2Proof.Machine.execDetach s
  | .warm => Sys2Proof.Machine.execWarm s
  | .cold => Sys2Proof.Machine.execCold s
  | .updOpen => Sys2Proof.Machine.execUpdOpen s
  | .updWrite => Sys2Proof.Machine.execUpdWrite s
  | .updActivate => Sys2Proof.Machine.execUpdActivate s
  | .svnCommit => Sys2Proof.Machine.execSvnCommit s
  | .logRead => Sys2Proof.Machine.execLogRead s
  | .repairList => Sys2Proof.Machine.execRepairList s
  | .measExtend => Sys2Proof.Machine.execMeasExtend s
  | .mgCtxbaseWrite v => Sys2Proof.Machine.execMgCtxbaseWrite v s
  | .rsvLendWrite lend k v => Sys2Proof.Machine.execRsvLendWrite lend k v s
  | .shareWrite v => Sys2Proof.Machine.execShareWrite v s
  | .rampWrite v => Sys2Proof.Machine.execRampWrite v s
  | .acctClr v => Sys2Proof.Machine.execAcctClr v s
  | .registerWrite off v => Sys2Proof.Machine.execRegisterWrite off v s
  | .getVersion => Sys2Proof.Machine.execGetVersion s
  | .getCapabilities => Sys2Proof.Machine.execGetCapabilities s
  | .negotiateAlgorithms sha3 mldsa => Sys2Proof.Machine.execNegotiateAlgorithms sha3 mldsa s
  | .getCertificate slot off len => Sys2Proof.Machine.execGetCertificate slot off len s
  | .challenge nonce => Sys2Proof.Machine.execChallenge nonce s
  | .getMeasurements index => Sys2Proof.Machine.execGetMeasurements index s
  | .chunkGet n => Sys2Proof.Machine.execChunkGet n s
  | .powerOn => Sys2Proof.Machine.execPowerOn s
  | .kararlinkHotReset => Sys2Proof.Machine.execKararlinkHotReset s
  | .startStepComplete => Sys2Proof.Machine.execStartStepComplete s
  | .startStepTimeout => Sys2Proof.Machine.execStartStepTimeout s
  | .standbyPowerLoss => Sys2Proof.Machine.execStandbyPowerLoss s
  | .correctedError site => Sys2Proof.Machine.execCorrectedError site s
  | .uncorrectableError site => Sys2Proof.Machine.execUncorrectableError site s
  | .codeLineError line => Sys2Proof.Machine.execCodeLineError line s
  | .patrolScrub pa => Sys2Proof.Machine.execPatrolScrub pa s
  | .railChange cluster high => Sys2Proof.Machine.execRailChange cluster high s
  | .droopDetect cluster => Sys2Proof.Machine.execDroopDetect cluster s
  | .droopPass cluster => Sys2Proof.Machine.execDroopPass cluster s
  | .rampMicrosecond cluster => Sys2Proof.Machine.execRampMicrosecond cluster s
  | .energyAttribution cluster shared traffic => Sys2Proof.Machine.execEnergyAttribution cluster shared traffic s
  | .leaseReceipt seq watts ms => Sys2Proof.Machine.execLeaseReceipt seq watts ms s
  | .leaseExpiry => Sys2Proof.Machine.execLeaseExpiry s
  | .powerCapControl above => Sys2Proof.Machine.execPowerCapControl above s
  | .stackDerateEnter r => Sys2Proof.Machine.execStackDerateEnter r s
  | .stackDerateExit r => Sys2Proof.Machine.execStackDerateExit r s
  | .linkLevelRetry => Sys2Proof.Machine.execLinkLevelRetry s
  | .linkDown kararlink link => Sys2Proof.Machine.execLinkDown kararlink link s

end Sys2Proof.Machine
end

