-- ==== Sys2Proof/Machine/Outside.lean ====
section
/-! DEFINITION. What the other cores of the device do to this core's part of the machine (log 6): the events of the agenda that
are no row of the opcode table. Each has the effect that its rule gives it, and none where the rule does not allow it. -/

namespace Sys2Proof.Machine

/-! ## Slaved groups (R49 to R52) -/

/-- An instruction of the leader's stream reaches a follower. In a detached follower it counts from the leader's JOIN on
(R51). -/
def takeParcel (pc : Word) (p q : Nat) (s : State) : State :=
  let k := s.core.slave
  let f : Fwd := ⟨k.arrived, pc, p, q⟩
  let n := if f.conditional then 1 else 0
  let kept : Slaving := { k with stream := k.stream ++ [f], arrived := k.arrived + 1, owed := k.owed + n }
  match k.role with
  | .attached => s.setSlave kept
  | .detached =>
    if k.past then s.setSlave kept
    else if f.instr? = some .join then s.setSlave { kept with past := true }
    else s.setSlave { k with arrived := k.arrived + 1, stale := k.stale + n }
  | _ => s

/-- The leader's JOIN commits together with that of a detached follower, which waits there (R51). -/
def takeLeaderJoin (s : State) : State :=
  if s.core.slave.role = .detached ∧ s.pri.wake.kind = 17 then s.setSlave { s.core.slave with marks := 1 } else s

/-- Every follower has used n items of this leader's forward log (R52). -/
def useLog (n : Nat) (s : State) : State :=
  if s.core.slave.role = .leader then s.setSlave { s.core.slave with log := s.core.slave.log.drop n } else s

/-! ## Memory -/

/-- The site of a key of scratchpad or HBM; other keys are no location of the device. -/
def keySite (k : Nat) : Option Site :=
  if 2 ^ 62 ≤ k then
    let n := k - 2 ^ 62
    some (.loc (.scratch (n / 2 ^ 29) (n / 2 ^ 24 % 32) (n / 2 ^ 19 % 32) (n % 2 ^ 19)))
  else if k < hbmSize then some (.loc (.hbm k))
  else none

/-- n bytes from a key on may be accessed by an agent of another core: they are memory of the device, no lock that this core
knows of holds them (R294), and their bank's clock runs (R407). -/
def State.reaches (s : State) (k n : Nat) (write : Bool) : Bool :=
  (List.range n).all fun j => match keySite (k + j) with
    | some x => !s.siteLocked false write x && !s.siteStopped x
    | none => false

/-- A read-modify-write of another core (R164). -/
def takeAtomic (k n : Nat) (op : AmoOp) (v cmp : Nat) (s : State) : State :=
  if s.reaches k n true ∧ (n = 4 ∨ n = 8) ∧ k % n = 0 ∧ !s.poisoned k then
    s.setNum k n (amoNew op (8 * n) (s.num k n) (v % 2 ^ (8 * n)) (cmp % 2 ^ (8 * n)))
  else s

/-! ## Event lines (R315 to R321) -/

/-- An operation of an agent of another core reaches a line, which takes it at its next service; one that the line's state does
not allow is that agent's fault. -/
def takeLine (k : Nat) (a : EAgent) (op : LineOp) (s : State) : State :=
  let l := s.line k
  if s.isOwn k a then s
  else if op = .leave then s.setLine k { l with
    waiters := l.waiters.filter (·.1 ≠ a), queue := l.queue.filter (· ≠ a)
    ops := l.ops.filter fun x => decide (x.1 ≠ a) || !x.2.waits }
  else s.setLine k { l with ops := addOp (a, op) l.ops }

/-- CH.SEND or RSEND of another core of this core's context: its packet enters that core's router (R334). -/
def takeSent (x y : Fin 32) (p : Packet) (s : State) : State :=
  if s.core.ctx.isNone ∨ s.isSelf x.val y.val ∨ !s.corePresent s.ctxNo x.val y.val then s
  else { s with fabric := s.fabric ++ [⟨s.ctxNo, x, y, 0, { p with void := false }, none⟩] }

/-! ## Launches on other cores (R239, R240, R249, R253, R260, R377) -/

/-- A running launch of which core i is another core than this one. -/
def State.otherCore (s : State) (id i : Nat) : Option Launch :=
  (s.launch? id).filter fun l => decide (l.phase = .running) && decide (i < l.cores) &&
    !(decide (s.core.launch = some id) && decide (i = s.launchIndex))

/-- TASK.NEXT of another core is served, when the range unit can serve it. -/
def takeTaskNext (id i : Nat) (s : State) : State :=
  match s.otherCore id i with
  | none => s
  | some l => match serveTask i l s with
    | .tile _ l1 => (s.setLaunch l1).serveAgain
    | _ => s

/-- The map words of some grains, as the device finds them. -/
def deviceKeys (l : Launch) (s : State) (gs : List (Nat × Nat)) : List (Nat × Nat × Nat) :=
  gs.filterMap fun x => (s.vKey l.ctx (mapWord l x.2).toNat).map fun k => (x.1, x.2, k)

/-- COVER.CLAIM of another core takes one of its map words, by the word's index in the map (R249). -/
def takeClaim (id : Nat) (w : Word) (k : Nat) (s : State) : State :=
  match s.otherCore id 0 <|> s.otherCore id 1 with
  | none => s
  | some l =>
    if claimsNone w l then s
    else
      let gs := (tileGrains l.packet l.range.hoist (bits w 0 32)).filter fun x => decide (x.2 / 32 = k)
      (claimGrains (deviceKeys l s gs) l s).2

/-- The running launch whose tuner is another core than this one (R237). -/
def State.otherTuner (s : State) (id : Nat) : Option Launch :=
  ((s.launch? id).bind fun l => s.otherCore id (l.tly * l.w + l.tlx)).filter Launch.tun

/-- HWR of a tuner on another core. -/
def takeHwr (id : Nat) (i : Fin 14) (v : Word) (s : State) : State :=
  match s.otherTuner id with
  | some l => s.setLaunch { l with range := { l.range with pending := l.range.pending.set i v } }
  | none => s

/-- HCOMMIT of a tuner on another core: where it publishes, waiting requests are served again (R257). -/
def takeHcommit (id : Nat) (s : State) : State :=
  match s.otherTuner id with
  | some l => if l.range.commitCode = 0 ∧ s.pri.wake.kind ≠ 34 then (s.setLaunch l.publish).serveAgain else s
  | none => s

/-- COVER.DONE or COVER.YIELD of another core; one that faults changes nothing. -/
def takeMove (id : Nat) (done : Bool) (w m : Word) (s : State) : State :=
  match s.otherCore id 0 <|> s.otherCore id 1 with
  | none => s
  | some l => match l.range.hoistOf (bits w 32 16) with
    | none => s
    | some (h, cur) => match maskGrains l h w m with
      | none => s
      | some gs => ((moveGrains done cur (deviceKeys l s gs) l s).map State.serveAgain).getD s

/-- HINT.SUCC of a thread of another core (R359). -/
def takeHint (id : Nat) (s : State) : State :=
  match s.otherCore id 0 <|> s.otherCore id 1 with
  | some l => if l.succ then s.setLaunch { l with hint := true } else s
  | none => s

/-- Another core arrives at SSTEP. -/
def takeSstep (id i : Nat) (s : State) : State :=
  match s.otherCore id i with
  | some l => if l.exited.contains i || l.atStep.contains i then s else s.setLaunch { l with atStep := i :: l.atStep }
  | none => s

/-- The primary thread of another core ends. -/
def takeEnded (id i : Nat) (s : State) : State :=
  match s.otherCore id i with
  | some l => if l.exited.contains i || l.atStep.contains i then s else s.setLaunch { l with exited := i :: l.exited }
  | none => s

/-- The causes with which a launch may end (R376, R381). -/
def endCause (n : Nat) : Bool := (decide (1 ≤ n) && decide (n ≤ 0x0E)) || decide (n = 0x10) || decide (n = 0x11)

/-- A fault on another core ends the launch, with a cause and an INFO that a status may carry (R356, R376). -/
def takeFault (id cause info : Nat) (s : State) : State :=
  match s.launch? id with
  | some l => if l.resident ∧ endCause cause ∧ info < 2048 then s.killLaunch id cause info else s
  | none => s

/-! ## Messages and handlers (R230, R379, R384, R385) -/

/-- A message reaches this core as a handler of its context's chain. -/
def takeMessage (hc : Fin 4) (m : Msg) (s : State) : State :=
  if s.core.ctx.isSome && (s.handler? s.ctxNo hc.val).any fun p => s.isSelf p.1 p.2 then
    { s with core := { s.core with hq := s.core.hq ++ [m], hqPos := s.core.hqPos ++ [hc.val] } }
  else s

/-- A field of 56 bits replaced. -/
def setLow56 (w a : Word) : Word := BitVec.ofNat 64 (w.toNat / 2 ^ 56 * 2 ^ 56 + a.toNat % 2 ^ 56)

/-- TRET of a handler on another core for a thread of this one: its trap wait ends, or its launch does. Where the
auxiliary thread's work waited as the loader interrupted it, CX.LPC takes the effect (R230), and where it runs a handler itself TRAP.HST
does; a trap wait of the loader's own code ends at NPC as any other (log 125). -/
def takeTret (t : ThreadId) (npc : Word) (finish : Bool) (s : State) : State :=
  let a := setBit npc 0 false
  if finish then match s.core.launch with
    | some id => s.killLaunch id 0x0D (s.statusInfo t)
    | none => s
  else if t = .aux ∧ s.core.hmode then
    if s.core.handlerWake.kind = 16 then
      { s with core := { s.core with handlerWake := Wake.none, trapHst := setLow56 s.core.trapHst a } }
    else s
  else if t = .aux ∧ s.core.lmode ∧ s.core.cxLpc.getLsbD 61 then
    { s with core := { s.core with cxLpc := setLow56 (setBit s.core.cxLpc 61 false) a } }
  else s.setTh t (resumeAt a (s.th t))

/-- JNL.RETRY or JNL.DROP of a handler on another core. -/
def takeJournal (t : ThreadId) (j : Fin 16) (retry : Bool) (s : State) : State :=
  let e := (s.th t).journal[j]
  if e.state ≠ .refused ∨ (s.th t).over then s
  else if retry then resend t j e s
  else s.setEntry t j JEntry.reset

/-! ## Task records and stream controllers (R306, R308) -/

/-- A record that a sequencer of another core runs ends: completed (0), with an error after effects (5), or with an error before
any, after which it is dispatched again. -/
def takeRecordEnd (r : Fin 64) (status : Nat) (s : State) : State :=
  match s.task r.val with
  | none => s
  | some t =>
    if t.away = none then s
    else if status = 0 then match fillFuture t s with
      | .ok s1 => s1.setTask r.val none
      | .error _ => s
    else if status = 5 then failRecord 5 t s
    else if 3 ≤ t.dispatched then failRecord 4 t s
    else s.setTask r.val (some { t with away := none, avoid := t.away })

/-- TT.ENQ of another core of the cluster, for the launch that holds it (R304). -/
def takeEnqueue (w : Vector Word 8) (s : State) : State :=
  match s.freeRecord with
  | some r => if recordOk w ∧ s.core.launch.isSome then s.setTask r (some (newTask w s)) else s
  | none => s

/-- A sequencer of another core of the cluster starts or ends a program of a FORK (R300). -/
def takeFork (d : Fin 4) (q : SeqId) (runs : Bool) (s : State) : State :=
  let l := s.core.forks.filter (· ≠ (d, q))
  if d = s.place ∨ (runs ∧ !s.seqFree d q) then s
  else { s with core := { s.core with forks := if runs then (d, q) :: l else l } }

/-- A subscription of another core opens or closes at a stream controller. -/
def takeStream (c : Fin 32) (opened : Bool) (s : State) : State :=
  { s with streams := s.streams.set c (if opened then s.streams[c] + 1 else s.streams[c] - 1) }

/-! ## Range locks (R293) -/

/-- A command of another core takes a free lock of a bank of the context. -/
def takeLock (k : Lock) (s : State) : State :=
  if k.far ∧ s.corePresent s.ctxNo k.x k.y ∧ !s.coreStopped s.ctxNo k.x k.y ∧ k.bank < 8 ∧ k.slot < 4 ∧ k.lo ≤ k.hi ∧ k.hi < 65536 ∧
      s.core.locks.all fun q => decide (q.x ≠ k.x ∨ q.y ≠ k.y ∨ q.bank ≠ k.bank ∨ q.slot ≠ k.slot) then
    { s with core := { s.core with locks := s.core.locks ++ [k] } }
  else s

/-- A command of another core completes, or is discarded: its locks are free. -/
def takeUnlock (cmd : Nat) (s : State) : State :=
  let stays (k : Lock) : Bool := !k.far || decide (k.cmd ≠ cmd) || s.coreStopped s.ctxNo k.x k.y
  { s with core := { s.core with locks := s.core.locks.filter stays } }

/-- PWR.HINT of another core (R389, R408). -/
def takeHintPower (phys : Nat) (n : Nat) (s : State) : State :=
  if phys = s.core.phys then s else { s with power := { s.power with hints := sput 0 phys n s.power.hints } }

/-! ## Counts (R411, R419) -/

/-- What the other cores of a cluster run counts for the domain of the context that holds it. -/
def State.chargeHolder (s : State) (k w n : Nat) : State :=
  match s.holder k with
  | some c => s.accountCtx c w n
  | none => s

/-- Matrix-cycles of the other cores of a cluster, of one pair: as many as the ramp limiter lets run in the microsecond. -/
def takeMatrixCycles (k pair n : Nat) (s : State) : State :=
  if s.power.stopped.getLsbD k ∨ s.othersRoom k < n then s
  else
    let s1 := s.chargeHolder k (1 + pair) n
    { s1 with power := { s1.power with rampNow := sput 0 k (sget 0 s1.power.rampNow k + n) s1.power.rampNow } }

/-- Vector instructions that the other cores of a cluster commit. -/
def takeVecOps (k n : Nat) (s : State) : State := if s.power.stopped.getLsbD k then s else s.chargeHolder k 6 (64 * n)

/-- What reaches this core or its cluster's task scheduler and sequencers, which do nothing while their clock is stopped (R407). -/
def Outside.reachesCore : Outside → Bool
  | .parcel .. | .leaderJoin | .logConsumed _ | .message .. | .tret .. | .retry .. | .drop .. | .enqueue _ | .fork .. | .recordEnd ..
  | .scrErr .. | .scrClear => true
  | _ => false

/-- What the rest of the device does. -/
def outside (o : Outside) (s : State) : State :=
  match o with
  | .parcel pc p q => takeParcel pc p q s
  | .leaderJoin => takeLeaderJoin s
  | .logConsumed n => useLog n s
  | .write k b => if s.reaches k b.length true then cleanWhole (s.setBytes k b) k b.length else s
  | .atomic k n op v cmp => takeAtomic k n op v cmp s
  | .tagWrite k v => if s.reaches k 8 true ∧ k % 8 = 0 then ((s.setWord k v).setPoison k false).setTag k true else s
  | .tagSet k full => if s.reaches k 8 true ∧ k % 8 = 0 then s.setTag k full else s
  | .line k a op => takeLine k a op s
  | .gather k => s.setLine k { s.line k with gather := true }
  | .packet x y p => takeSent x y p s
  | .taskNext id i => takeTaskNext id i s
  | .claim id w k => takeClaim id w k s
  | .hwr id i v => takeHwr id i v s
  | .hcommit id => takeHcommit id s
  | .move id done w m => takeMove id done w m s
  | .hint id => takeHint id s
  | .sstep id i => takeSstep id i s
  | .ended id i => takeEnded id i s
  | .fault id c info => takeFault id c info s
  | .message hc m => takeMessage hc m s
  | .tret t npc finish => takeTret t npc finish s
  | .retry t j => takeJournal t j true s
  | .drop t j => takeJournal t j false s
  | .enqueue w => takeEnqueue w s
  | .fork d q runs => takeFork d q runs s
  | .recordEnd r status => takeRecordEnd r status s
  | .stream c opened => takeStream c opened s
  | .lock k => takeLock k s
  | .unlock cmd => takeUnlock cmd s
  | .pwrHint phys n => takeHintPower phys n.val s
  | .matrixCycles k pair n => takeMatrixCycles k.val pair.val n s
  | .vecOps k n => takeVecOps k.val n s
  | .scrErr c a => s.noteRange c.val a
  | .scrClear => { s with core := { s.core with scrErr := 0 } }
  | .defect spare n => { s with mgmt := { s.mgmt with defects := s.mgmt.defects ++ [(spare, n)] } }

end Sys2Proof.Machine
end

