-- ==== Sys2Proof/Machine/Auto.lean ====
section
/-! DEFINITION. What a step does around the meaning of an instruction: which events are due by themselves, which thread
issues, its fetch, and the advance of counters and clocks (log 4, log 6, log 8). -/

namespace Sys2Proof.Machine

/-! ## Events -/

/-- A row of the table that is an event of a unit or of the outside world, not an instruction of a thread. -/
def isEvent (i : Instr) : Bool :=
  match i with
  | .issue | .dispatch .. | .completionInject .. | .completionAccept .. | .commit | .trapDelivery .. | .kill ..
  | .outcomeRecordArrival .. | .performMarkArrival | .parityError | .storePerformed .. | .instructionFetch ..
  | .tagWaiterWake .. | .pageWaitPark .. | .faultReply .. | .postedStoreAck .. | .postedStoreRefusal ..
  | .l1Eviction .. | .eventLineService .. | .chainedArrival .. | .chainCompletionMessage .. | .eventOpReturn ..
  | .matrixCommandStart | .matrixCommandComplete | .copyCommandStart | .copyCommandComplete | .sequencerStep ..
  | .rangeLockReissue .. | .taskRecordDispatch .. | .datapathErrorReplay .. | .slotFillStart .. | .slotFilled ..
  | .slotWriteoutDone .. | .taskRequestReserve | .barrierTreeComplete | .exchangeTransferBegin .. | .exchangeStepEnd
  | .routerPacket .. | .channelDelivery .. | .shootdownBlocked .. | .shootdownConfirmed .. | .coreWakeTlbFlush
  | .stopPoint .. | .handlerEntry | .handlerFault .. | .queueLaunchPacket .. | .queueLoadPacket ..
  | .queueUnloadPacket .. | .queueWaitPacket .. | .waitPacketEnd .. | .queueFillPacket .. | .queueBarrierPacket ..
  | .launchStart .. | .launchEnd .. | .linkTaggedWrite .. | .linkAccess .. | .peerAmo .. | .linkAck ..
  | .class0PreemptRequest .. | .threadStop .. | .saveComplete .. | .saveWatchdogExpiry .. | .attach | .run | .preempt
  | .resume | .detach | .warm | .cold | .updOpen | .updWrite | .updActivate | .svnCommit | .logRead | .repairList
  | .measExtend | .mgCtxbaseWrite .. | .rsvLendWrite .. | .shareWrite .. | .rampWrite .. | .acctClr ..
  | .registerWrite .. | .getVersion | .getCapabilities | .negotiateAlgorithms .. | .getCertificate .. | .challenge ..
  | .getMeasurements .. | .chunkGet .. | .powerOn | .kararlinkHotReset | .startStepComplete | .startStepTimeout
  | .standbyPowerLoss | .correctedError .. | .uncorrectableError .. | .codeLineError .. | .patrolScrub ..
  | .railChange .. | .clockRestart .. | .droopDetect .. | .droopPass .. | .rampMicrosecond .. | .energyAttribution ..
  | .leaseReceipt .. | .leaseExpiry | .powerCapControl .. | .stackDerateEnter .. | .stackDerateExit ..
  | .linkLevelRetry | .linkDown .. => true
  | _ => false

/-- An event of this core or its cluster, which stands still with the cluster's clock (R407). -/
def isCoreEvent (i : Instr) : Bool :=
  match i with
  | .issue | .dispatch .. | .completionInject .. | .completionAccept .. | .commit | .trapDelivery .. | .kill ..
  | .outcomeRecordArrival .. | .performMarkArrival | .parityError | .storePerformed .. | .instructionFetch ..
  | .tagWaiterWake .. | .pageWaitPark .. | .faultReply .. | .l1Eviction .. | .eventOpReturn ..
  | .matrixCommandStart | .matrixCommandComplete | .copyCommandStart | .copyCommandComplete | .sequencerStep ..
  | .rangeLockReissue .. | .taskRecordDispatch .. | .datapathErrorReplay .. | .slotFillStart .. | .slotFilled ..
  | .slotWriteoutDone .. | .taskRequestReserve | .channelDelivery .. | .stopPoint .. | .handlerEntry
  | .handlerFault .. | .threadStop .. | .postedStoreAck .. | .postedStoreRefusal .. | .linkAck .. => true
  | _ => false

/-- The core does nothing: its clock is stopped, a machine check has stopped it or its cluster has halted, or the device
starts or is off (R380, R407, R431, R439). -/
def State.stands (s : State) : Bool :=
  s.core.dead || s.clusterHalted (clusterOf s.core.phys) || s.power.stopped.getLsbD (clusterOf s.core.phys) || s.mgmt.starting || !s.mgmt.powered

/-- The event line that a row of the table works on. -/
def lineOf (i : Instr) : Option Nat :=
  match i with
  | .eventLineService k => some k
  | .chainedArrival k _ _ => some k
  | .chainCompletionMessage k => some k
  | _ => none

/-- The event unit of a line's cluster does nothing: its clock is stopped or it has halted, or the device starts (R380, R407). -/
def State.lineStands (s : State) (k : Nat) : Bool :=
  let phys := s.physAt (k / 16384) (2 * (k / 64 % 16)) (2 * (k / 1024 % 16))
  s.clusterHalted (clusterOf phys) || s.power.stopped.getLsbD (clusterOf phys) || s.mgmt.starting

/-- A row of the table as an event: without power only POWER_ON acts, and a core or an event unit that stands does nothing. A row that is
no event has no place there. -/
def takeRow (e : Instr) (s : State) : Host.Outcome State Fault Refusal :=
  if !isEvent e || (!s.mgmt.powered && decide (e ≠ .powerOn)) || (isCoreEvent e && s.stands) || (lineOf e).any s.lineStands then .next s
  else exec e s

/-- An event (log 6): a row of the table, or what the rest of the device does, which is nothing without power or in a start, and reaches no
core whose clock is stopped (R407). -/
def takeEvent (e : Event) (s : State) : Host.Outcome State Fault Refusal :=
  match e with
  | .row i => takeRow i s
  | .out o => .next (if s.mgmt.powered && !s.mgmt.starting && !(o.reachesCore && s.clockStopped) then outside o s else s)

/-! ## What is due by itself -/

/-- The event that an entry of a thread's commit window waits for. -/
def dueEntry (t : ThreadId) (head : Bool) (e : WEntry) : List Instr :=
  match e.stage, e.comp with
  | .window, .trap .. => if head then [.trapDelivery t] else []
  | .window, _ => if head then [.commit] else []
  | .completion, _ => if e.pos = 0 then [.completionAccept t e.tag] else []
  | .buffer, _ => []
  | .track, _ => [.completionInject t e.tag]
  | .lane, _ => [.dispatch t e.tag]

/-- A commit head that waits. -/
def Thread.headWaits (x : Thread) : Bool := decide (x.wake.kind ≠ 0)

/-- The next events of a thread's commit window: a raised kill, the performing of its oldest committed store, then the
events of its entries, the oldest first. -/
def dueWindow (t : ThreadId) (s : State) : List Instr :=
  let x := s.th t
  List.flatten [
    (match x.raised with
      | some (b, _) => [.kill t b]
      | none => []),
    (if x.stq = [] then [] else [.storePerformed t]),
    (match x.window with
      | e :: l => List.append (if x.headWaits then [] else dueEntry t true e) (l.flatMap (dueEntry t false))
      | [] => [])]

/-- A commit head that waits is injected again once something has happened. -/
def dueRetry (t : ThreadId) (s : State) : List Instr :=
  let x := s.th t
  match x.window with
  | e :: _ => if x.headWaits && (x.retry || decide (x.wake.kind = 34)) then dueEntry t true e else []
  | [] => []

/-- The journal entries whose answer is due. -/
def dueJournal (t : ThreadId) (s : State) : List Instr :=
  ((List.finRange 16).filter fun j => decide ((s.th t).journal[j].state = .posted)).map fun j =>
    if s.entryRefused (s.th t).journal[j].addr then .postedStoreRefusal t j else .postedStoreAck t j

/-- What is due for a thread's waits. -/
def dueThread (t : ThreadId) (s : State) : List Instr :=
  let x := s.th t
  List.flatten [
    (if !x.retry && tagReady t s then [.tagWaiterWake t] else []),
    (if x.wake.kind = 12 ∧ !x.wake.done then [.pageWaitPark t] else []),
    (if x.wake.kind = 12 ∧ x.wake.done then [.faultReply t] else []),
    (if x.wake.kind = 32 ∧ x.wake.aux = 1 then [.eventOpReturn t] else []),
    (if x.run = .lockWait then [.rangeLockReissue t] else []), dueJournal t s,
    (if x.unacked = 0 then [] else [.linkAck t]),
    (if x.refused = [] ∧ !(decide (t = .aux) && s.core.loaderWanted) then [] else [.stopPoint t]),
    (if s.saving then [.threadStop t] else [])]

/-- What is due in the engines, sequencers, stream controllers and channels of the core. -/
def dueUnits (s : State) : List Instr :=
  List.flatten [
    (if s.core.mat.running.isSome then [.matrixCommandComplete] else if s.core.mat.queue = [] then [] else [.matrixCommandStart]),
    (if s.core.cpy.running.isSome then [.copyCommandComplete, .copyCommandStart]
      else if s.core.cpy.queue = [] then [] else [.copyCommandStart]),
    (if s.core.mseq.running then [.sequencerStep .matrix] else []),
    (if s.core.cseq.running then [.sequencerStep .copy] else []),
    (if s.tasks = [] then [] else ((List.finRange 64).filter fun r => s.dispatchable r.val).map .taskRecordDispatch),
    ((List.finRange 8).flatMap fun e => match s.core.subs[e] with
      | some u => ((List.finRange 64).filter fun k => decide (k.val < u.slots.length)).flatMap fun k =>
          [.slotFillStart e k, .slotFilled e k, .slotWriteoutDone e k]
      | none => []),
    ((List.finRange 64).flatMap fun c => match s.core.chans[c].stopped with
      | v :: _ => [.channelDelivery c v]
      | [] => []),
    (if s.core.hq = [] then [] else [.handlerEntry]), (if s.pri.wake.kind = 10 then [.taskRequestReserve] else [])]

/-- What is due in the event unit and the fabric. -/
def dueFabric (s : State) : List Instr :=
  List.flatten [
    (match s.flight with
      | .arrival p c d :: _ => [.chainedArrival p c d]
      | .completion c :: _ => [.chainCompletionMessage c]
      | [] => []),
    (s.lines.filterMap fun p => if p.2.inbox = [] ∧ p.2.ops = [] ∧ !p.2.gather then none else some (.eventLineService p.1)),
    (s.fabric.map fun f => .routerPacket f.x f.y f.port f.packet)]

/-- What is due for launches, queues, contexts and shoot-downs. -/
def dueDevice (s : State) : List Instr :=
  List.flatten [
    (if s.launches.any fun l => l.arrived || decide (l.atStep ≠ []) then [.barrierTreeComplete] else []),
    ((s.runLaunch.bind Launch.exch).elim [] fun x =>
      ((List.range (s.runLaunch.elim 0 fun l => (s.planEntries l x.plan).length)).map .exchangeTransferBegin) ++
        [.exchangeStepEnd]),
    (s.launches.filterMap fun l => if s.mayStart l then some (.launchStart l.id)
      else if s.mayEnd l then some (.launchEnd l.id) else none),
    (s.ctxs.flatMap fun p => ((List.finRange 64).filter fun q => (s.posted p.1 q.val).any fun w =>
        s.mayTake p.1 q.val w.1 w.2.2).flatMap fun q =>
      let c := Fin.ofNat 4096 p.1
      [.queueLaunchPacket c q, .queueLoadPacket c q, .queueUnloadPacket c q, .queueWaitPacket c q, .queueFillPacket c q,
        .queueBarrierPacket c q]),
    (s.queues.filterMap fun p => if p.2.waiting.isSome then
      some (.waitPacketEnd (Fin.ofNat 4096 (p.1 / 64)) (Fin.ofNat 64 p.1)) else none),
    (s.ctxs.flatMap fun p => let c := Fin.ofNat 4096 p.1
      if p.2.state = .saving then [.saveComplete c] else if p.2.wanted then [] else [.class0PreemptRequest c]),
    ((List.finRange 4).flatMap fun i => if s.shoots[i].isSome then [.shootdownBlocked i, .shootdownConfirmed i] else []),
    (if s.core.asleep && !s.power.stopped.getLsbD (clusterOf s.core.phys) then [.coreWakeTlbFlush] else [])]

/-- The management command whose CODE stands with GO set. -/
def dueCommand (s : State) : List Instr :=
  if !s.mgmt.go then []
  else match s.mgmt.code.toNat with
    | 0x01 => [.attach]
    | 0x02 => [.run]
    | 0x03 => [.preempt]
    | 0x04 => [.resume]
    | 0x05 => [.detach]
    | 0x10 => [.warm]
    | 0x11 => [.cold]
    | 0x20 => [.updOpen]
    | 0x21 => [.updWrite]
    | 0x22 => [.updActivate]
    | 0x23 => [.svnCommit]
    | 0x30 => [.logRead]
    | 0x31 => [.repairList]
    | 0x32 => [.measExtend]
    | _ => []

/-- What is due on this core: the windows before the units, or after them, in turn (log 8). -/
def dueCore (s : State) : List Instr :=
  let u := List.append (dueThread .pri s) (List.append (dueThread .aux s) (dueUnits s))
  if s.turn then List.append u (List.append (dueWindow .aux s) (dueWindow .pri s))
  else List.append (dueWindow .pri s) (List.append (dueWindow .aux s) u)

/-- The running matrix command waits for matrix-cycles that the ramp limiter gives it in later microseconds (R411). -/
def State.dueRamp (s : State) : List Instr :=
  if s.core.mat.running.isSome && decide (s.rampRoom < s.power.rampOwed) then [.rampMicrosecond (Fin.ofNat 256 s.myCluster)] else []

/-- The rail changes that are due (R407, R408): on clusters that a launch holds or that are reserved, and on those whose rail or clock is
not the low one. -/
def State.dueRails (s : State) : List Instr :=
  if s.launches = [] ∧ s.power.rails = 0 ∧ s.power.clocks = 0 ∧ s.power.rsv.toList.all (· = 0) then []
  else ((List.finRange 256).filter fun k =>
      let high := s.railTarget k.val
      decide (s.power.rails.getLsbD k.val ≠ high) || decide (s.power.clocks.getLsbD k.val ≠ high)).map fun k =>
    .railChange k (s.railTarget k.val)

/-- Every event that may be due, in the order in which the model serves them (log 8). -/
def candidates (s : State) : List Instr :=
  if !s.mgmt.powered then []
  else if s.mgmt.starting then List.append (dueCommand s) [.startStepComplete]
  else
    List.flatten [
      dueCommand s,
      (if s.power.active ∧ s.power.expiry ≤ s.power.ref.toNat then [.leaseExpiry] else []),
      (if s.power.stopped = 0 then [] else ((List.finRange 256).filter fun k => s.power.stopped.getLsbD k.val).map .clockRestart),
      dueFabric s, dueDevice s,
      (if s.stands then [] else List.append (dueCore s) (List.append (dueRetry .pri s) (dueRetry .aux s))),
      (if s.stands || (decide (s.pri.window = []) && decide (s.aux.window = [])) then [] else [.issue]), s.dueRails, s.dueRamp]

/-- An event that changes something now. -/
def moves (s : State) (e : Instr) : Bool :=
  match takeRow e s with
  | .next t => decide (t ≠ s)
  | _ => true

/-- The event that happens by itself now. -/
def auto (s : State) : Option Instr := (candidates s).find? (moves s)

/-! ## Threads -/

/-- A thread whose instruction can be performed now, outside the window (log 3), and that is not to be stopped first (R378).
A leader's wait at JOIN ends by its followers' own doing (log 25). -/
def State.runnable (s : State) (t : ThreadId) : Bool :=
  let x := s.th t
  decide (x.run = .running) && !x.stopped && !x.unsettled && decide (s.entries = []) && decide (x.stq = []) && !s.stands &&
    decide (s.ctxState s.ctxNo ≠ .halted) &&
    !s.mustStop t && !(x.wake.unissued && s.starves t) &&
    (decide (x.wake.kind = 0) || x.retry || decide (x.wake.kind = 34) ||
      (decide (x.wake.kind = 17) && !x.wake.unissued && decide (s.core.slave.role = .leader)))

/-- The instruction has completed and was not discarded. -/
def committed (before after : State) : Bool :=
  let x := after.th before.cur
  decide (x.run = .running) && decide (x.wake.kind = 0) && decide (after.core.lmode = before.core.lmode)

/-- What follows a committed instruction: the accounting (R419), and in an attached follower the next forwarded one (R49). -/
def charge (i : Instr) (before : State) (o : Host.Outcome State Fault Refusal) : Host.Outcome State Fault Refusal :=
  match o with
  | .next t => .next (if committed before t then (chargeVec i t).popFwd else t)
  | o => o

/-- The instruction of the performing thread: fetched, then performed; or the trap or wait of its fetch. A new instruction, and one
that is issued again after a stop (R47), is issued once it is fetched (R22, R24, R59), and a leader forwards one that it has not
issued before (R49); one that waited is performed again under its own tag. -/
def performNext (s : State) : Host.Outcome State Fault Refusal :=
  let new := s.me.fresh || s.me.anew
  let issue (u : State) : State := if new then u.newTag else u
  match threadFetch (if new then s.setMe { s.me with pc := s.issuePc s.pc } else s) with
  | .ok (i, s1) =>
    if s1.logFull i then .next (parkThread s1.starveWake s1)
    else
      let s2 := if s.me.fresh then (issue s1).forwardParcels i else issue s1
      charge i s2 (exec i s2)
  | .error (.trap c a j s1) => .next (takeTrap c a j (issue s1))
  | .error (.park w s1) => .next (parkThread w s1)
  | .error (.fault f) => .fault f

/-! ## Clocks, counters and waits -/

/-- A waiting thread may try again: something has happened. Page waits and tag waits end by events of their own. -/
def Thread.awaken (t : Thread) : Thread :=
  { t with retry := t.retry || decide (t.wake.kind ∉ [0, 4, 5, 6, 12]) }

def awakenOther (t : ThreadId) (s : State) : State :=
  match t with
  | .pri => { s with aux := s.aux.awaken }
  | .aux => { s with pri := s.pri.awaken }

def awakenBoth (s : State) : State := { s with pri := s.pri.awaken, aux := s.aux.awaken }

/-- A free amount of time or of counted events in a step (log 4). -/
def amount (n : Nat) : Nat := (Config.freeValue n).toNat % 2 ^ 48

/-- The counters of a core whose clock runs (R409, R410). -/
def Core.tick (c : Core) (n : Nat) (ref : Word) (stretched : Bool) : Core :=
  let c1 := { c with cycle := c.cycle + BitVec.ofNat 64 (amount n), time := ref }
  if stretched then c1.stretch (amount n) else c1

/-- Time passes in a step from b to s: the reference count advances, and with standby power the standby seconds (R434), and so do the
counters of this core, unless its clock is stopped, and CORE.CYC of the domains whose launches hold clusters (R419). -/
def tick (b s : State) : State :=
  let n := s.freeCtr
  let ref := s.power.ref + BitVec.ofNat 64 (amount (n + 1))
  let s1 := { s with
    power := { s.power with ref := ref }
    mgmt := { s.mgmt with standby := if s.mgmt.standbyPower then s.mgmt.standby + amount (n + 2) else s.mgmt.standby }
    core := if s.clockStopped then s.core else s.core.tick n ref (s.power.stretching.getLsbD s.myCluster)
    freeCtr := n + 3 }
  if b.launches = [] ∧ s.launches = [] then s1 else chargeCycles (amount n) (countedClusters b s) s1

/-- What every step leaves in order: fault records that waited for room are posted (R396), and the L1 keeps within its size
(R14). -/
def State.settled (s : State) : State := s.postLate.trimL1

/-- The outcome of a step from b, with what it changes in passing. -/
def passing (b : State) (f : State → State) (o : Host.Outcome State Fault Refusal) : Host.Outcome State Fault Refusal :=
  match o with
  | .next t => .next (tick b (f t).settled)
  | o => o

/-! ## The three kinds of step -/

/-- Waits are tested again after an event; a wait that has just been tested, only after another one. -/
def awakenAfter (e : Event) (s : State) : State :=
  match e with
  | .row (.completionInject t _) => awakenOther t s
  | _ => awakenBoth s

/-- An event, from the agenda or due by itself. -/
def eventStep (e : Event) (s : State) : Host.Outcome State Fault Refusal := passing s (awakenAfter e) (takeEvent e s)

/-- An instruction of a thread, or the wait of one that has nothing to issue (R52). -/
def threadStep (t : ThreadId) (s : State) : Host.Outcome State Fault Refusal :=
  passing s (awakenOther t)
    (if s.starves t then .next (starve { s with turn := true })
    else performNext { s with turn := true, cur := t })

/-- A step without an event from outside: threads and events due by themselves alternate (log 8). -/
def ownStep (s : State) : Host.Outcome State Fault Refusal :=
  if s.turn then
    match auto s, pickThread s s.runnable with
    | some e, _ => eventStep (.row e) { s with turn := false }
    | none, some t => threadStep t s
    | none, none => .next (tick s { s with turn := false })
  else
    match pickThread s s.runnable with
    | some t => threadStep t s
    | none => match auto s with
      | some e => eventStep (.row e) { s with turn := true }
      | none => .next (tick s s)

/-! ## A program in place (log 5) -/

/-- The address at which an instruction is placed, and the physical address its page maps to. -/
def placeVa : Nat := 0x1000000
def placePa : Nat := 0x100000

/-- The state in which the next step fetches some bytes: a started device, a running primary thread without a launch,
whose instruction TLB maps its page to HBM that holds them, and nothing else due. -/
def State.placed (s : State) (b : List Byte) : State :=
  let c := s.core.ctx.getD 0
  let e : TlbEntry := ⟨c, placeVa, 65536, placePa, 0, 0, false, false, true, false, true⟩
  let s1 := { s with
    pri := { s.pri with
      pc := BitVec.ofNat 64 placeVa, run := .running, wake := Wake.none, retry := false, reply := none, stopped := false
      window := [], stq := [], hold := false, raised := none }
    aux := { s.aux with run := .noWork }
    turn := false
    auxIdle := 0
    agenda := []
    shoots := Vector.replicate 4 none
    ctxs := s.ctxs.filter fun p => decide (p.1 ≠ c)
    poison := sclear (placePa / 8) (placePa / 8 + 8) s.poison
    mgmt := { s.mgmt with powered := true, starting := false, last := 11, ready := true }
    power := { s.power with stopped := 0 }
    core := { s.core with
      ctx := some c, launch := none, dead := false
      itlb := e :: s.core.itlb, icache := s.core.icache.filter (·.1 ≠ placePa / 64), badLines := s.core.badLines.filter (· ≠ placePa / 64)
      slave := Slaving.reset } }
  s1.setBytes placePa b

end Sys2Proof.Machine
end

