-- ==== Sys2Proof/Certificates/Slice0/Obligations.lean ====
section
/-! DEFINITION. The statements about the model. Those of the spec's rules cite them; what the model chose is said to be so. -/

namespace Sys2Proof.Spec

open Sys2Proof.Machine

/-! ## Scalar values (R117, R120) -/

/-- The low W bits of a value, sign-extended to 64 (R120: what a `.w` form writes and what its signed operations read). -/
def sx (w : Bool) (x : Word) : Word := if w then (x.truncate 32).signExtend 64 else x

/-- The low W bits of a value, zero-extended to 64. -/
def zx (w : Bool) (x : Word) : Word := if w then (x.truncate 32).zeroExtend 64 else x

/-- The width of an operation (R120). -/
def width (w : Bool) : Nat := if w then 32 else 64

/-- A condition of R129. -/
def taken (c : Cond) (a b : Word) : Prop :=
  match c with
  | .eq => a = b
  | .ne => a ≠ b
  | .lt => a.toInt < b.toInt
  | .ge => b.toInt ≤ a.toInt
  | .ltu => a < b
  | .geu => b ≤ a

/-! ## What a step leaves alone -/

/-- Nothing but the performing thread differs between two states: memory, tags, poison, the core's units, the other
thread and the device are the same. -/
def OnlyMe (s t : State) : Prop := t = s.setMe t.me

/-- Every byte of memory, every tag and every poison mark reads as before. -/
def SameMemory (s t : State) : Prop :=
  (∀ k, t.byte k = s.byte k) ∧ (∀ k, t.tag k = s.tag k) ∧ (∀ k, t.poisoned k = s.poisoned k)

/-- The performing thread's scalar registers but d, its extension registers but n, and its vector registers, masks,
floating-point flags and journal are as before. -/
def KeepsThread (d : Option (Fin 32)) (n : Option (Fin 8)) (s t : State) : Prop :=
  (∀ r, some r ≠ d → t.reg r = s.reg r) ∧ (∀ m, some m ≠ n → t.xreg m = s.xreg m) ∧
    (∀ r : Fin 16, t.me.v[r].val = s.me.v[r].val) ∧ (∀ r : Fin 8, t.me.m[r].val = s.me.m[r].val) ∧
    t.me.fpFlags = s.me.fpFlags ∧ t.me.journal = s.me.journal

end Sys2Proof.Spec

open Sys2Proof Sys2Proof.Machine Sys2Proof.Spec

/-! ## Scalar instructions -/

/-- R121 with R117 and R120: ADD, SUB, AND, OR, XOR and ANDN complete with their result, for both widths and every source. -/
def Sys2Proof.Spec.Arithmetic : Prop :=
  ∀ (w : Bool) (d : Fin 32) (a b : Src) (s : State),
    exec (.add w d a b) s = .next (s.ret d (sx w (s.src a + s.src b))) ∧
    exec (.sub w d a b) s = .next (s.ret d (sx w (s.src a - s.src b))) ∧
    exec (.and w d a b) s = .next (s.ret d (sx w (s.src a &&& s.src b))) ∧
    exec (.or w d a b) s = .next (s.ret d (sx w (s.src a ||| s.src b))) ∧
    exec (.xor w d a b) s = .next (s.ret d (sx w (s.src a ^^^ s.src b))) ∧
    exec (.andn w d a b) s = .next (s.ret d (sx w (s.src a &&& ~~~s.src b)))

/-- R121: SHL, SHR and SAR take the whole second source as their count; W or more shifts every bit out. -/
def Sys2Proof.Spec.Shifts : Prop :=
  ∀ (w : Bool) (d : Fin 32) (a b : Src) (s : State),
    exec (.shl w d a b) s = .next (s.ret d
      (if width w ≤ (zx w (s.src b)).toNat then 0 else sx w (s.src a <<< (zx w (s.src b)).toNat))) ∧
    exec (.shr w d a b) s = .next (s.ret d
      (if width w ≤ (zx w (s.src b)).toNat then 0 else sx w (zx w (s.src a) >>> (zx w (s.src b)).toNat))) ∧
    exec (.sar w d a b) s = .next (s.ret d
      ((sx w (s.src a)).sshiftRight (min (zx w (s.src b)).toNat (width w - 1))))

/-- R121: the minima, maxima and comparisons, signed and unsigned, on the W-bit values. -/
def Sys2Proof.Spec.Comparisons : Prop :=
  ∀ (w : Bool) (d : Fin 32) (a b : Src) (s : State),
    let x := s.src a
    let y := s.src b
    exec (.min w d a b) s = .next (s.ret d (if (sx w x).toInt ≤ (sx w y).toInt then sx w x else sx w y)) ∧
    exec (.max w d a b) s = .next (s.ret d (if (sx w x).toInt ≤ (sx w y).toInt then sx w y else sx w x)) ∧
    exec (.minu w d a b) s = .next (s.ret d (if zx w x ≤ zx w y then sx w x else sx w y)) ∧
    exec (.maxu w d a b) s = .next (s.ret d (if zx w x ≤ zx w y then sx w y else sx w x)) ∧
    exec (.slt w d a b) s = .next (s.ret d (if (sx w x).toInt < (sx w y).toInt then 1 else 0)) ∧
    exec (.sltu w d a b) s = .next (s.ret d (if zx w x < zx w y then 1 else 0)) ∧
    exec (.seq w d a b) s = .next (s.ret d (if zx w x = zx w y then 1 else 0))

/-- R122: CLZ, CTZ and POPC give the numbers of leading zeros, trailing zeros and ones of the W-bit value; SEXT and ZEXT
keep bit p and below; SEL chooses by x4; MOV copies all 64 bits. -/
def Sys2Proof.Spec.BitOperations : Prop :=
  ∀ (w : Bool) (d : Fin 32) (a b : Src) (s : State),
    let v := (zx w (s.src a)).toNat
    let p := (s.src b).toNat % width w
    (∃ n, exec (.clz w d a) s = .next (s.ret d (BitVec.ofNat 64 n)) ∧
      (v = 0 → n = width w) ∧ (v ≠ 0 → n < width w ∧ 2 ^ (width w - 1 - n) ≤ v ∧ v < 2 ^ (width w - n))) ∧
    (∃ n, exec (.ctz w d a) s = .next (s.ret d (BitVec.ofNat 64 n)) ∧
      (v = 0 → n = width w) ∧ (v ≠ 0 → n < width w ∧ v % 2 ^ n = 0 ∧ v / 2 ^ n % 2 = 1)) ∧
    exec (.popc w d a) s =
      .next (s.ret d (BitVec.ofNat 64 ((List.range (width w)).countP fun i => v.testBit i))) ∧
    (∃ r : Word, exec (.sext w d a b) s = .next (s.ret d r) ∧ ∀ i < 64, r.getLsbD i = (s.src a).getLsbD (min i p)) ∧
    (∃ r : Word, exec (.zext w d a b) s = .next (s.ret d r) ∧
      ∀ i < 64, r.getLsbD i = (decide (min i (width w - 1) ≤ p) && (s.src a).getLsbD (min i (width w - 1)))) ∧
    exec (.sel w d a b) s = .next (s.ret d (if zx w (s.xreg 4) ≠ 0 then sx w (s.src a) else sx w (s.src b))) ∧
    exec (.mov d a) s = .next (s.ret d (s.src a))

/-- R117, R120 to R122: every integer ALU instruction completes with the result of its rule, at both widths. -/
def Obligations.ScalarAlu : Prop := Spec.Arithmetic ∧ Spec.Shifts ∧ Spec.Comparisons ∧ Spec.BitOperations

/-- R123: the products and quotients, with a zero divisor and the overflowing quotient. -/
def Obligations.ScalarMultiplyDivide : Prop :=
  ∀ (w : Bool) (d : Fin 32) (a b : Src) (s : State),
    let x := s.src a
    let y := s.src b
    let wraps := sx w x = -(1 <<< (width w - 1)) ∧ sx w y = -1
    exec (.mul w d a b) s = .next (s.ret d (sx w (x * y))) ∧
    exec (.mulh w d a b) s =
      .next (s.ret d (BitVec.ofInt 64 ((sx w x).toInt * (sx w y).toInt / 2 ^ width w))) ∧
    exec (.mulhu w d a b) s =
      .next (s.ret d (sx w (BitVec.ofNat 64 ((zx w x).toNat * (zx w y).toNat / 2 ^ width w)))) ∧
    exec (.div w d a b) s = .next (s.ret d
      (if zx w y = 0 then -1 else if wraps then sx w x else BitVec.ofInt 64 ((sx w x).toInt.tdiv (sx w y).toInt))) ∧
    exec (.rem w d a b) s = .next (s.ret d
      (if zx w y = 0 then sx w x else if wraps then 0 else BitVec.ofInt 64 ((sx w x).toInt.tmod (sx w y).toInt))) ∧
    exec (.divu w d a b) s = .next (s.ret d (if zx w y = 0 then -1 else sx w (zx w x / zx w y))) ∧
    exec (.remu w d a b) s = .next (s.ret d (if zx w y = 0 then sx w x else sx w (zx w x % zx w y)))

/-- R125 to R128: constants, extension registers and addresses. -/
def Obligations.ScalarConstants : Prop :=
  ∀ (d b : Fin 32) (n : Fin 8) (imm : BitVec 16) (a c : Src) (off : BitVec 11) (sc : Fin 4) (s : State),
    exec (.li d imm) s = .next (s.ret d (imm.signExtend 64)) ∧
    exec (.lix n imm) s = .next ((s.setXreg n (imm.signExtend 64)).advance 4) ∧
    exec (.lxh n imm) s = .next ((s.setXreg n ((s.xreg n <<< 16) ||| imm.zeroExtend 64)).advance 4) ∧
    exec (.movxFromX d n) s = .next (s.ret d (s.xreg n)) ∧
    exec (.movxToX n a) s = .next ((s.setXreg n (s.src a)).advance 4) ∧
    exec (.saddr d a c) s = .next (s.ret d
      (0x00F0000000000000 ||| ((s.src a >>> 8) &&& 31) <<< 24 ||| (s.src a &&& 31) <<< 19 ||| s.src c &&& 0x7FFFF)) ∧
    exec (.lea d b off sc) s = .next (s.ret d (s.reg b + off.signExtend 64 <<< sc.val))

/-- R129 to R131 and R133, outside a slaved group (R50): where a branch or jump goes and what it links. Nothing but the
performing thread changes, and of it only the registers named. -/
def Sys2Proof.Spec.BranchesAndJumps : Prop :=
  ∀ (c : Cond) (s1 s2 d : Fin 32) (h : Bool) (off : BitVec 10) (far : BitVec 24) (s : State),
    s.attached = false → s.leads = false →
    (∃ t, exec (.b c s1 s2 h off) s = .next t ∧ KeepsThread none none s t ∧ SameMemory s t ∧
      (taken c (s.reg s1) (s.reg s2) → t.pc = s.pc + off.signExtend 64 <<< 1) ∧
      (¬ taken c (s.reg s1) (s.reg s2) → t.pc = s.pc + 4)) ∧
    (∃ t, exec (.bsplit c s1 s2 h off) s = .next t ∧ KeepsThread none none s t ∧ SameMemory s t ∧
      (taken c (s.reg s1) (s.reg s2) → t.pc = s.pc + off.signExtend 64 <<< 1) ∧
      (¬ taken c (s.reg s1) (s.reg s2) → t.pc = s.pc + 4)) ∧
    (∃ t, exec (.loop d off) s = .next t ∧ KeepsThread (some d) none s t ∧ SameMemory s t ∧
      (d ≠ 0 → t.reg d = s.reg d - 1) ∧
      (s.reg d - 1 ≠ 0 → t.pc = s.pc + off.signExtend 64 <<< 1) ∧ (s.reg d - 1 = 0 → t.pc = s.pc + 4)) ∧
    exec (.j far) s = .next (s.goto (s.pc + far.signExtend 64 <<< 1)) ∧
    exec (.jal far) s = .next ((s.setReg 31 (s.pc + 4)).goto (s.pc + far.signExtend 64 <<< 1)) ∧
    exec (.jr d s1) s = .next ((s.setReg d (s.pc + 4)).goto (s.reg s1 &&& ~~~1))

/-- R108: a compact form has the effect of the instruction it stands for, and the next one lies two bytes on. -/
def Obligations.CompactForms : Prop :=
  ∀ (d r : Fin 16) (i : BitVec 7) (off : BitVec 7) (far : BitVec 11) (s : State), s.attached = false →
    (∃ t, exec (.cBeqz r off) s = .next t ∧ KeepsThread none none s t ∧
      t.pc = (if s.reg (low32 r) = 0 then s.pc + off.signExtend 64 <<< 1 else s.pc + 2)) ∧
    (∃ t, exec (.cBnez r off) s = .next t ∧ KeepsThread none none s t ∧
      t.pc = (if s.reg (low32 r) = 0 then s.pc + 2 else s.pc + off.signExtend 64 <<< 1)) ∧
    exec (.cMov d r) s = .next ((s.setReg (low32 d) (s.reg (low32 r))).advance 2) ∧
    exec (.cAdd d r) s = .next ((s.setReg (low32 d) (s.reg (low32 d) + s.reg (low32 r))).advance 2) ∧
    exec (.cSub d r) s = .next ((s.setReg (low32 d) (s.reg (low32 d) - s.reg (low32 r))).advance 2) ∧
    exec (.cAnd d r) s = .next ((s.setReg (low32 d) (s.reg (low32 d) &&& s.reg (low32 r))).advance 2) ∧
    exec (.cAddi d i) s = .next ((s.setReg (low32 d) (s.reg (low32 d) + i.signExtend 64)).advance 2) ∧
    exec (.cLi d i) s = .next ((s.setReg (low32 d) (i.signExtend 64)).advance 2) ∧
    (1 ≤ i.toInt → exec (.cShli d i) s = .next ((s.setReg (low32 d) (s.reg (low32 d) <<< i.toNat)).advance 2) ∧
      exec (.cShri d i) s = .next ((s.setReg (low32 d) (s.reg (low32 d) >>> i.toNat)).advance 2)) ∧
    exec (.cJ far) s = .next (s.goto (s.pc + far.signExtend 64 <<< 1)) ∧
    exec (.cJr r) s = .next (s.goto (s.reg (low32 r) &&& ~~~1)) ∧
    exec .cNop s = .next (s.advance 2)

/-- R135 and R136: NOP and JOIN (outside a slaved group, R51) only advance; EXIT ends the thread once its posted-store
journal is empty. -/
def Sys2Proof.Spec.NopJoinExit : Prop :=
  ∀ s : State,
    exec .nop s = .next (s.advance 4) ∧
    (s.leads = false → (s.cur = .pri → s.core.slave.role ≠ .detached) → exec .join s = .next (s.advance 4)) ∧
    ((∀ j : Fin 16, s.me.journal[j].state = .free) → ∃ t, exec .exit s = .next t ∧ t.me.run = .ended ∧
      t.me.window = [] ∧ KeepsThread none none s t ∧ SameMemory s t) ∧
    ((∃ j : Fin 16, s.me.journal[j].state ≠ .free) → ∃ t, exec .exit s = .next t ∧ t.me.run = s.me.run ∧ t.pc = s.pc ∧
      t.me.wake.kind ≠ 0)

/-- R129 to R136: control instructions: where each goes, and what it leaves. -/
def Obligations.ControlFlow : Prop := Spec.BranchesAndJumps ∧ Spec.NopJoinExit
/-- What an instruction of majors 0x00 to 0x06, or a compact form of one, writes: a scalar register or an extension
register (R118, R126). -/
def Sys2Proof.Spec.scalarWrites (i : Instr) : Option (Option (Fin 32) × Option (Fin 8)) :=
  match i with
  | .add _ d _ _ | .sub _ d _ _ | .and _ d _ _ | .or _ d _ _ | .xor _ d _ _ | .andn _ d _ _ | .shl _ d _ _
  | .shr _ d _ _ | .sar _ d _ _ | .min _ d _ _ | .max _ d _ _ | .minu _ d _ _ | .maxu _ d _ _ | .slt _ d _ _
  | .sltu _ d _ _ | .seq _ d _ _ | .clz _ d _ | .ctz _ d _ | .popc _ d _ | .sext _ d _ _ | .zext _ d _ _
  | .sel _ d _ _ | .mov d _ | .mul _ d _ _ | .mulh _ d _ _ | .mulhu _ d _ _ | .div _ d _ _ | .divu _ d _ _
  | .rem _ d _ _ | .remu _ d _ _ | .li d _ | .movxFromX d _ | .saddr d _ _ | .lea d _ _ _ => some (some d, none)
  | .cMov d _ | .cAdd d _ | .cSub d _ | .cAnd d _ | .cAddi d _ | .cLi d _ | .cShli d _ | .cShri d _ =>
    some (some (low32 d), none)
  | .lix n _ | .lxh n _ | .movxToX n _ => some (none, some n)
  | _ => none

/-- R118: an instruction of majors 0x00 to 0x06 changes one register and no other state: no memory, no flag, no other
thread, no unit. -/
def Obligations.ScalarFrame : Prop :=
  ∀ (i : Instr) (d : Option (Fin 32)) (n : Option (Fin 8)) (s : State), Spec.scalarWrites i = some (d, n) →
    ∃ t, exec i s = .next t ∧ KeepsThread d n s t ∧ OnlyMe s t ∧ SameMemory s t

/-! ## Scalar memory -/

/-- The key of a byte of the core's own scratchpad. -/
def Sys2Proof.Spec.ownKey (s : State) (off : Nat) : Nat := (Loc.scratch s.ctxNo s.core.lx.val s.core.ly.val off).key

/-- The n bytes from an address on lie in the core's own scratchpad (R140), within the launch's allotment (R141); no range
lock covers them (R294), no posted store of the thread is outstanding (R275), and the core's clock runs (R407). -/
def Sys2Proof.Spec.OwnScratch (s : State) (va : Word) (n : Nat) (write : Bool) : Prop :=
  s.coreStopped s.ctxNo s.core.lx.val s.core.ly.val = false ∧ va.toNat + n ≤ 0x80000 ∧ va.toNat + n ≤ s.allotment ∧ (∀ j < n, s.lockHit s.core.lx.val s.core.ly.val (va.toNat + j) write = false) ∧
    ∀ j : Fin 16, s.me.journal[j].state ≠ .posted

/-- None of n bytes of the own scratchpad is poisoned (R147). -/
def Sys2Proof.Spec.Clean (s : State) (va : Word) (n : Nat) : Prop := ∀ j < n, s.poisoned (Spec.ownKey s (va.toNat + j)) = false

/-- Sign or zero extension of a loaded number (R148). -/
def Sys2Proof.Spec.extended (z : LdSize) (v : Nat) : Word :=
  match z with
  | .b => (BitVec.ofNat 8 v).signExtend 64
  | .h => (BitVec.ofNat 16 v).signExtend 64
  | .w => (BitVec.ofNat 32 v).signExtend 64
  | .bu | .hu | .wu | .d => BitVec.ofNat 64 v

def Sys2Proof.Spec.loadSize (z : LdSize) : Nat :=
  match z with
  | .b | .bu => 1
  | .h | .hu => 2
  | .w | .wu => 4
  | .d => 8

def Sys2Proof.Spec.storeSize (z : StSize) : Nat :=
  match z with
  | .b => 1
  | .h => 2
  | .w => 4
  | .d => 8

/-- R148 and R2: LD of every size, in both layouts, and C.LDW read the little-endian value of the bytes at base plus scaled
offset, or base plus shifted index, of the own scratchpad. -/
def Obligations.LoadFromScratchpad : Prop :=
  ∀ (d b i : Fin 32) (off : BitVec 11) (sh : Fin 4) (z : LdSize) (s : State),
    (let va := s.reg b + BitVec.ofInt 64 (off.toInt * Spec.loadSize z);
      Spec.OwnScratch s va (Spec.loadSize z) false → Spec.Clean s va (Spec.loadSize z) →
      exec (.ld d b off z) s =
        .next (s.ret d (Spec.extended z (s.num (Spec.ownKey s va.toNat) (Spec.loadSize z))))) ∧
    (let va := s.reg b + s.reg i <<< sh.val;
      Spec.OwnScratch s va (Spec.loadSize z) false → Spec.Clean s va (Spec.loadSize z) →
      exec (.ldIndexed d b i sh z) s =
        .next (s.ret d (Spec.extended z (s.num (Spec.ownKey s va.toNat) (Spec.loadSize z))))) ∧
    ∀ (cd cb : Fin 16) (o : Fin 8),
      (let va := s.reg (low32 cb) + BitVec.ofNat 64 (4 * o.val);
        Spec.OwnScratch s va 4 false → Spec.Clean s va 4 →
        exec (.cLdw cd cb o) s =
          .next ((s.setReg (low32 cd) (Spec.extended .w (s.num (Spec.ownKey s va.toNat) 4))).advance 2))

/-- After a store of n bytes of a value at an address of the own scratchpad: those bytes hold the value, little-endian, every
other byte of memory reads as before, no tag changes, and of the thread only the program counter (R2, R148). -/
def Sys2Proof.Spec.Stored (s t : State) (va : Word) (n : Nat) (v : Word) (len : Nat) : Prop :=
  (∀ j < n, t.byte (Spec.ownKey s va.toNat + j) = BitVec.ofNat 8 (v.toNat / 256 ^ j)) ∧
    (∀ k, k < Spec.ownKey s va.toNat ∨ Spec.ownKey s va.toNat + n ≤ k → t.byte k = s.byte k) ∧
    (∀ k, t.tag k = s.tag k) ∧ KeepsThread none none s t ∧ t.core = s.core ∧ t.pc = s.pc + BitVec.ofNat 64 len

/-- R148 and R2: ST of every size, in both layouts, and C.STW write the low bytes of their register at the address of their
operand, and nothing else. The memory must be in its canonical form, as every reachable state's is. -/
def Obligations.StoreToScratchpad : Prop :=
  ∀ (d b i : Fin 32) (off : BitVec 11) (sh : Fin 4) (z : StSize) (s : State), Memory.wf s.mem = true →
    (let va := s.reg b + BitVec.ofInt 64 (off.toInt * Spec.storeSize z);
      Spec.OwnScratch s va (Spec.storeSize z) true →
      ∃ t, exec (.st d b off z) s = .next t ∧ Spec.Stored s t va (Spec.storeSize z) (s.reg d) 4) ∧
    (let va := s.reg b + s.reg i <<< sh.val;
      Spec.OwnScratch s va (Spec.storeSize z) true →
      ∃ t, exec (.stIndexed d b i sh z) s = .next t ∧ Spec.Stored s t va (Spec.storeSize z) (s.reg d) 4) ∧
    ∀ (cd cb : Fin 16) (o : Fin 8),
      (let va := s.reg (low32 cb) + BitVec.ofNat 64 (4 * o.val);
        Spec.OwnScratch s va 4 true →
        ∃ t, exec (.cStw cd cb o) s = .next t ∧ Spec.Stored s t va 4 (s.reg (low32 cd)) 2)

/-- An access to some bytes fetches the line of a key: the L1 lacks one of its bytes there (R263). -/
def Sys2Proof.Spec.fetched (s : State) (l : List Site) (k : Nat) : Prop :=
  ∃ m : Loc, .loc m ∈ l ∧ m.isScratch = false ∧ m.key / 64 = k / 64 ∧ s.l1 m.key = none

/-- What a plain load of some bytes finds at one of them, and its poison: at its point of coherence in scratchpad and in a line
that the load fetches, but for a dirty byte, which the L1 keeps; else what the L1 holds (R263, R272). A byte out of range
reads as zero (R141). -/
def Sys2Proof.Spec.Seen (s : State) (l : List Site) (b : Byte) (bad : Bool) : Site → Prop
  | .loc m =>
    (m.isScratch = true → b = s.byte m.key ∧ bad = s.poisoned m.key) ∧
    (m.isScratch = false → ∀ e, s.l1 m.key = some e → e.dirty = true ∨ ¬ Spec.fetched s l m.key → b = e.b ∧ bad = e.bad) ∧
    (m.isScratch = false → Spec.fetched s l m.key → s.dirty m.key = false → b = s.byte m.key ∧ bad = s.poisoned m.key)
  | _ => b = 0 ∧ bad = false

/-- R149 and R263: a plain load of any class of address that translates reads each byte as the L1 and memory hold it; bytes
of counted host pages (R399) aside. -/
def Obligations.LoadSeesL1 : Prop :=
  ∀ (d b i : Fin 32) (sh : Fin 4) (z : LdSize) (s s1 : State) (l : List Site),
    swf none 0 s.core.l1 = true → sites Need.load (s.reg b + s.reg i <<< sh.val) (Spec.loadSize z) s = .ok (l, s1) →
    Site.event ∉ l → (∀ p, .loc (.host p true) ∉ l) → (∀ x ∈ l, s1.siteLocked false false x = false) →
    (∀ x ∈ l, s1.siteStopped x = false) →
    s1.behindStp l = false → ∀ f : Site → Byte, (∀ x ∈ l, Spec.Seen s1 l (f x) false x) →
    ∃ t, exec (.ldIndexed d b i sh z) s = .next t ∧ t.pc = s.pc + 4 ∧
      t.reg d = (if d = 0 then 0 else Spec.extended z (leNat (l.map f))) ∧
      KeepsThread (some d) none s t ∧ SameMemory s t

/-- R150, R153 and R154: LDR reads a word of the own scratchpad at its bank; KLD reads the constant bank, and 0 out of
range; PREF changes no register. -/
def Obligations.UncachedAndConstantLoads : Prop :=
  ∀ (d b : Fin 32) (off : BitVec 11) (llc : Bool) (s : State),
    (let va := s.reg b + BitVec.ofInt 64 (off.toInt * 8);
      va.toNat % 8 = 0 → Spec.OwnScratch s va 8 false → Spec.Clean s va 8 →
      exec (.ldr d b off) s = .next (s.ret d (s.word (Spec.ownKey s va.toNat)))) ∧
    (let idx := s.reg b + off.signExtend 64;
      (idx.toNat < 256 → exec (.kld d b off) s = .next (s.ret d ((s.kword idx.toNat).signExtend 64))) ∧
      (256 ≤ idx.toNat → ∃ t, exec (.kld d b off) s = .next t ∧ t.reg d = 0 ∧ KeepsThread (some d) none s t ∧
        SameMemory s t ∧ t.core.scrErr.getLsbD 63 = true)) ∧
    (∃ t, exec (.pref llc b off) s = .next t ∧ KeepsThread none none s t ∧ t.pc = s.pc + 4)

/-- R151 and R152, and R294: STP enters a free journal entry and the thread goes on. The store waits at its port exactly where a lock of
another core's bank or a stopped clock (R407) holds it there, or an older store of the thread to the same core waits, and it takes its
place behind every one that waits; memory is then unchanged. Where it does not wait it is performed at its target, if the target takes
it. That the entry is the lowest free one is the model's choice (log 76), and so is that the store is performed in the step of STP itself
(log 40). -/
def Obligations.PostedStore : Prop :=
  ∀ (d b : Fin 32) (off : BitVec 11) (j : Fin 16) (s : State),
    let va := s.reg b + BitVec.ofInt 64 (off.toInt * 8)
    0x00F0000000000000 ≤ va.toNat → va.toNat < 0x00F0000020000000 → va.toNat % 8 = 0 →
    (∀ x ∈ s.postSites va, s.siteLocked true true x = false) →
    s.me.journal[j].state = .free → (∀ k < j, s.me.journal[k].state ≠ .free) →
    ∃ (t : State) (n : Nat), exec (.stp d b off) s = .next t ∧ t.pc = s.pc + 4 ∧
      t.me.journal = s.me.journal.set j ⟨.posted, va, s.reg d, s.me.lastTag, s.mode, n⟩ ∧
      (n = 0 ↔ s.postLocked va = false ∧ ∀ k : Fin 16, s.me.journal[k].waits = true →
        bits s.me.journal[k].addr 19 10 ≠ bits va 19 10) ∧
      (n ≠ 0 → ∀ k : Fin 16, s.me.journal[k].port < n) ∧
      (∀ r, t.reg r = s.reg r) ∧ (∀ k, t.tag k = s.tag k) ∧
      (Memory.wf s.mem = true → s.entryRefused va = true ∨ n ≠ 0 → ∀ k, t.byte k = s.byte k) ∧
      (Memory.wf s.mem = true → s.entryRefused va = false → n = 0 → va.toNat % 2 ^ 19 < s.allotment →
        t.num (Loc.scratch s.ctxNo (va.toNat / 2 ^ 19 % 32) (va.toNat / 2 ^ 24 % 32) (va.toNat % 2 ^ 19)).key 8 =
          (s.reg d).toNat)

/-- An aligned word of the own scratchpad, with an empty posted-store journal, in a thread that follows no leader. -/
def Sys2Proof.Spec.OwnWord (s : State) (va : Word) : Prop :=
  va.toNat % 8 = 0 ∧ Spec.OwnScratch s va 8 true ∧ Spec.OwnScratch s va 8 false ∧ Spec.Clean s va 8 ∧
    (∀ j : Fin 16, s.me.journal[j].state = .free) ∧ s.attached = false

/-- R155 to R158: the full/empty tag of a word guards LDF, LDFE and STEF, and every tag instruction does what it says; a leader
forwards a perform mark with the three that may wait (R52). -/
def Obligations.TaggedWords : Prop :=
  ∀ (d b : Fin 32) (off : BitVec 11) (s : State),
    let va := s.reg b + BitVec.ofInt 64 (off.toInt * 8)
    let k := Spec.ownKey s va.toNat
    Spec.OwnWord s va →
    (s.tag k = true → exec (.ldf d b off) s = .next (State.forward .mark (s.ret d (s.word k)))) ∧
    (s.tag k = true → exec (.ldfe d b off) s = .next (State.forward .mark ((s.setTag k false).ret d (s.word k)))) ∧
    exec (.stf d b off) s = .next ((((s.setWord k (s.reg d)).setPoison k false).setTag k true).advance 4) ∧
    (s.tag k = false →
      exec (.stef d b off) s =
        .next (State.forward .mark ((((s.setWord k (s.reg d)).setPoison k false).setTag k true).advance 4))) ∧
    exec (.tagset b off) s = .next ((s.setTag k true).advance 4) ∧
    exec (.tagclr b off) s = .next ((s.setTag k false).advance 4) ∧
    exec (.tagtst d b off) s = .next (s.ret d (if s.tag k then 1 else 0)) ∧
    (s.tag k = false → ∃ t, exec (.ldf d b off) s = .next t ∧ t.pc = s.pc ∧ t.me.wake.kind = 4 ∧ SameMemory s t) ∧
    (s.tag k = false → ∃ t, exec (.ldfe d b off) s = .next t ∧ t.pc = s.pc ∧ t.me.wake.kind = 5 ∧ SameMemory s t) ∧
    (s.tag k = true → ∃ t, exec (.stef d b off) s = .next t ∧ t.pc = s.pc ∧ t.me.wake.kind = 6 ∧ SameMemory s t)

/-- The word an atomic leaves (R164): FADD adds as binary32. -/
def Sys2Proof.Spec.amoWord {n : Nat} (op : AmoOp) (old v cmp : BitVec n) : BitVec n :=
  match op with
  | .add => old + v
  | .and => old &&& v
  | .or => old ||| v
  | .xor => old ^^^ v
  | .xchg => v
  | .inc => old + 1
  | .min => if old.toInt ≤ v.toInt then old else v
  | .max => if old.toInt ≤ v.toInt then v else old
  | .minu => if old ≤ v then old else v
  | .maxu => if old ≤ v then v else old
  | .cas => if old = cmp then v else old
  | .fadd => BitVec.ofNat n (FFmt.f32.encode (Exact.add (FFmt.f32.decode old.toNat) (FFmt.f32.decode v.toNat)).1).1

/-- R164 and R166: an atomic returns the old word and leaves the new one, for every operation, order and scope; the L1 holds no
dirty byte here, so a release writes nothing back. -/
def Obligations.Atomics : Prop :=
  ∀ (d b v : Fin 32) (op : AmoOp) (o : Order) (sc : Scope) (s : State),
    let k := Spec.ownKey s (s.reg b).toNat
    (∀ j : Fin 16, s.me.journal[j].state = .free) → s.me.unacked = 0 → dirtyLines s.core.l1 = [] →
    ((s.reg b).toNat % 4 = 0 → Spec.OwnScratch s (s.reg b) 4 true → s.poisoned k = false →
      ∃ t, exec (.amoW d b v op o sc) s = .next t ∧ t.pc = s.pc + 4 ∧ KeepsThread (some d) none s t ∧
        (d ≠ 0 → t.reg d = (BitVec.ofNat 32 (s.num k 4)).signExtend 64) ∧
        t.mem = (s.setNum k 4 (Spec.amoWord op (BitVec.ofNat 32 (s.num k 4)) ((s.reg v).truncate 32)
          ((s.xreg 4).truncate 32)).toNat).mem) ∧
    (op ≠ .fadd → (s.reg b).toNat % 8 = 0 → Spec.OwnScratch s (s.reg b) 8 true → s.poisoned k = false →
      ∃ t, exec (.amoD d b v op o sc) s = .next t ∧ t.pc = s.pc + 4 ∧ KeepsThread (some d) none s t ∧
        (d ≠ 0 → t.reg d = s.word k) ∧
        t.mem = (s.setNum k 8 (Spec.amoWord op (s.word k) (s.reg v) (s.xreg 4)).toNat).mem)

/-- R168 and R263: a fence completes, for every order and scope, once the thread's posted stores and far accesses are
acknowledged. At `.clu` and wider one of a release has written every dirty L1 byte back, and one of an acquire has dropped
every clean byte; at `.core` neither touches the L1. -/
def Obligations.Fences : Prop :=
  ∀ (o : Order) (sc : Scope) (s : State), swf none 0 s.core.l1 = true →
    (∀ j : Fin 16, s.me.journal[j].state = .free) → s.me.unacked = 0 → (∀ k, s.farDirty k = false) →
    let rel := o = .rel ∨ o = .ar ∨ o = .sc
    let acq := o = .acq ∨ o = .ar ∨ o = .sc
    let r := if rel ∧ sc ≠ .core then s.writeBackAll else s
    let t := (if acq ∧ sc ≠ .core then r.dropClean else r).advance 4
    exec (.fence o sc) s = .next t ∧ t.pc = s.pc + 4 ∧ KeepsThread none none s t ∧
      (sc = .core → t.core.l1 = s.core.l1 ∧ t.mem = s.mem) ∧
      (sc ≠ .core → rel → ∀ k b, t.l1 k = some b → b.dirty = false) ∧
      (sc ≠ .core → acq → ∀ k b, t.l1 k = some b → b.dirty = true)


/-! ## Vectors -/

/-- After a delay-carrying instruction of a mark and a latency that writes v<v> with some lanes and raises some flags (R53, R173,
R174): nothing else of the machine changes. A value that a matrix command owes the register is owed on while every younger
result is later than the start (R201). -/
def Sys2Proof.Spec.vecDone (s : State) (v : Fin 16) (dl : Fin 8) (lat : Nat) (x : Vector Lane 64) (fl : Fl) : State :=
  s.setMe { s.me with
    v := s.me.v.set v ⟨x, pushHist (s.me.start dl) lat s.me.v[v].val s.me.v[v].hist,
      if s.me.v[v].hist.all fun e => decide (s.me.start dl < e.1) then s.me.v[v].pend else none⟩
    nom := some (s.me.start dl)
    fpFlags := s.me.fpFlags ||| fl
    pc := s.pc + 4
    wake := Wake.none
    retry := false
    reply := none }

/-- The union of the flags of 64 lanes (R174). -/
def Sys2Proof.Spec.allFlags (p : Fin 64 → Fl) : Fl := (List.finRange 64).foldl (fun a j => a ||| p j) 0

/-- An instruction completes: lane j of v<v> becomes the first part of p j, and the flags of all lanes are raised together. -/
def Sys2Proof.Spec.VecLanes (i : Instr) (v : Fin 16) (dl : Fin 8) (lat : Nat) (s : State) (p : Fin 64 → Lane × Fl) : Prop :=
  ∃ x : Vector Lane 64, (∀ j : Fin 64, x[j] = (p j).1) ∧
    exec i s = .next (Spec.vecDone s v dl lat x (Spec.allFlags fun j => (p j).2))

/-- The same for an operation that raises no flag. -/
def Sys2Proof.Spec.VecPlain (i : Instr) (v : Fin 16) (dl : Fin 8) (lat : Nat) (s : State) (p : Fin 64 → Lane) : Prop :=
  ∃ x : Vector Lane 64, (∀ j : Fin 64, x[j] = p j) ∧ exec i s = .next (Spec.vecDone s v dl lat x 0)

/-- R53 to R55, R94, R172 and R173: nominal starts, what each kind of source reads, and when a result becomes visible. A reader
that comes too early traps with cause 0x06 under VEC.CHECK.EN and reads an older value without it. That an interlocked write is seen by
every later reader at once, whatever its nominal start, is the model's choice (log 12). -/
def Obligations.VectorSources : Prop :=
  ∀ (f : Fmt) (n lat : Nat) (r : Fin 16) (d : Fin 8) (k : Fin 16) (l : BitVec 4) (s : State),
    (s.me.nom = none → s.me.start d = 0) ∧ (∀ m, s.me.nom = some m → s.me.start d = m + d.val) ∧
    (s.me.v[r].pend = none → (s.checkDelay = true → shortDelay n s.me.v[r].hist = false) →
      srcV f n s (.v r) = .ok (dueValue n s.me.v[r].val s.me.v[r].hist)) ∧
    (s.me.v[r].pend = none → s.checkDelay = true → shortDelay (s.me.start d) s.me.v[r].hist = true →
      ∀ v, exec (.vmov v (.v r) d) s = .next (takeTrap 0x06 0 0 s)) ∧
    (∃ x, srcV f n s (.s k) = .ok x ∧ ∀ j : Fin 64, x[j] = (s.reg (low32 k)).truncate 32) ∧
    (∃ x, srcV f n s (.k k) = .ok x ∧ ∀ j : Fin 64, x[j] = s.kword k.val) ∧
    (∃ x, srcV .raw n s (.lit l) = .ok x ∧ ∀ j : Fin 64, x[j] = l.signExtend 32) ∧
    (f ∈ [Fmt.i32, .f32, .bf16, .f16] ∨ f = .n32 ∧ 0 ≤ l.toInt →
      ∃ x, srcV f n s (.lit l) = .ok x ∧
        ∀ j : Fin 64, Exact.cmp (decLane f x[j]) (Exact.ofInt l.toInt) = some .eq) ∧
    readM n 0 s = .ok (BitVec.allOnes 64) ∧
    (∀ (x : Vector Lane 64) (m : Nat), n ≤ m →
      dueValue m (s.me.v[r].write n lat x).val (s.me.v[r].write n lat x).hist =
        if n + lat ≤ m then x else dueValue m s.me.v[r].val s.me.v[r].hist) ∧
    (∀ (x : Vector Lane 64) (m : Nat), dueValue m (s.me.v[r].put x).val (s.me.v[r].put x).hist = x) ∧
    (∀ m, dueValue m s.me.killed.v[r].val s.me.killed.v[r].hist = s.me.v[r].val) ∧ s.me.killed.nom = none

/-- R176: the value of a lane of type `.i32` or `.n32`. -/
def Sys2Proof.Spec.ofLane (t : IntTy) (x : Lane) : Int :=
  match t with
  | .i32 => x.toInt
  | .n32 => x.toNat

/-- R176 and R177 with R173 and R175: the integer, logical and shift instructions write every lane, raise no flag and change
nothing else. -/
def Obligations.VectorInteger : Prop :=
  ∀ (v : Fin 16) (a b : VSrc) (t : IntTy) (dl : Fin 8) (s : State) (x y third : Vector Lane 64),
    (srcV t.fmt (s.me.start dl) s a = .ok x → srcV t.fmt (s.me.start dl) s b = .ok y →
      Spec.VecPlain (.vaddI v a b t dl) v dl 2 s (fun j => x[j] + y[j]) ∧
      Spec.VecPlain (.vsubI v a b t dl) v dl 2 s (fun j => x[j] - y[j]) ∧
      Spec.VecPlain (.vmulI v a b t dl) v dl 2 s (fun j => x[j] * y[j]) ∧
      Spec.VecPlain (.vminI v a b t dl) v dl 2 s
        (fun j => if Spec.ofLane t x[j] ≤ Spec.ofLane t y[j] then x[j] else y[j]) ∧
      Spec.VecPlain (.vmaxI v a b t dl) v dl 2 s
        (fun j => if Spec.ofLane t x[j] ≤ Spec.ofLane t y[j] then y[j] else x[j]) ∧
      (readV (s.me.start dl) v s = .ok third →
        Spec.VecPlain (.vclampI v a b t dl) v dl 2 s (fun j =>
          let m := if Spec.ofLane t third[j] ≤ Spec.ofLane t x[j] then x[j] else third[j]
          if Spec.ofLane t m ≤ Spec.ofLane t y[j] then m else y[j]))) ∧
    (srcV .i32 (s.me.start dl) s a = .ok x →
      Spec.VecPlain (.vabsI v a dl) v dl 2 s (fun j => if x[j].toInt < 0 then -x[j] else x[j]) ∧
      Spec.VecPlain (.vnegI v a dl) v dl 2 s (fun j => -x[j])) ∧
    (srcV .raw (s.me.start dl) s a = .ok x →
      Spec.VecPlain (.vmov v a dl) v dl 2 s (fun j => x[j]) ∧
      (srcV .raw (s.me.start dl) s b = .ok y →
        Spec.VecPlain (.vand v a b dl) v dl 2 s (fun j => x[j] &&& y[j]) ∧
        Spec.VecPlain (.vor v a b dl) v dl 2 s (fun j => x[j] ||| y[j]) ∧
        Spec.VecPlain (.vxor v a b dl) v dl 2 s (fun j => x[j] ^^^ y[j]) ∧
        Spec.VecPlain (.vandn v a b dl) v dl 2 s (fun j => x[j] &&& ~~~y[j]) ∧
        Spec.VecPlain (.vshl v a b dl) v dl 2 s (fun j => x[j] <<< y[j].toNat) ∧
        Spec.VecPlain (.vshr v a b dl) v dl 2 s (fun j => x[j] >>> y[j].toNat) ∧
        Spec.VecPlain (.vsar v a b dl) v dl 2 s (fun j => x[j].sshiftRight y[j].toNat)))

/-- RoundTo of R172 with the flags of the operation and of the rounding (R84, R174). -/
def Sys2Proof.Spec.rounded (f : Fmt) (r : Exact × Fl) : Lane × Fl := ((encLane f r.1).1, r.2 ||| (encLane f r.1).2)

/-- R178 to R180: the floating-point instructions compute each lane exactly and round it once. The series by which VEXP2 and VLOG2 are
evaluated before the rounding is the model's choice (log 13), and so is when a rounding raises the UF flag (log 37). -/
def Obligations.VectorFloat : Prop :=
  ∀ (v : Fin 16) (a b : VSrc) (t : FltTy) (dl : Fin 8) (s : State) (x y third : Vector Lane 64),
    let f := t.fmt
    let X := fun j : Fin 64 => decLane f x[j]
    let Y := fun j : Fin 64 => decLane f y[j]
    let C := fun j : Fin 64 => decLane f third[j]
    srcV f (s.me.start dl) s a = .ok x →
    (srcV f (s.me.start dl) s b = .ok y →
      Spec.VecLanes (.vaddF v a b t dl) v dl 4 s (fun j => Spec.rounded f (Exact.add (X j) (Y j))) ∧
      Spec.VecLanes (.vsubF v a b t dl) v dl 4 s (fun j => Spec.rounded f (Exact.add (X j) (Y j).negate)) ∧
      Spec.VecLanes (.vmulF v a b t dl) v dl 4 s (fun j => Spec.rounded f (Exact.mul (X j) (Y j))) ∧
      Spec.VecLanes (.vminF v a b t dl) v dl 2 s (fun j => Spec.rounded f (Exact.fmin (X j) (Y j))) ∧
      Spec.VecLanes (.vmaxF v a b t dl) v dl 2 s (fun j => Spec.rounded f (Exact.fmax (X j) (Y j))) ∧
      (readV (s.me.start dl) v s = .ok third →
        Spec.VecLanes (.vfma v a b t dl) v dl 4 s (fun j => Spec.rounded f (Exact.fma (X j) (Y j) (C j))) ∧
        Spec.VecLanes (.vfms v a b t dl) v dl 4 s (fun j => Spec.rounded f (Exact.fma (X j) (Y j) (C j).negate)) ∧
        Spec.VecLanes (.vfnma v a b t dl) v dl 4 s (fun j => Spec.rounded f (Exact.fma (X j).negate (Y j) (C j))) ∧
        Spec.VecLanes (.vclampF v a b t dl) v dl 2 s (fun j =>
          let m := Exact.fmax (C j) (X j)
          let r := Exact.fmin m.1 (Y j)
          Spec.rounded f (r.1, m.2 ||| r.2)))) ∧
    Spec.VecLanes (.vabsF v a t dl) v dl 2 s (fun j =>
      Spec.rounded f (if (X j).isNeg then (X j).negate else X j, Fl.when (X j).isSnan Fl.nv)) ∧
    Spec.VecLanes (.vnegF v a t dl) v dl 2 s (fun j => Spec.rounded f ((X j).negate, Fl.when (X j).isSnan Fl.nv)) ∧
    Spec.VecLanes (.vrcp v a t dl) v dl 8 s (fun j => Spec.rounded f (Trans.rcp.apply (X j))) ∧
    Spec.VecLanes (.vrsq v a t dl) v dl 8 s (fun j => Spec.rounded f (Trans.rsq.apply (X j))) ∧
    Spec.VecLanes (.vexp2 v a t dl) v dl 8 s (fun j => Spec.rounded f (Trans.exp2.apply (X j))) ∧
    Spec.VecLanes (.vlog2 v a t dl) v dl 8 s (fun j => Spec.rounded f (Trans.log2.apply (X j)))

/-- After a delay-carrying instruction that writes a mask (R54, R183). -/
def Sys2Proof.Spec.maskDone (s : State) (m : Fin 8) (dl : Fin 8) (x : BitVec 64) (fl : Fl) : State :=
  s.setMe { s.me with
    m := if m = 0 then s.me.m else s.me.m.set m ⟨x, pushHist (s.me.start dl) 2 s.me.m[m].val s.me.m[m].hist⟩
    nom := some (s.me.start dl)
    fpFlags := s.me.fpFlags ||| fl
    pc := s.pc + 4
    wake := Wake.none
    retry := false
    reply := none }

/-- The relation of two compared values that a suffix of VCMP names (R181). -/
def Sys2Proof.Spec.compares (c : VCond) (o : Option Ordering) (nan : Bool) : Bool :=
  match c with
  | .eq => o == some .eq
  | .ne => o != some .eq
  | .lt => o == some .lt
  | .le => o == some .lt || o == some .eq
  | .gt => o == some .gt
  | .ge => o == some .gt || o == some .eq
  | .un => nan

/-- R181, R183 and R190: VCMP and the mask instructions; a destination of m0 writes no mask. -/
def Obligations.VectorMasks : Prop :=
  ∀ (m : Fin 8) (a b : VSrc) (c : VCond) (t : CmpTy) (p q dl : Fin 8) (d : Fin 16) (s : State) (x y : Vector Lane 64)
    (k l : BitVec 64),
    (srcV t.fmt (s.me.start dl) s a = .ok x → srcV t.fmt (s.me.start dl) s b = .ok y →
      ∃ (r : BitVec 64) (fl : Fl), exec (.vcmp m a b c t dl) s = .next (Spec.maskDone s m dl r fl) ∧
        (t = .i32 → fl = 0 ∧
          ∀ j : Fin 64, r.getLsbD j.val = Spec.compares c (some (compare x[j].toInt y[j].toInt)) false) ∧
        (t = .n32 → fl = 0 ∧
          ∀ j : Fin 64, r.getLsbD j.val = Spec.compares c (some (compare x[j].toNat y[j].toNat)) false) ∧
        (t = .f32 →
          (∀ j : Fin 64, r.getLsbD j.val = Spec.compares c (Exact.cmp (decLane .f32 x[j]) (decLane .f32 y[j]))
            ((decLane .f32 x[j]).isNan || (decLane .f32 y[j]).isNan)) ∧
          fl = Spec.allFlags fun j => Fl.when ((decLane .f32 x[j]).isSnan || (decLane .f32 y[j]).isSnan ||
            (decide (c ∈ [VCond.lt, .le, .gt, .ge]) && ((decLane .f32 x[j]).isNan || (decLane .f32 y[j]).isNan))) Fl.nv)) ∧
    (readM (s.me.start dl) p s = .ok k →
      exec (.mnot m p dl) s = .next (Spec.maskDone s m dl (~~~k) 0) ∧
      exec (.mpop d p dl) s = .next ((s.started (s.me.start dl)).ret (low32 d)
        (BitVec.ofNat 64 ((List.range 64).countP fun j => k.getLsbD j))) ∧
      (∃ n, exec (.mfirst d p dl) s = .next ((s.started (s.me.start dl)).ret (low32 d) (BitVec.ofNat 64 n)) ∧
        (∀ j < n, k.getLsbD j = false) ∧ (k = 0 → n = 64) ∧ (k ≠ 0 → k.getLsbD n = true)) ∧
      (readM (s.me.start dl) q s = .ok l →
        exec (.mand m p q dl) s = .next (Spec.maskDone s m dl (k &&& l) 0) ∧
        exec (.mor m p q dl) s = .next (Spec.maskDone s m dl (k ||| l) 0) ∧
        exec (.mxor m p q dl) s = .next (Spec.maskDone s m dl (k ^^^ l) 0))) ∧
    (∀ r : Fin 16, exec (.mset m (.s r) dl) s = .next (Spec.maskDone s m dl (s.reg (low32 r)) 0)) ∧
    (∀ r : Fin 16, exec (.mset m (.k r) dl) s = .next (Spec.maskDone s m dl ((s.kword r.val).signExtend 64) 0)) ∧
    ∀ n : BitVec 4, exec (.mset m (.lit n) dl) s = .next (Spec.maskDone s m dl (n.signExtend 64) 0)

/-- R182, R188 and R189: selection, the permutations, VEXT and VINS. -/
def Obligations.VectorMovement : Prop :=
  ∀ (v d : Fin 16) (m : Fin 4) (a b : VSrc) (dl : Fin 8) (s : State) (x y : Vector Lane 64) (k : BitVec 64),
    (srcV .raw (s.me.start dl) s a = .ok x →
      Spec.VecPlain (.viota v a dl) v dl 2 s (fun j => x[j] + BitVec.ofNat 32 j.val) ∧
      Spec.VecPlain (.vlut v a dl) v dl 2 s (fun j => s.kword (x[j].truncate 8).toNat) ∧
      (srcV .raw (s.me.start dl) s b = .ok y →
        (readM (s.me.start dl) (Fin.castLE (by decide) m) s = .ok k →
          Spec.VecPlain (.vsel v m a b dl) v dl 2 s (fun j => if k.getLsbD j.val then x[j] else y[j])) ∧
        Spec.VecPlain (.vperm v a b dl) v dl 2 s (fun j => x[(y[j].truncate 6).toNat]'(BitVec.isLt _)) ∧
        Spec.VecPlain (.vbcast v a b dl) v dl 2 s (fun _ => x[(y[0].truncate 6).toNat]'(BitVec.isLt _)) ∧
        Spec.VecPlain (.vslide v a b dl) v dl 2 s (fun j =>
          if h : 0 ≤ (j.val : Int) + y[0].toInt ∧ (j.val : Int) + y[0].toInt < 64
          then x[((j.val : Int) + y[0].toInt).toNat]'(by omega) else 0) ∧
        exec (.vext d a b dl) s = .next ((s.started (s.me.start dl)).ret (low32 d)
          ((x[(y[0].truncate 6).toNat]'(BitVec.isLt _)).signExtend 64)))) ∧
    (srcInterlocked s a = .ok x → srcInterlocked s b = .ok y → s.me.v[v].pend = none →
      ∃ z : Vector Lane 64, exec (.vins v a b) s = .next ((s.putV v z).advance 4) ∧
        ∀ j : Fin 64, z[j] = if j.val = (y[0].truncate 6).toNat then x[0] else s.me.v[v].val[j])

/-- Node j of level l of the pairwise tree of R185, with the flags raised below it. -/
def Sys2Proof.Spec.treeNode (op : Lane → Lane → Lane × Fl) (x : Vector Lane 64) : Nat → Nat → Lane × Fl
  | 0, j => (laneAt x j, 0)
  | l + 1, j =>
    let p := Spec.treeNode op x l (2 * j)
    let q := Spec.treeNode op x l (2 * j + 1)
    ((op p.1 q.1).1, p.2 ||| q.2 ||| (op p.1 q.1).2)

/-- Lane i after l steps of the scan of R186. -/
def Sys2Proof.Spec.prefixLane (op : Lane → Lane → Lane × Fl) (x : Vector Lane 64) : Nat → Nat → Lane
  | 0, i => laneAt x i
  | l + 1, i =>
    if 2 ^ l ≤ i then (op (Spec.prefixLane op x l (i - 2 ^ l)) (Spec.prefixLane op x l i)).1
    else Spec.prefixLane op x l i

/-- The flags of all applications of a scan (R186). -/
def Sys2Proof.Spec.prefixFlags (op : Lane → Lane → Lane × Fl) (x : Vector Lane 64) : Fl :=
  (List.range 6).foldl (fun f l => (List.range 64).foldl (fun g i =>
    if 2 ^ l ≤ i then g ||| (op (Spec.prefixLane op x l (i - 2 ^ l)) (Spec.prefixLane op x l i)).2 else g) f) 0

/-- Byte b of a lane, sign- or zero-extended to 32 bits (R187). -/
def Sys2Proof.Spec.byteOf (t : DotTy) (x : Lane) (b : Nat) : BitVec 32 :=
  match t with
  | .i8 => ((x >>> (8 * b)).truncate 8).signExtend 32
  | .n8 => ((x >>> (8 * b)).truncate 8).zeroExtend 32

/-- R184 to R187: the reductions give the value of the fixed tree in every lane (the wrapped sum of all lanes for an integer
add), the scans its inclusive prefixes; VDOT4 and VCVT. That a value is tested against an integer format's range after it is rounded is the
model's choice (log 127). -/
def Obligations.VectorReductions : Prop :=
  ∀ (v : Fin 16) (a b : VSrc) (t : CmpTy) (u : DotTy) (fs fd : VFmt) (dl : Fin 8) (s : State) (x y third : Vector Lane 64),
    (srcV t.fmt (s.me.start dl) s a = .ok x →
      Spec.VecLanes (.vredAdd v a t dl) v dl 6 s (fun _ => Spec.treeNode (redOp .add t) x 6 0) ∧
      Spec.VecLanes (.vredMin v a t dl) v dl 6 s (fun _ => Spec.treeNode (redOp .min t) x 6 0) ∧
      Spec.VecLanes (.vredMax v a t dl) v dl 6 s (fun _ => Spec.treeNode (redOp .max t) x 6 0) ∧
      (t ≠ .f32 → Spec.VecPlain (.vredAdd v a t dl) v dl 6 s (fun _ => x.toList.sum)) ∧
      (∀ (g : RedFn) (i : Instr), (g, i) ∈ [(RedFn.add, Instr.vscanAdd v a t dl), (.min, .vscanMin v a t dl),
          (.max, .vscanMax v a t dl)] →
        ∃ z : Vector Lane 64, (∀ j : Fin 64, z[j] = (encLane t.fmt (decLane t.fmt (Spec.prefixLane (redOp g t) x 6 j))).1) ∧
          exec i s = .next (Spec.vecDone s v dl 6 z (Spec.prefixFlags (redOp g t) x)))) ∧
    (dotSrc (s.me.start dl) s a = .ok x → dotSrc (s.me.start dl) s b = .ok y → readV (s.me.start dl) v s = .ok third →
      Spec.VecPlain (.vdot4 v a b u dl) v dl 4 s (fun j =>
        third[j] + Spec.byteOf u x[j] 0 * Spec.byteOf u y[j] 0 + Spec.byteOf u x[j] 1 * Spec.byteOf u y[j] 1 +
          Spec.byteOf u x[j] 2 * Spec.byteOf u y[j] 2 + Spec.byteOf u x[j] 3 * Spec.byteOf u y[j] 3)) ∧
    (srcV fs.fmt (s.me.start dl) s a = .ok x →
      Spec.VecLanes (.vcvt v a fs fd dl) v dl 3 s (fun j => encLane fd.fmt (decLane fs.fmt x[j])))

/-! ## Vector memory -/

/-- The address of lane j of a raw access (R161): rows of four bytes, a stride of x5 bytes, 32-bit signed indices in words, one
address for all lanes. -/
inductive Sys2Proof.Spec.VecAddr where
  | plain (b : Fin 32) (off : BitVec 10) | strided (b : Fin 32) (off : BitVec 10)
  | indexed (b : Fin 32) (x : Fin 16) | splat (b : Fin 32) (off : BitVec 10)

def Sys2Proof.Spec.VecAddr.at (f : Spec.VecAddr) (s : State) (j : Fin 64) : Word :=
  match f with
  | .plain b off => s.reg b + BitVec.ofInt 64 (off.toInt * 256) + BitVec.ofNat 64 (4 * j)
  | .strided b off => s.reg b + BitVec.ofInt 64 (off.toInt * 256) + BitVec.ofNat 64 j * s.xreg 5
  | .indexed b x => s.reg b + BitVec.ofInt 64 (4 * s.me.v[x].val[j].toInt)
  | .splat b off => s.reg b + BitVec.ofInt 64 (off.toInt * 4)

/-- No matrix command owes the index register a value (R201). -/
def Sys2Proof.Spec.VecAddr.ready (f : Spec.VecAddr) (s : State) : Prop :=
  match f with
  | .indexed _ x => s.me.v[x].pend = none
  | _ => True

def Sys2Proof.Spec.VecAddr.load (f : Spec.VecAddr) (v : Fin 16) (ty : MemTy) : Instr :=
  match f with
  | .plain b off => .vld v ty b off
  | .strided b off => .vlds v ty b off
  | .indexed b x => .vldx v ty b x
  | .splat b off => .vldb v ty b off

def Sys2Proof.Spec.VecAddr.store (f : Spec.VecAddr) (v : Fin 16) (ty : MemTy) : Option Instr :=
  match f with
  | .plain b off => some (.vst v ty b off)
  | .strided b off => some (.vsts v ty b off)
  | .indexed b x => some (.vstx v ty b x)
  | .splat _ _ => none

/-- R159 and R161: a raw vector load of each form reads four little-endian bytes in each lane; nothing else changes but the
vector register and the program counter. -/
def Obligations.VectorLoads : Prop :=
  ∀ (f : Spec.VecAddr) (v : Fin 16) (s : State), f.ready s →
    (∀ j, Spec.OwnScratch s (f.at s j) 4 false ∧ Spec.Clean s (f.at s j) 4) →
    ∃ x : Vector Lane 64, exec (f.load v .raw) s = .next ((s.putV v x).advance 4) ∧
      ∀ j : Fin 64, x[j] = BitVec.ofNat 32 (s.num (Spec.ownKey s (f.at s j).toNat) 4)

/-- R159, R161 and R163: a raw vector store of each form writes its lanes, and every other byte and every register but the program
counter is as before. The ascending order, by which the last lane that covers a byte gives it its value, is R163's for VSTX; for VSTS
it is the model's choice (log 116). -/
def Obligations.VectorStores : Prop :=
  ∀ (f : Spec.VecAddr) (v : Fin 16) (i : Instr) (s : State), f.store v .raw = some i → f.ready s →
    s.me.v[v].pend = none → Memory.wf s.mem = true → (∀ j, Spec.OwnScratch s (f.at s j) 4 true) →
    ∃ t, exec i s = .next t ∧ t.pc = s.pc + 4 ∧ KeepsThread none none s t ∧ (∀ k, t.tag k = s.tag k) ∧
      (∀ k, (∀ j, k < Spec.ownKey s (f.at s j).toNat ∨ Spec.ownKey s (f.at s j).toNat + 4 ≤ k) → t.byte k = s.byte k) ∧
      ∀ (j : Fin 64) (n : Nat), n < 4 →
        (∀ l, j < l → Spec.ownKey s (f.at s j).toNat + n < Spec.ownKey s (f.at s l).toNat ∨
          Spec.ownKey s (f.at s l).toNat + 4 ≤ Spec.ownKey s (f.at s j).toNat + n) →
        t.byte (Spec.ownKey s (f.at s j).toNat + n) = BitVec.ofNat 8 (s.me.v[v].val[j].toNat / 256 ^ n)

/-- Element e + j of a typed bank of the own core, whose first element address is `va0`, for every lane j. -/
def Sys2Proof.Spec.TypedLanes (s : State) (va : Word) (ty : MemTy) (r : BankRef) (va0 : Word) (off : Nat) (e : Fin 64 → Nat) : Prop :=
  ty ≠ .raw ∧ s.bankAt va = some (r, va0, off) ∧ s.bankCode r ≠ .raw ∧ s.refuses va r.x r.y = false ∧ s.core.locks = [] ∧
    s.coreStopped r.ctx r.x r.y = false ∧
    (∀ j : Fin 16, s.me.journal[j].state ≠ .posted) ∧
    ∀ j, s.elt r va0 (e j : Int) = .ok r (s.bankCode r) (e j) ∧ s.eltPoisoned r (s.bankCode r) (e j) = false

/-- R160 to R162: a typed VLD converts 64 consecutive elements of a bank, from the element its address names on, each with its
row's scale, and raises the flags of the conversions; a row exponent that it reads beyond the allotment reads as zero and is recorded in
SCR.ERR (R80, R141, R142). A typed VST converts the lanes back, one after another. That an element is tested against an integer format's
range after it is rounded is the model's choice (log 127). -/
def Obligations.TypedVectorAccess : Prop :=
  ∀ (v : Fin 16) (ty : MemTy) (b : Fin 32) (off : BitVec 10) (r : BankRef) (va0 : Word) (o : Nat) (s : State),
    let va := s.reg b + BitVec.ofInt 64 (off.toInt * 256)
    let g := s.bankCode r
    let e := fun j : Fin 64 => elemIndex g o + j.val
    Spec.TypedLanes s va ty r va0 o e →
    ((∀ j, s.scaleBad r (eltOffset g (e j)) = false) → ∃ (x : Vector Lane 64) (w : Word),
      exec (.vld v ty b off) s =
        .next ((({ s with core := { s.core with scrErr := w } }.putV v x).raise
          (Spec.allFlags fun j => (encLane (memFmt ty) (s.readElt r g (e j))).2)).advance 4) ∧
      (∀ j : Fin 64, x[j] = (encLane (memFmt ty) (s.readElt r g (e j))).1) ∧
      ((∀ j, s.rowExpOor r (eltOffset g (e j)) = none) → w = s.core.scrErr) ∧
      (s.core.scrErr.getLsbD 63 = false → (∃ j, s.rowExpOor r (eltOffset g (e j)) ≠ none) → w.getLsbD 63 = true ∧
        bits w 56 3 = 1)) ∧
    (s.me.v[v].pend = none → ∃ t, exec (.vst v ty b off) s = .next t ∧ t.pc = s.pc + 4 ∧ (∀ d, t.reg d = s.reg d) ∧
      t.mem = ((List.finRange 64).foldl (fun (u : State) j =>
        (u.writeElt r g (e j) (decLane (memFmt ty) s.me.v[v].val[j])).1) s).mem ∧
      (∀ k, t.tag k = s.tag k))

/-- An integer held to 32 bits (R68). -/
def Sys2Proof.Spec.sat32 (i : Int) : Int := max (min i (2 ^ 31 - 1)) (-2 ^ 31)

/-- R163: VSTX.ADD on an .i32 bank without scale adds every lane at its element, in ascending order, each sum saturated; every
other byte, every tag and every register but the program counter is as before. That FP.FLAGS is unchanged is the model's choice
(log 39). -/
def Obligations.VectorScatterAdd : Prop :=
  ∀ (v x : Fin 16) (b : Fin 32) (r : BankRef) (va0 : Word) (o : Nat) (e : Fin 64 → Nat) (s : State),
    Spec.TypedLanes s (s.reg b) .i32 r va0 o e → s.fmtReg r = 9 → Memory.wf s.mem = true →
    s.me.v[v].pend = none → s.me.v[x].pend = none →
    (∀ j : Fin 64, (e j : Int) = (o / 4 : Nat) + s.me.v[x].val[j].toInt) →
    ∃ t, exec (.vstxAdd v .i32 b x) s = .next t ∧ t.pc = s.pc + 4 ∧ KeepsThread none none s t ∧ (∀ k, t.tag k = s.tag k) ∧
      (∀ k, (∀ j, k < r.key (4 * e j) ∨ r.key (4 * e j) + 4 ≤ k) → t.byte k = s.byte k) ∧
      ∀ n, (∃ j, e j = n) →
        (BitVec.ofNat 32 (t.num (r.key (4 * n)) 4)).toInt =
          (List.finRange 64).foldl (fun a j => if e j = n then Spec.sat32 (a + s.me.v[v].val[j].toInt) else a)
            (BitVec.ofNat 32 (s.num (r.key (4 * n)) 4)).toInt

/-! ## Matrix commands -/

/-- A command as the siding captures it from a thread (R198, R297). -/
def Sys2Proof.Spec.captured (s : State) (i : Instr) (a b : Word) (lanes : Vector Lane 64) : Cmd :=
  ⟨s.core.cmdCtr, s.owner, s.pc, s.me.lastTag, i, a, b, s.xreg 4, s.xreg 5, s.xreg 6, s.xreg 7, lanes, none,
    s.inHandler && decide (s.cur = .aux)⟩

/-- The counter of an accepted command rises by one, or none does (R290). -/
def Sys2Proof.Spec.Counts (s t : State) (counted : Bool) : Prop :=
  t.core.cc = match if counted then counterOf (s.xreg 7) else none with
    | some i => s.core.cc.set i (s.core.cc[i] + 1)
    | none => s.core.cc

/-- An instruction is accepted as a matrix command and the thread goes on: the command waits youngest in the queue, and only
its counter, its locks, the schedule and the program counter change with it. -/
def Sys2Proof.Spec.MatrixAccepts (i : Instr) (a b : Word) (counted : Bool) (lanes : Vector Lane 64) (dl : Fin 8) (s : State) :
    Prop :=
  ∃ t, exec i s = .next t ∧ t.pc = s.pc + 4 ∧ t.me.nom = some (s.me.start dl) ∧ KeepsThread none none s t ∧
    SameMemory s t ∧ t.core.mat.queue = s.core.mat.queue ++ [Spec.captured s i a b lanes] ∧
    t.core.cmdCtr = s.core.cmdCtr + 1 ∧ Spec.Counts s t counted

/-- The engine can take a command: room in its queue (R198), no older posted store of the thread waits at a port (R204), a
well-formed x6 and x7 (R106), a counter below 255 (R290), and every lock of the banks free (R293). -/
def Sys2Proof.Spec.MatrixReady (s : State) : Prop :=
  s.core.mat.queue.length < 16 ∧ (∀ j : Fin 16, s.me.journal[j].waits = false) ∧ x6ok (s.xreg 6) = true ∧ x7ok (s.xreg 7) = true ∧ s.core.locks = [] ∧
    ∀ i, counterOf (s.xreg 7) = some i → s.core.cc[i] ≠ 255

/-- R198, R203, R207, R210 to R212: every matrix instruction on its own core's scratchpad is accepted. -/
def Obligations.MatrixAcceptance : Prop :=
  ∀ (m : MSize) (nf : Fin 64) (t u dl : Fin 8) (a b : Fin 32) (p : Pair) (q : Port) (col mc : Bool) (ty : AccTy)
    (v : Fin 16) (dst : AccMode) (s : State) (l : Vector Lane 64), Spec.MatrixReady s →
    ((s.reg b).toNat % 64 = 0 → (s.reg b).toNat < 0x80000 →
      (s.reg b).toNat / 65536 = ((s.reg b).toNat + 64 * rowsOf nf - 1) / 65536 →
      (∀ f, f = s.bankCode (s.bankOf s.core.lx.val s.core.ly.val (s.reg b).toNat) → f = .raw ∨ f = pairFmt p) →
      (modeOf (s.xreg 6) = pairMode p false →
        Spec.MatrixAccepts (.mma m nf t b p col mc dl) (s.reg 0) (s.reg b) true noLanes dl s) ∧
      (p = .lg6 → modeOf (s.xreg 6) = .fp40 →
        Spec.MatrixAccepts (.mmas m nf t b col mc dl) (s.reg 0) (s.reg b) true noLanes dl s)) ∧
    ((if b = 0 then 64 else s.reg b).toInt % 64 = 0 →
      (∀ r < 64, (s.reg a + BitVec.ofNat 64 r * (if b = 0 then 64 else s.reg b)).toNat < 0x80000 ∧
        (s.reg a + BitVec.ofNat 64 r * (if b = 0 then 64 else s.reg b)).toNat % 64 = 0) →
      Spec.MatrixAccepts (.tld q t a b dl) (s.reg a) (s.reg b) true noLanes dl s ∧
      Spec.MatrixAccepts (.tst q t a b dl) (s.reg a) (s.reg b) true noLanes dl s) ∧
    Spec.MatrixAccepts (.tmov q t u dl) (s.reg 0) (s.reg 0) true noLanes dl s ∧
    Spec.MatrixAccepts (.accZero a b dl) (s.reg a) (s.reg b) true noLanes dl s ∧
    ((s.reg a).toNat < 0x80000 →
      (s.bankCode (s.bankOf s.core.lx.val s.core.ly.val (s.reg a).toNat) = .raw → (s.reg a).toNat % 8 = 0) →
      Spec.MatrixAccepts (.accLd a b dl) (s.reg a) (s.reg b) true noLanes dl s ∧
      Spec.MatrixAccepts (.accSt a b dl) (s.reg a) (s.reg b) true noLanes dl s) ∧
    Spec.MatrixAccepts (.accTov ty v a dl) (s.reg a) (s.reg 0) true noLanes dl s ∧
    (readV (s.me.start dl) v s = .ok l →
      Spec.MatrixAccepts (.accAddv ty a v dl) (s.reg a) (s.reg 0) true l dl s) ∧
    Spec.MatrixAccepts (.accMode dst a b dl) (s.reg a) (s.reg b) true noLanes dl s ∧
    Spec.MatrixAccepts (.accRawWr a b dl) (s.reg a) (s.reg b) false noLanes dl s ∧
    (s.core.mat.queue = [] → s.core.mat.running = none → s.core.accBad = [] →
      exec (.accRaw b a dl) s = .next ((s.started (s.me.start dl)).ret b
        ((s.cell ((s.xreg 6).truncate 16 + (s.reg a).truncate 16 : BitVec 16).toNat).zeroExtend 64)))

/-- An integer held to the range of an INT40 cell (R75). -/
def Sys2Proof.Spec.sat40 (i : Int) : Int := max (min i (2 ^ 39 - 1)) (-2 ^ 39)

/-- Element k of row r of a tile of bytes (R193). -/
def Sys2Proof.Spec.tileByte (s : State) (t r k : Nat) : Int := (sget 0 s.core.tiles (t * 4096 + 64 * r + k)).toInt

/-- R199, R207, R208 and R75: MATRIX_COMMAND_START runs the oldest command. An MMA of `.i8` on its own core leaves in
cell BASE + m·N + n the prior value (or 0 with OVR) plus the sum of 64 signed products, saturated, and no other cell changes. No word
that it reads is poisoned. -/
def Obligations.MatrixMultiply : Prop :=
  ∀ (m : MSize) (nf : Fin 64) (t dl : Fin 8) (b : Fin 32) (mc : Bool) (c : Cmd) (q : List Cmd) (s : State),
    s.core.mat.running = none → s.core.mat.queue = c :: q → c.instr = .mma m nf t b .i8 false mc dl →
    modeOf c.x6 = .int40 → swf 0 0 s.core.acc = true → c.b.toNat < 0x80000 → s.core.tileBad = [] → s.core.accBad = [] →
    (∀ j < 64 * rowsOf nf, s.engineOor s.core.lx.val s.core.ly.val (c.b.toNat + j) = none ∧
      s.poisoned (Spec.ownKey s (c.b.toNat + j)) = false) →
    ∃ t', exec .matrixCommandStart s = .next t' ∧ t'.core.mat.running = some c ∧ t'.core.mat.queue = q ∧ SameMemory s t' ∧
      t'.core.tiles = s.core.tiles ∧
      (∀ r < MSize.rows m, ∀ n < rowsOf nf,
        (t'.cell (bits c.x6 0 16 + r * rowsOf nf + n)).toInt =
          Spec.sat40 ((if c.x6.getLsbD 18 then 0 else (s.cell (bits c.x6 0 16 + r * rowsOf nf + n)).toInt) +
            ((List.range 64).map fun k =>
              Spec.tileByte s t.val r k * (s.byte (Spec.ownKey s (c.b.toNat + 64 * n + k))).toInt).sum)) ∧
      ∀ i < 65536, (∀ r < MSize.rows m, ∀ n < rowsOf nf, (bits c.x6 0 16 + r * rowsOf nf + n) % 65536 ≠ i) →
        t'.cell i = s.cell i

/-- The oldest command can start: the engine is free, and no word of the tiles and no cell is poisoned (R199, R437). -/
def Sys2Proof.Spec.MayStart (s : State) (c : Cmd) (q : List Cmd) : Prop :=
  s.core.mat.running = none ∧ s.core.mat.queue = c :: q ∧ swf 0 0 s.core.tiles = true ∧ swf 0 0 s.core.xr = true ∧
    swf 0 0 s.core.acc = true ∧ s.core.tileBad = [] ∧ s.core.accBad = []

/-- MATRIX_COMMAND_START takes the oldest command, which is then the running one. No scalar register, no lock and no counter
changes. -/
def Sys2Proof.Spec.Starts (s t : State) (c : Cmd) (q : List Cmd) : Prop :=
  exec .matrixCommandStart s = .next t ∧ t.core.mat.running = some c ∧ t.core.mat.queue = q ∧ (∀ r, t.reg r = s.reg r) ∧
    t.core.locks = s.core.locks ∧ t.core.cc = s.core.cc

/-- A command writes n cells from a first one on, cell j with the value and the bits of ACC.SAT that f gives; no other cell, no
tile and no byte changes. -/
def Sys2Proof.Spec.CellsWritten (s t : State) (first n : Nat) (f : Nat → BitVec 40 × Word) : Prop :=
  (∀ j < n, t.cell (first + j) = (f j).1) ∧ (∀ i < 65536, (∀ j < n, (first + j) % 65536 ≠ i) → t.cell i = s.cell i) ∧
    (∀ k, t.core.accSat.getLsbD k = (s.core.accSat.getLsbD k || (List.range n).any fun j => (f j).2.getLsbD k)) ∧
    t.core.tiles = s.core.tiles ∧ t.core.xr = s.core.xr ∧ SameMemory s t

/-- R207 and R208: MMA of every pair and MMAS. Cell BASE + r·N + n receives one write of the sum over the products of operand row
r and B row n, with the scale of both rows for MMAS and with the cell's prior value unless OVR is set; a byte of B out of range is
zero. -/
def Sys2Proof.Spec.ProductCommands : Prop :=
  ∀ (c : Cmd) (q : List Cmd) (m : MSize) (nf : Fin 64) (tl dl : Fin 8) (b : Fin 32) (p : Pair) (scaled col mc : Bool)
    (x y off : Nat) (s : State), Spec.MayStart s c q →
    (c.instr = if scaled then .mmas m nf tl b col mc dl else .mma m nf tl b p col mc dl) → (scaled = true → p = .lg6) →
    classify s c.b = .scratch x y off → s.enginePoisoned x y off (64 * rowsOf nf) = false →
    (scaled = true → ∀ n < rowsOf nf, s.rowScaleBad x y (off + 64 * n) = false) →
    let f := pairFmt p
    ∃ t, Spec.Starts s t c q ∧ Spec.CellsWritten s t (bits c.x6 0 16) (MSize.rows m * rowsOf nf) fun j =>
      toMode (modeOf c.x6) (cellSum p (operandRow f col (s.tileNum tl) (j / rowsOf nf))
        ((List.range f.perRow).map (elemOf f (leNat (s.engineBytes x y (off + 64 * (j % rowsOf nf)) 64))))
        (if scaled then s.xr tl (j / rowsOf nf) + s.rowScale x y (off + 64 * (j % rowsOf nf)) else 0)
        (if c.x6.getLsbD 18 then none else some (cellValue (modeOf c.x6) (s.cell (bits c.x6 0 16 + j)))))

/-- R212: ACC.ZERO, ACC.MODE, ACC.ADDV, ACC.RAW's write and ACC.LD. That an element out of range loads the number 0 is the
model's choice (log 105). -/
def Sys2Proof.Spec.CellCommands : Prop :=
  ∀ (c : Cmd) (q : List Cmd) (dl : Fin 8) (a b : Fin 32) (v : Fin 16) (ty : AccTy) (dst : AccMode) (x y off : Nat) (s : State),
    Spec.MayStart s c q →
    let mode := modeOf c.x6
    let first := firstCell c.x6 c.a
    let n := min c.b.toNat 65536
    (c.instr = .accZero a b dl → ∃ t, Spec.Starts s t c q ∧ Spec.CellsWritten s t first n fun _ => (0, 0)) ∧
    (c.instr = .accMode dst a b dl → ∃ t, Spec.Starts s t c q ∧
      Spec.CellsWritten s t first n fun j => toMode dst (cellValue mode (s.cell (first + j)))) ∧
    (c.instr = .accAddv ty a v dl → ∃ t, Spec.Starts s t c q ∧ Spec.CellsWritten s t first 64 fun j =>
      let l := decLane ty.fmt (laneAt c.lanes j)
      toMode mode (if c.x6.getLsbD 18 then l else (Exact.add (cellValue mode (s.cell (first + j))) l).1)) ∧
    (c.instr = .accRawWr a b dl → ∃ t, Spec.Starts s t c q ∧
      Spec.CellsWritten s t first 1 fun _ => (c.b.truncate 40, 0)) ∧
    (c.instr = .accLd a b dl → classify s c.a = .scratch x y off →
      (s.bankCode (s.bankOf x y off) = .raw → s.enginePoisoned x y off (8 * n) = false → ∃ t, Spec.Starts s t c q ∧
        Spec.CellsWritten s t (bits c.x6 0 16) n fun j =>
          (BitVec.ofNat 40 (leNat (s.engineBytes x y (off + 8 * j) 8)), 0)) ∧
      (s.bankCode (s.bankOf x y off) ≠ .raw → poisonedElt c n s = false → ∃ t, Spec.Starts s t c q ∧
        Spec.CellsWritten s t (bits c.x6 0 16) n fun j => toMode mode (match accElt s c j with
          | .ok r f e => s.readElt r f e
          | .oor _ _ => Exact.zero)))

/-- R201 and R212: ACC.ST writes one element for each cell, and ACC.TOV gives its lanes to the register that awaits the command; no
cell changes. -/
def Sys2Proof.Spec.CellReaders : Prop :=
  ∀ (c : Cmd) (q : List Cmd) (dl : Fin 8) (a b : Fin 32) (v : Fin 16) (ty : AccTy) (x y off : Nat) (s : State),
    Spec.MayStart s c q →
    let mode := modeOf c.x6
    let base := bits c.x6 0 16
    let n := min c.b.toNat 65536
    (c.instr = .accSt a b dl → classify s c.a = .scratch x y off → Memory.wf s.mem = true →
      (s.bankCode (s.bankOf x y off) = .raw → (∀ j < 8 * n, s.engineOor x y (off + j) = none) → ∃ t, Spec.Starts s t c q ∧
        t.core.acc = s.core.acc ∧ t.core.accSat = s.core.accSat ∧
        (∀ j < n, t.num (Loc.scratch s.ctxNo x y (off + 8 * j)).key 8 = (s.cell (base + j)).toNat) ∧
        (∀ k, k < (Loc.scratch s.ctxNo x y off).key ∨ (Loc.scratch s.ctxNo x y off).key + 8 * n ≤ k →
          t.byte k = s.byte k) ∧ ∀ k, t.tag k = s.tag k) ∧
      (s.bankCode (s.bankOf x y off) ≠ .raw → poisonedScale c n s = false → ∃ t, Spec.Starts s t c q ∧
        t.core.acc = s.core.acc ∧ (∀ k, t.tag k = s.tag k) ∧
        let w := (List.range n).foldl (fun (w : State × Word) j => match accElt s c j with
          | .ok r f e => ((w.1.writeElt r f e (cellValue mode (s.cell (base + j)))).1,
              w.2 ||| accFlags (w.1.writeElt r f e (cellValue mode (s.cell (base + j)))).2)
          | .oor _ _ => w) (s, s.core.accSat)
        t.mem = w.1.mem ∧ t.core.accSat = w.2)) ∧
    (c.instr = .accTov ty v a dl → ∃ (t : State) (l : Vector Lane 64), Spec.Starts s t c q ∧ SameMemory s t ∧
      t.core.acc = s.core.acc ∧
      (∀ j : Fin 64, l[j] = (encLane ty.fmt (cellValue mode (s.cell (firstCell c.x6 c.a + j)))).1) ∧
      t.core.accSat = s.core.accSat ||| accFlags (Spec.allFlags fun j =>
        (encLane ty.fmt (cellValue mode (s.cell (firstCell c.x6 c.a + j)))).2) ∧
      t.pri = (if c.owner = .pri then s.pri.settle c.id v l else s.pri) ∧
      t.aux = (if c.owner = .aux then s.aux.settle c.id v l else s.aux) ∧
      t.core.mseq.v = (if c.owner = .mseq then settleV c.id v l s.core.mseq.v else s.core.mseq.v) ∧
      t.core.cseq.v = (if c.owner = .cseq then settleV c.id v l s.core.cseq.v else s.core.cseq.v))

/-- Only tile u, of 4,096 bytes and 64 row exponents, differs. -/
def Sys2Proof.Spec.OtherTiles (s t : State) (u : Fin 8) : Prop :=
  t.core.acc = s.core.acc ∧
    (∀ k, k < u.val * 4096 ∨ u.val * 4096 + 4096 ≤ k → sget 0 t.core.tiles k = sget 0 s.core.tiles k) ∧
    ∀ k, k < u.val * 64 ∨ u.val * 64 + 64 ≤ k → sget 0 t.core.xr k = sget 0 s.core.xr k

/-- R210 and R211: TLD, TST and TMOV through both ports, with the row exponents. Where TST names a row twice, that the later tile
row stays is the model's choice (log 116). -/
def Sys2Proof.Spec.TileCommands : Prop :=
  ∀ (c : Cmd) (q : List Cmd) (tl u dl : Fin 8) (a b : Fin 32) (x y off : Nat → Nat) (s : State), Spec.MayStart s c q →
    (c.instr = .tmov .row tl u dl → ∃ t, Spec.Starts s t c q ∧ SameMemory s t ∧ Spec.OtherTiles s t tl ∧
      ∀ r < 64, t.tileRow tl r = s.tileRow u r ∧ t.xr tl r = s.xr u r) ∧
    (c.instr = .tmov .col tl u dl → ∃ t, Spec.Starts s t c q ∧ SameMemory s t ∧ Spec.OtherTiles s t tl ∧
      ∀ i < 64, t.xr tl i = 0 ∧ ∀ j < 64, sget 0 t.core.tiles (tl.val * 4096 + 64 * i + j) =
        sget 0 s.core.tiles (u.val * 4096 + 64 * j + i)) ∧
    ((∀ r < 64, classify s (c.a + BitVec.ofNat 64 r * (if b = 0 then 64 else c.b)) = .scratch (x r) (y r) (off r)) →
      let f := s.columnFmt c.a
      let key := fun r => (Loc.scratch s.ctxNo (x r) (y r) (off r)).key
      ((∀ r < 64, s.enginePoisoned (x r) (y r) (off r) 64 = false ∧ s.rowScaleBad (x r) (y r) (off r) = false) →
        (c.instr = .tld .row tl a b dl → ∃ t, Spec.Starts s t c q ∧ SameMemory s t ∧ Spec.OtherTiles s t tl ∧
          ∀ r < 64, t.tileRow tl r = s.engineBytes (x r) (y r) (off r) 64 ∧
            t.xr tl r = s.rowScale (x r) (y r) (off r)) ∧
        (c.instr = .tld .col tl a b dl → ∃ t, Spec.Starts s t c q ∧ SameMemory s t ∧ Spec.OtherTiles s t tl ∧
          ∀ r < 64, t.xr tl r = s.rowScale (x r) (y r) (off r) ∧ ∀ k < f.perRow,
            elemOf f (t.tileNum tl) (k * 64 + r) = elemOf f (leNat (s.engineBytes (x r) (y r) (off r) 64)) k)) ∧
      (Memory.wf s.mem = true → (∀ r < 64, off r % 64 = 0 ∧ ∀ k < 64, s.engineOor (x r) (y r) (off r + k) = none) →
        (c.instr = .tst .row tl a b dl → ∃ t, Spec.Starts s t c q ∧ t.core.tiles = s.core.tiles ∧ t.core.xr = s.core.xr ∧
          t.core.acc = s.core.acc ∧ (∀ k, t.tag k = s.tag k) ∧
          (∀ r < 64, (∀ r', r < r' → r' < 64 → key r' ≠ key r) → t.bytes (key r) 64 = s.tileRow tl r) ∧
          ∀ k, (∀ r < 64, k < key r ∨ key r + 64 ≤ k) → t.byte k = s.byte k) ∧
        (c.instr = .tst .col tl a b dl → ∃ t, Spec.Starts s t c q ∧ t.core.tiles = s.core.tiles ∧ t.core.xr = s.core.xr ∧
          t.core.acc = s.core.acc ∧ (∀ k, t.tag k = s.tag k) ∧
          (∀ r < 64, (∀ r', r < r' → r' < 64 → key r' ≠ key r) →
            (∀ k < f.perRow, elemOf f (leNat (t.bytes (key r) 64)) k = elemOf f (s.tileNum tl) (k * 64 + r)) ∧
            (f = .lg6 → ∀ w < 16, leNat (t.bytes (key r) 64) / 2 ^ (32 * w + 30) % 4 = 0)) ∧
          ∀ k, (∀ r < 64, k < key r ∨ key r + 64 ≤ k) → t.byte k = s.byte k)))

/-- R200, R205 and R411: MATRIX_COMMAND_COMPLETE ends the running command, whose locks are freed and whose counter falls. While the ramp
limiter has no room for the matrix-cycles that the command still owes, it waits. -/
def Sys2Proof.Spec.CommandEnds : Prop :=
  ∀ (c : Cmd) (s : State), s.core.mat.running = some c →
    (s.rampRoom < s.power.rampOwed → exec .matrixCommandComplete s = .next s) ∧
    (s.power.rampOwed ≤ s.rampRoom → ∃ t, exec .matrixCommandComplete s = .next t ∧ t.core.mat.running = none ∧
      t.core.mat.queue = s.core.mat.queue ∧ t.power.rampOwed = 0 ∧
      (∀ k, k ∈ t.core.locks ↔ k ∈ s.core.locks ∧ (k.far = true ∨ k.cmd ≠ c.id)) ∧ SameMemory s t ∧
      (∀ i, s.core.counted = [⟨i, c.id, false⟩] → t.core.cc = s.core.cc.set i (s.core.cc[i] - 1) ∧ t.core.counted = []))

/-- R199, R200, R207, R208 and R210 to R212: what each matrix command does when the engine runs it, and how it ends. Model's choices: an
element out of range loads the number 0 (log 105), the later of two tile rows stays where TST names a row twice (log 116), a value is tested
against an integer format's range after it is rounded (log 127), and a command completes once its matrix-cycles have run under the ramp
bound (log 69). -/
def Obligations.MatrixCommands : Prop :=
  Spec.ProductCommands ∧ Spec.CellCommands ∧ Spec.CellReaders ∧ Spec.TileCommands ∧ Spec.CommandEnds

/-! ## Burgee arrays -/

/-- R220 to R227: CX computes the loaded graph in every lane under the delay rule and takes a miss when no slot holds its
number; CXLOAD, CXEVICT, CXQRY and CXLDR. That the minimum latency of an image without an output node is 1 is the model's choice
(log 134). -/
def Obligations.BurgeeInstructions : Prop :=
  ∀ (n : Fin 64) (v : Fin 16) (a b : VSrc) (dl : Fin 8) (d r : Fin 32) (g : Graph) (x y z : Vector Lane 64) (s : State),
    (s.graphOf n.val = none → exec (.cx n v a b dl) s = .next (takeTrap 0x13 0 (BitVec.ofNat 64 n.val) s)) ∧
    (s.graphOf n.val = some g → cxSrc (g.uses 0x18) (s.me.start dl) a s = .ok x →
      cxSrc (decide (2 ≤ g.nops) && g.uses 0x19) (s.me.start dl) b s = .ok y →
      cxSrc (decide (g.nops = 3) && g.uses 0x1A) (s.me.start dl) (cxThird s) s = .ok z →
      Spec.VecLanes (.cx n v a b dl) v dl g.lat s (fun j => laneOut g j.val x[j] y[j] z[j])) ∧
    ((s.reg r).toNat % 64 ≠ 0 → exec (.cxload n r) s = .next (takeTrap 0x03 (s.reg r) 0 s)) ∧
    ((s.reg r).toNat % 64 = 0 → Spec.OwnScratch s (s.reg r) 512 false → Spec.Clean s (s.reg r) 512 →
      (let k := Spec.ownKey s (s.reg r).toNat
        let img := if (s.byte (k + 1)).getLsbD 3 then s.bytes k 256 ++ s.bytes (k + 256) 256 else s.bytes k 256;
        (∀ o, (imgFails img).min? = some o →
          exec (.cxload n r) s = .next (takeTrap 0x01 (s.reg r + BitVec.ofNat 64 o) 0 s)) ∧
        (imgFails img = [] → ∃ t, exec (.cxload n r) s = .next t ∧ t.pc = s.pc + 4 ∧ KeepsThread none none s t ∧
          SameMemory s t ∧ t.graphOf n.val = some (imgGraph img (s.reg r)) ∧
          (∀ m, m ≠ n.val → s.slotOf n.val ≠ none ∨ s.freeSlot ≠ none → t.graphOf m = s.graphOf m)))) ∧
    (∀ j, s.slotOf n.val = some j → exec (.cxevict n) s =
      .next ({ s with core := { s.core with slots := s.core.slots.set j none } }.advance 4)) ∧
    (s.slotOf n.val = none → exec (.cxevict n) s = .next (s.advance 4)) ∧
    (∀ j, s.slotOf n.val = some j → s.graphOf n.val = some g → exec (.cxqry d n) s = .next (s.ret d (mapRecord j g))) ∧
    (s.slotOf n.val = none → exec (.cxqry d n) s = .next (s.ret d 0)) ∧
    exec (.cxldr r) s = .next ({ s with core := { s.core with cxLdr := s.reg r &&& ~~~1 } }.advance 4)

/-! ## Copies, counters, locks and sequencers -/

/-- R290, R297 and R298: a well-formed CPY or CPY2D whose checks pass is accepted, where no older posted store of the thread waits at a
port. The tags are as before where the L1 holds no dirty byte of far memory, which the copy's rows would write back (R263). -/
def Sys2Proof.Spec.CopyAcceptance : Prop :=
  ∀ (two : Bool) (a b : Fin 32) (l : List Lock) (s : State),
    let i : Instr := if two then .cpy2d a b else .cpy a b
    let c := Spec.captured s i (s.reg a) (s.reg b) noLanes
    let m := copyMode (s.xreg 4)
    x4ok two (s.xreg 4) = true → x7ok (s.xreg 7) = true → copyAddr (s.reg b) s = .ok () → copyAddr (s.reg a) s = .ok () →
    checkMode two c s = .ok () → checkRows m s (firstRow two c :: copyRows two c) = .ok () → s.core.cpy.queue.length < 16 →
    (∀ j : Fin 16, s.me.journal[j].waits = false) → (∀ k, counterOf (s.xreg 7) = some k → s.core.cc[k] ≠ 255) →
    registerLocks s.core.cmdCtr (counterOf (s.xreg 7)) (copyRanges m s (copyRows two c)) s.core.locks = some l →
    ∃ t, exec i s = .next t ∧ t.pc = s.pc + 4 ∧ (∀ r, t.reg r = s.reg r) ∧ t.core.cpy.queue = s.core.cpy.queue ++ [c] ∧
      t.core.locks = l ∧ t.core.cmdCtr = s.core.cmdCtr + 1 ∧ Spec.Counts s t true ∧
      ((∀ k, s.farDirty k = false) → ∀ k, t.tag k = s.tag k)

/-- R82 and R297: the engine runs a plain one-dimensional copy between raw banks of its own scratchpad: every source byte is
read before any is written, and nothing else in memory changes but the poison and tags of the destination. -/
def Sys2Proof.Spec.PlainCopy : Prop :=
  ∀ (a b : Fin 32) (c : Cmd) (q : List Cmd) (s : State),
    let n := bits c.x4 0 32
    s.core.cpy.running = none → s.core.cpy.queue = c :: q → c.instr = .cpy a b → copyMode c.x4 = .plain →
    Memory.wf s.mem = true → 0 < n → c.a.toNat + n ≤ 0x80000 → c.b.toNat + n ≤ 0x80000 → c.a.toNat + n ≤ s.allotment →
    c.b.toNat + n ≤ s.allotment → s.codeAt c.b = .raw → Spec.Clean s c.b n →
    s.coreStopped s.ctxNo s.core.lx.val s.core.ly.val = false →
    ∃ t, exec .copyCommandStart s = .next t ∧ t.core.cpy.running = some c ∧ t.core.cpy.queue = q ∧
      (∀ j < n, t.byte (Spec.ownKey s (c.a.toNat + j)) = s.byte (Spec.ownKey s (c.b.toNat + j))) ∧
      (∀ k, k < Spec.ownKey s c.a.toNat ∨ Spec.ownKey s c.a.toNat + n ≤ k → t.byte k = s.byte k) ∧
      (∀ k, t.tag k = s.tag k) ∧ (∀ r, t.reg r = s.reg r)

/-- R82, R290, R297 and R298: CPY and CPY2D are accepted, and what a plain copy does. -/
def Obligations.Copies : Prop := Spec.CopyAcceptance ∧ Spec.PlainCopy

/-- R290 to R293, R296, R300 and R301: COPY_COMMAND_COMPLETE, the counters as a thread sees them, RL.QRY, FORK and RDV. -/
def Obligations.EngineControl : Prop :=
  ∀ (i : Fin 16) (d a b : Fin 32) (f : ForkSel) (c : Cmd) (s : State),
    (s.core.cpy.running = some c → s.core.cpy.parked = none → copyMode c.x4 ≠ .ring →
      ∃ t, exec .copyCommandComplete s = .next t ∧ t.core.cpy.running = none ∧ t.core.cpy.queue = s.core.cpy.queue ∧
        (∀ k, k ∈ t.core.locks ↔ k ∈ s.core.locks ∧ (k.far = true ∨ k.cmd ≠ c.id)) ∧ SameMemory s t) ∧
    exec (.ccRead d i) s = .next (s.ret d (s.core.cc[i].zeroExtend 64)) ∧
    (s.core.cc[i].toNat < max 1 (s.reg b).toNat → ∃ t, exec (.ccWait i b) s = .next t ∧ t.pc = s.pc + 4 ∧
      KeepsThread none none s t ∧ SameMemory s t ∧ ∀ k x, t.l1 k = some x → x.dirty = true) ∧
    (max 1 (s.reg b).toNat ≤ s.core.cc[i].toNat → ∃ t, exec (.ccWait i b) s = .next t ∧ t.pc = s.pc ∧
      t.me.wake.kind ≠ 0 ∧ SameMemory s t) ∧
    (classify s (s.reg a) = .gap → exec (.rlQry d a) s = .next ((s.noteRange 2 (s.reg a)).ret d 0)) ∧
    ((s.reg a).toNat < 0x80000 → s.allotment ≤ (s.reg a).toNat → (∀ j : Fin 16, s.me.journal[j].waits = false) →
      exec (.rlQry d a) s = .next ((s.noteRange 1 (s.reg a)).ret d 0)) ∧
    ((s.reg a).toNat < 0x80000 → (s.reg a).toNat < s.allotment → (∀ j : Fin 16, s.me.journal[j].waits = false) →
      exec (.rlQry d a) s = .next (s.ret d
        (lockRecord s.core.locks s.core.lx.val s.core.ly.val ((s.reg a).toNat / 65536) ((s.reg a).toNat % 65536))) ∧
      (s.core.locks = [] → exec (.rlQry d a) s = .next (s.ret d (4 <<< 58)))) ∧
    (x7ok (s.xreg 7) = true → (∀ k ∈ forked f, (s.startOf k).getLsbD 0 = false ∧ (s.seqr k).running = false) →
      s.counterRoom (counterOf (s.xreg 7)) (forked f).length = true →
      ∃ t, exec (.fork f) s = .next t ∧ t.pc = s.pc + 4 ∧ KeepsThread none none s t ∧ SameMemory s t ∧
        (.matrix ∈ forked f → t.core.mseq.running = true ∧ t.core.mseq.pc = s.xreg 2 ∧ t.core.mseq.x = s.me.x ∧
          t.core.mseq.s = Vector.replicate 32 0 ∧ t.me.forkM = true) ∧
        (.copy ∈ forked f → t.core.cseq.running = true ∧ t.core.cseq.pc = s.xreg 3 ∧ t.core.cseq.x = s.me.x ∧
          t.core.cseq.s = Vector.replicate 32 0 ∧ t.me.forkC = true) ∧
        (.matrix ∉ forked f → t.core.mseq = s.core.mseq) ∧ (.copy ∉ forked f → t.core.cseq = s.core.cseq)) ∧
    (s.me.forkM = false → s.me.forkC = false → ∃ t, exec .rdv s = .next t ∧ t.pc = s.pc + 4 ∧ KeepsThread none none s t ∧
      SameMemory s t) ∧
    (s.me.forkM = true ∨ s.me.forkC = true → ∃ t, exec .rdv s = .next t ∧ t.pc = s.pc ∧ t.me.wake.kind ≠ 0)

/-- What the instructions of R112 that neither access memory nor command an engine do with a sequencer's registers. -/
def Sys2Proof.Spec.seqResult (i : Instr) (u : State) : Option State :=
  match i with
  | .add w d a b => some (u.ret d (sx w (u.src a + u.src b)))
  | .cAdd d r => some ((u.setReg (low32 d) (u.reg (low32 d) + u.reg (low32 r))).advance 2)
  | .cAddi d n => some ((u.setReg (low32 d) (u.reg (low32 d) + n.signExtend 64)).advance 2)
  | .li d imm => some (u.ret d (imm.signExtend 64))
  | .cLi d n => some ((u.setReg (low32 d) (n.signExtend 64)).advance 2)
  | .lix n imm => some ((u.setXreg n (imm.signExtend 64)).advance 4)
  | .lxh n imm => some ((u.setXreg n ((u.xreg n <<< 16) ||| imm.zeroExtend 64)).advance 4)
  | .movxFromX d n => some (u.ret d (u.xreg n))
  | .movxToX n a => some ((u.setXreg n (u.src a)).advance 4)
  | .loop c off => some ((u.setReg c (u.reg c - 1)).goto
      (if u.reg c - 1 ≠ 0 then u.pc + off.signExtend 64 <<< 1 else u.pc + 4))
  | .cBeqz r off => some (u.goto (if u.reg (low32 r) = 0 then u.pc + off.signExtend 64 <<< 1 else u.pc + 2))
  | .cBnez r off => some (u.goto (if u.reg (low32 r) = 0 then u.pc + 2 else u.pc + off.signExtend 64 <<< 1))
  | .ccRead d c => some (u.ret d (u.core.cc[c].zeroExtend 64))
  | _ => none

/-- R112, R136 and R299: SEQUENCER_STEP completes. A sequencer that runs performs the instruction at its program counter on its
own registers, and at EXIT, with no command outstanding and no record, its program ends; one that does not run does nothing. -/
def Sys2Proof.Spec.SequencerSteps : Prop :=
  ∀ (q : SeqId) (n : Nat) (i : Instr) (s s1 t : State),
    ((s.seqr q).running = false → exec (.sequencerStep q) s = .next s) ∧
    ((s.seqr q).running = true → (s.seqr q).parked = none → fetchAt (s.seqr q).pc s = .ok (.instr i n, s1) →
      (Spec.seqResult i (s1.asSeq (s1.seqr q)) = some t → exec (.sequencerStep q) s = .next (s1.fromSeq t q)) ∧
      (i = .exit → s1.hasCommands (seqAgent q) = false → (s1.seqr q).record = none →
        ∃ u, exec (.sequencerStep q) s = .next u ∧ (u.seqr q).running = false ∧ (u.seqr q).parked = none ∧
          (∀ r, u.reg r = s.reg r) ∧ SameMemory s u))

/-- R295, R299 and R303 to R306: an instruction outside the subset of R112 is a sequencer's fault; tile-task records are accepted,
dispatched and replayed; a thread that hit a range lock issues again. -/
def Sys2Proof.Spec.SequencerTasks : Prop :=
  ∀ (q : SeqId) (d a : Fin 32) (n : Nat) (i : Instr) (r : Fin 64) (th : ThreadId) (w : Task) (s s1 t : State),
    ((s.seqr q).running = false → exec (.sequencerStep q) s = .next s) ∧
    ((s.seqr q).running = true → (s.seqr q).parked = none → fetchAt (s.seqr q).pc s = .ok (.instr i n, s1) → i ≠ .exit →
      (seqPerform (seqAgent q) i (s1.asSeq (s1.seqr q)) = some (.ok t) →
        exec (.sequencerStep q) s = .next (s1.fromSeq t q)) ∧
      (seqPerform (seqAgent q) i (s1.asSeq (s1.seqr q)) = none →
        exec (.sequencerStep q) s = .next (engineFault 0x01 0 (s1.seqr q).pc 0 (s1.seqr q).owner s1))) ∧
    ((s.reg a).toNat % 64 = 0 → Spec.OwnScratch s (s.reg a) 64 false → Spec.Clean s (s.reg a) 64 →
      (let rec' : Vector Word 8 := Vector.ofFn fun j => s.word (Spec.ownKey s (s.reg a).toNat + 8 * j.val);
        recordOk rec' = true → (∀ j : Fin 8, 2 ≤ j.val → j.val ≤ 6 → rec'[j] ≠ 0 →
          rec'[j].toNat % 8 = 0 ∧ rec'[j].toNat + 8 ≤ 0x80000 ∧ rec'[j].toNat + 8 ≤ s.allotment) →
        (s.freeRecord = none → exec (.ttEnq d a) s = .next (s.ret d 0x8000000000000000)) ∧
        ∀ k, s.freeRecord = some k → ∃ t, exec (.ttEnq d a) s = .next t ∧ t.pc = s.pc + 4 ∧ SameMemory s t ∧
          KeepsThread (some d) none s t ∧ (d ≠ 0 → t.reg d = BitVec.ofNat 64 k) ∧
          (swf none 0 s.tasks = true → t.task k = some ⟨rec', s.ctxNo, s.core.launch, 0, 0, none, none, none⟩))) ∧
    (∀ p, s.task r.val = some w → s.dispatchTo r.val = some p → p ≠ s.place → swf none 0 s.tasks = true →
      ∃ t, exec (.taskRecordDispatch r) s = .next t ∧
        t.task r.val = some { w with away := some p, dispatched := w.dispatched + 1 } ∧ t.core = s.core) ∧
    (s.task r.val = some w → s.dispatchTo r.val = some s.place → ∃ t, exec (.taskRecordDispatch r) s = .next t ∧
      (t.seqr w.kind).running = true ∧ (t.seqr w.kind).pc = w.words[0] ∧ (t.seqr w.kind).x[0] = w.words[7] ∧
      (t.seqr w.kind).record = some r.val ∧
      (swf none 0 s.tasks = true → t.task r.val = some { w with on := some w.kind, dispatched := w.dispatched + 1 })) ∧
    (s.task r.val = some w → w.on = some q → ∃ t, exec (.datapathErrorReplay r) s = .next t ∧
      (t.seqr q).running = false ∧ SameMemory s t ∧
      (w.eff = 0 → w.dispatched < 3 → swf none 0 s.tasks = true →
        t.task r.val = some { w with on := none, avoid := some s.place }) ∧
      (∀ x ∈ t.core.mat.queue ++ t.core.cpy.queue, x ∈ s.core.mat.queue ++ s.core.cpy.queue ∧
        x.record ≠ some r.val)) ∧
    ((s.th th).run = .lockWait → s.core.locks = [] → ∃ t, exec (.rangeLockReissue th) s = .next t ∧
      (t.th th).run = .running ∧ (t.th th).wake.kind = 0 ∧ (t.th th).pc = (s.th th).pc ∧ SameMemory s t)

/-- R112, R295, R299 and R303 to R306: a sequencer performs the instructions of its subset on its own registers; tile-task
records are accepted, dispatched and replayed; a thread that hit a range lock issues again. -/
def Obligations.SequencersAndTasks : Prop := Spec.SequencerSteps ∧ Spec.SequencerTasks

/-! ## Streams -/

/-- A release at `.dev` performs at once: every journal entry is Free and the L1 holds no dirty byte (R152, R168). -/
def Sys2Proof.Spec.Quiet (s : State) : Prop := (∀ j : Fin 16, s.me.journal[j].state = .free) ∧ dirtyLines s.core.l1 = []

/-- R307, R308, R310 and R311: SUB.OPEN, SUB.CLOSE, SLOT.TAKE and SLOT.GIVE of a thread that follows no leader. Which free entry and which
free subscription of a controller SUB.OPEN takes is the model's choice (logs 131 and 81). -/
def Sys2Proof.Spec.StreamInstructions : Prop :=
  ∀ (d a b : Fin 32) (e : Fin 8) (u : Sub) (s : State), s.attached = false →
    ((s.reg a).toNat % 64 = 0 → Spec.OwnScratch s (s.reg a) 64 false → Spec.Clean s (s.reg a) 64 → Spec.Quiet s →
      (let w : Vector Word 8 := Vector.ofFn fun j => s.word (Spec.ownKey s (s.reg a).toNat + 8 * j.val);
        (descOk s w = false → exec (.subOpen d a) s = .next (takeTrap 0x01 (s.reg a) 0 s)) ∧
        (descOk s w = true → ringOk s w = true → ∀ die s1, baseDie w s = .ok (die, s1) →
          (s.freeEntry = none ∨ s.freeStream die = none →
            exec (.subOpen d a) s = .next (s1.ret d 0x8000000000000000)) ∧
          (∀ c, s.freeEntry = some e → s.freeStream die = some c → ∃ t n, exec (.subOpen d a) s = .next t ∧
            t.pc = s.pc + 4 ∧ (d ≠ 0 → t.reg d = BitVec.ofNat 64 e.val) ∧ t.core.subs[e] = some n ∧ n.desc = w ∧
            n.ctl = c ∧ n.take = 0 ∧ n.give = 0 ∧ n.closing = false ∧
            (∀ k < bits w[6] 24 7, n.slots[k]? = some (.empty, k)) ∧
            n.slots.length = bits w[6] 24 7 ∧ (∀ f : Fin 8, f ≠ e → t.core.subs[f] = s.core.subs[f]) ∧
            (∀ k, t.byte k = s.byte k))))) ∧
    (entryOf (s.reg a) = e → s.core.subs[e] = none →
      exec (.subClose a) s = .next (takeTrap 0x03 0 0 s) ∧ exec (.slotTake d a) s = .next (takeTrap 0x03 0 0 s) ∧
      exec (.slotGive a b) s = .next (takeTrap 0x03 0 0 s)) ∧
    (entryOf (s.reg a) = e → s.core.subs[e] = some u →
      ((∀ x ∈ u.slots, x.1 ≠ .writing) → ∃ t, exec (.subClose a) s = .next t ∧ t.pc = s.pc + 4 ∧ t.core.subs[e] = none ∧
        (∀ k, t.byte k = s.byte k) ∧ KeepsThread none none s t ∧
        (swf false 0 s.tags = true → ∀ k < u.nslot, t.tag (Spec.ownKey s (u.header k)) = false)) ∧
      ((∃ x ∈ u.slots, x.1 = .writing) → ∃ t, exec (.subClose a) s = .next t ∧ t.pc = s.pc ∧ t.me.wake.kind ≠ 0 ∧
        t.core.subs[e] = some { u with closing := true } ∧ SameMemory s t) ∧
      (u.take = u.tiles → exec (.slotTake d a) s = .next (State.forward .mark (s.ret d 0x8000000000000000))) ∧
      (u.take ≠ u.tiles → u.slot (u.slotOf u.take) = (.full, u.take) → ∃ t n, exec (.slotTake d a) s = .next t ∧
        t.pc = s.pc + 4 ∧ (d ≠ 0 → t.reg d = BitVec.ofNat 64 (u.header (u.slotOf u.take))) ∧ t.core.subs[e] = some n ∧
        n.take = u.take + 1 ∧ n.give = u.give ∧ SameMemory s t) ∧
      (u.take ≠ u.tiles → u.slot (u.slotOf u.take) ≠ (.full, u.take) → ∃ t, exec (.slotTake d a) s = .next t ∧
        t.pc = s.pc ∧ t.me.wake.kind = 9 ∧ SameMemory s t) ∧
      (u.givable (s.reg b) = false → exec (.slotGive a b) s = .next (takeTrap 0x03 (s.reg b) 0 s)) ∧
      (u.givable (s.reg b) = true → Spec.Quiet s → ∃ t n, exec (.slotGive a b) s = .next t ∧ t.pc = s.pc + 4 ∧
        t.core.subs[e] = some n ∧ n.give = u.give + 1 ∧ n.take = u.take ∧ (∀ k, t.byte k = s.byte k) ∧
        KeepsThread none none s t ∧ (u.desc[1] ≠ 0 → t.tags = s.tags)))

/-- R309: the events of a stream controller move a slot from Empty to Filling while its next tile is left to deliver, from Filling to Full
with its header, and from Writing to Empty, where its next tile lies NSLOT further on. -/
def Sys2Proof.Spec.StreamSlots : Prop :=
  ∀ (e : Fin 8) (k : Fin 64) (u : Sub) (b : List (Byte × Bool)) (s s1 : State), s.core.subs[e] = some u →
    (u.closing = true ∨ s.closing = true ∨ s.saving = true → exec (.slotFillStart e k) s = .next s) ∧
    (∀ i, u.closing = false → s.closing = false → s.saving = false → u.slots[k.val]? = some (.empty, i) →
      exec (.slotFillStart e k) s =
        .next (if i < u.tiles then s.setSub e (some { u with slots := u.slots.set k.val (.filling, i) }) else s)) ∧
    ((u.slot k.val).1 = .filling → u.closing = false → s.closing = false → u.parked = none → u.desc[0] ≠ 0 →
      tileBytes' u (u.slot k.val).2 u.rows s = .ok (b, s1) → Memory.wf s1.mem = true → swf false 0 s1.tags = true →
      ∃ t, exec (.slotFilled e k) s = .next t ∧
        t.core.subs[e] = some { u with slots := u.slots.set k.val (.full, (u.slot k.val).2) } ∧
        t.tag (Spec.ownKey s1 (u.header k.val)) = true ∧
        t.num (Spec.ownKey s1 (u.header k.val)) 8 =
          ((u.slot k.val).2 + if (u.slot k.val).2 + 1 = u.tiles then 2 ^ 63 else 0) % 2 ^ 64 ∧
        (∀ j (h : j < b.length), t.byte (Spec.ownKey s1 (u.header k.val) + 8 + j) = b[j].1)) ∧
    ((u.slot k.val).1 = .filling → u.closing = false → s.closing = false → u.parked = none → u.desc[0] = 0 → Memory.wf s.mem = true →
      ∃ t, exec (.slotFilled e k) s = .next t ∧
        t.core.subs[e] = some { u with slots := u.slots.set k.val (.full, (u.slot k.val).2) } ∧
        t.num (Spec.ownKey s (u.header k.val)) 8 =
          ((u.slot k.val).2 + if (u.slot k.val).2 + 1 = u.tiles then 2 ^ 63 else 0) % 2 ^ 64) ∧
    ((u.slot k.val).1 = .writing → u.parked = none → writeRows u k.val (u.slot k.val).2 u.rows s = .ok s1 →
      ∃ t, exec (.slotWriteoutDone e k) s = .next t ∧
        t.core.subs[e] = some { u with slots := u.slots.set k.val (.empty, (u.slot k.val).2 + bits u.desc[6] 24 7) } ∧
        t.mem = s1.mem ∧ (swf false 0 s1.tags = true → t.tag (Spec.ownKey s1 (u.header k.val)) = false))

/-- R307 to R312: subscriptions and their slots: the instructions, and the events of the stream controllers. -/
def Obligations.Streams : Prop := Spec.StreamInstructions ∧ Spec.StreamSlots

/-! ## Launches at work -/

/-- R240, R241 and R243: SSTEP arrives, releases and waits; the barrier tree starts the exchange of the current plan; its
transfers begin in order of START; its end releases the core. -/
def Obligations.Supersteps : Prop :=
  ∀ (n : Nat) (l : Launch) (x : Exchange) (s : State), s.runLaunch = some l → s.attached = false →
    (∀ m ∈ s.launches, m.id = l.id → m = l) →
    (s.cur = .pri → s.me.wake.kind ≠ 14 → Spec.Quiet s → ∃ t, exec .sstep s = .next t ∧ t.pc = s.pc ∧
      t.me.wake.kind = 14 ∧ t.launch? l.id = some { l with arrived := true } ∧ SameMemory s t) ∧
    (s.cur = .pri → s.me.wake.kind = 14 → s.me.wake.done = true → l.released = true → ∃ t, exec .sstep s = .next t ∧
      t.pc = s.pc + 4 ∧ t.launch? l.id = some { l with released := false, arrived := false } ∧ SameMemory s t ∧
      KeepsThread none none s t) ∧
    (s.cur = .aux → exec .sstep s = .next (takeTrap 0x02 0 0 s)) ∧
    (s.barrierReady l = true → (s.planEntries l l.plan).any s.exceeds = false → ∃ t,
      exec .barrierTreeComplete s = .next t ∧
      t.launch? l.id = some { l with exch := some ⟨l.plan, s.core.windows, []⟩, atStep := [] } ∧ SameMemory s t) ∧
    (s.barrierReady l = false → exec .barrierTreeComplete s = .next s) ∧
    (l.exch = some x → ∀ p, (s.planEntries l x.plan)[n]? = some p → startable (s.planEntries l x.plan) x p n = true →
      s.coreStopped l.ctx (s.rectCore l p.sx p.sy).1 (s.rectCore l p.sx p.sy).2 = false →
      ∃ t, exec (.exchangeTransferBegin n) s = .next t ∧ t.mem = s.mem ∧
        t.launch? l.id = some { l with exch := some { x with begun := x.begun ++ [n] } } ∧
        (∀ b len, s.isHere p.sx p.sy = true → x.windows[p.swin] = some (b, len) →
          t.fabric.length = s.fabric.length + p.bytes / 8 ∧ t.fabric.take s.fabric.length = s.fabric)) ∧
    (l.exch = some x → x.begun.length = (s.planEntries l x.plan).length → s.landedAll l.ctx = true →
      ∃ t, exec .exchangeStepEnd s = .next t ∧ SameMemory s t ∧
        t.launch? l.id = some { l with exch := none, released := l.arrived, plan := s.planNext l x.plan }) ∧
    (l.exch = none → exec .exchangeStepEnd s = .next s ∧ exec (.exchangeTransferBegin n) s = .next s)

/-- R247 to R249, R253 to R255, R259 and R260: TASK.NEXT and the COVER instructions of the primary thread, and their
refusal in any other thread or launch. COVER.CLAIM takes one map word of its tile in each step and completes with the last; that it keeps
what it has taken in the thread's wake record until then is the model's choice (log 118), and so is that the poison of a map word is not
consumed (log 137). -/
def Obligations.TasksAndCover : Prop :=
  ∀ (d a b : Fin 32) (l l1 : Launch) (k : Nat) (s : State), s.attached = false →
    (s.cur = .aux ∨ s.runLaunch = none →
      exec (.taskNext d) s = .next (takeTrap 0x02 0 0 s) ∧ exec (.coverClaim d a) s = .next (takeTrap 0x02 0 0 s) ∧
      exec (.coverDone a b) s = .next (takeTrap 0x02 0 0 s) ∧ exec (.coverYield a b) s = .next (takeTrap 0x02 0 0 s)) ∧
    (s.cur = .pri → s.runLaunch = some l → l.hasMap = false →
      exec (.taskNext d) s = .next (State.forward .mark (s.ret d 0x8000000000000000)) ∧
      exec (.coverClaim d a) s = .next (takeTrap 0x02 0 0 s)) ∧
    (s.cur = .pri → s.runLaunch = some l → l.hasMap = true →
      (serveTask s.launchIndex l s = .none →
        exec (.taskNext d) s = .next (State.forward .mark (s.ret d 0x8000000000000000))) ∧
      (serveTask s.launchIndex l s = .wait → ∃ t, exec (.taskNext d) s = .next t ∧ t.pc = s.pc ∧ t.me.wake.kind = 10) ∧
      (serveTask s.launchIndex l s = .tile k l1 → ∃ t, exec (.taskNext d) s = .next t ∧ t.pc = s.pc + 4 ∧
        (d ≠ 0 → t.reg d = BitVec.ofNat 64 (l1.range.gen % 65536 * 2 ^ 32 + k)) ∧ KeepsThread (some d) none s t ∧
        SameMemory s t ∧
        t.core.tkOrg0 = BitVec.ofNat 64 ((tileOrigin l1.packet l1.range.hoist k).getD 1 0 * 2 ^ 32 +
          (tileOrigin l1.packet l1.range.hoist k).getD 0 0) ∧
        (s.core.viewGen < l1.range.gen → t.core.view = l1.range.hoist)) ∧
      (badToken (s.reg a) = true ∨ bits (s.reg a) 32 16 ≠ l.range.gen % 65536 ∨
          tileCount l.packet l.range.hoist ≤ bits (s.reg a) 0 32 →
        ∃ t, exec (.coverClaim d a) s = .next t ∧ t.reg d = 0 ∧ t.pc = s.pc + 4 ∧ SameMemory s t) ∧
      (∀ ks s1 n m w rest, badToken (s.reg a) = false → bits (s.reg a) 32 16 = l.range.gen % 65536 →
        bits (s.reg a) 0 32 < tileCount l.packet l.range.hoist → s.me.claimed = (n, m) →
        (let gs := tileGrains l.packet l.range.hoist (bits (s.reg a) 0 32)
          let free := ks.filter fun x => decide (x.2.1 / 32 = w) && decide (s1.grainAt x = 0)
          mapKeys l gs s = .ok (ks, s1) → (mapWords gs).drop n = w :: rest →
          ∃ t, exec (.coverClaim d a) s = .next t ∧ t.mem = (free.foldl (fun u x => u.putGrain x 1) s1).mem ∧
            (rest = [] → t.pc = s.pc + 4 ∧ KeepsThread (some d) none s t ∧
              (d ≠ 0 → ∀ i < 64, ((t.reg d).getLsbD i = true ↔ m.getLsbD i = true ∨ ∃ x ∈ free, x.1 = i))) ∧
            (rest ≠ [] → t.pc = s.pc ∧ KeepsThread none none s t ∧ t.me.claimed.1 = n + 1 ∧
              ∀ i < 64, (t.me.claimed.2.getLsbD i = true ↔ m.getLsbD i = true ∨ ∃ x ∈ free, x.1 = i)))) ∧
      (∀ ks s1 h cur, Spec.Quiet s → l.range.hoistOf (bits (s.reg a) 32 16) = some (h, cur) →
        badToken (s.reg a) = false → bits (s.reg a) 0 32 < tileCount l.packet h →
        (∀ i < 64, (s.reg b).getLsbD i = true → tileGrain l.packet h (bits (s.reg a) 0 32) i ≠ none) →
        mapKeys l ((tileGrains l.packet h (bits (s.reg a) 0 32)).filter fun x => (s.reg b).getLsbD x.1) s = .ok (ks, s1) →
        (∀ x ∈ ks, s1.grainAt x = 1) →
        (∃ t, exec (.coverDone a b) s = .next t ∧ t.pc = s.pc + 4 ∧ KeepsThread none none s t ∧
          t.mem = (ks.foldl (fun u x => u.putGrain x 3) s1).mem) ∧
        ∃ t, exec (.coverYield a b) s = .next t ∧ t.pc = s.pc + 4 ∧ KeepsThread none none s t ∧
          t.mem = (ks.foldl (fun u x => u.putGrain x 0) s1).mem))

/-- R250, R253, R255 to R257 and R261: HRD, HWR and HCOMMIT, and a waiting TASK.NEXT served again. HCOMMIT waits while a COVER.CLAIM of
the core stands between two words, which is the model's choice (log 118). -/
def Obligations.HoistRegisters : Prop :=
  ∀ (d a : Fin 32) (i : Fin 16) (l : Launch) (s : State), (∀ m ∈ s.launches, m.id = l.id → m = l) →
    (s.runLaunch = some l →
      (∀ h : i.val < 14, exec (.hrd d i) s = .next (s.ret d (s.core.view[i.val]))) ∧
      (i.val = 14 → exec (.hrd d i) s = .next (s.ret d (BitVec.ofNat 64 l.range.done))) ∧
      (i.val = 15 → exec (.hrd d i) s = .next (s.ret d (BitVec.ofNat 64 s.core.viewGen))) ∧
      (s.cur = .aux → s.core.lnPos.getLsbD 45 = true → s.pri.wake.kind ≠ 34 →
        (∀ h : i.val < 14, ∃ t, exec (.hwr i a) s = .next t ∧ t.pc = s.pc + 4 ∧ KeepsThread none none s t ∧
          SameMemory s t ∧
          t.launch? l.id = some { l with range := { l.range with pending := l.range.pending.set i.val (s.reg a) } }) ∧
        (14 ≤ i.val → exec (.hwr i a) s = .next (takeTrap 0x01 0 0 s)) ∧
        (hoistCode l.range.pending ≠ 0 →
          exec (.hcommit d) s = .next (s.ret d (BitVec.ofNat 64 (hoistCode l.range.pending)))) ∧
        (hoistCode l.range.pending = 0 → 0 < l.range.tprev → exec (.hcommit d) s = .next (s.ret d 5)) ∧
        (hoistCode l.range.pending = 0 → l.range.tprev = 0 → ∃ t l2, exec (.hcommit d) s = .next t ∧ t.reg d = 0 ∧
          t.pc = s.pc + 4 ∧ t.launch? l.id = some l2 ∧ l2.range.hoist = l.range.pending ∧ l2.range.prev = l.range.hoist ∧
          l2.range.gen = l.range.gen + 1 ∧ l2.range.tcur = 0 ∧ l2.range.tprev = l.range.tcur ∧
          t.core.view = l.range.pending ∧ t.core.viewGen = l.range.gen + 1)) ∧
      (s.cur = .pri ∨ s.core.lnPos.getLsbD 45 = false → i.val < 14 →
        exec (.hwr i a) s = .next (takeTrap 0x02 0 0 s) ∧ exec (.hcommit d) s = .next (takeTrap 0x02 0 0 s))) ∧
    (s.runLaunch = none → exec (.hrd d i) s = .next (takeTrap 0x02 0 0 s)) ∧
    ∃ t, exec .taskRequestReserve s = .next t ∧ (s.pri.wake.kind = 10 → t.pri.retry = true) ∧
      (s.pri.wake.kind ≠ 10 → t = s) ∧ t.core = s.core ∧ SameMemory s t

/-! ## Channels and the fabric -/

/-- R327 to R329, R333, R334 and R336: the channel instructions, RSEND and XWIN, a packet that a router forwards, and one
that reaches its receive buffer. That RSEND to a route that is not valid completes, and that the router discards its packet, is the
model's reading (log 52). -/
def Obligations.ChannelsAndRouters : Prop :=
  ∀ (c : Fin 64) (d a b : Fin 32) (w : Fin 64) (f : Flit) (v : Word) (r : List Word) (s : State), s.attached = false →
    (let rt := s.routeWord s.ctxNo s.core.lx.val s.core.ly.val c.val 0;
      (rt.getLsbD 63 = false → exec (.chSend c a) s = .next (takeTrap 0x03 0 0 s)) ∧
      (rt.getLsbD 63 = true → Spec.Quiet s → ∃ t, exec (.chSend c a) s = .next t ∧ t.pc = s.pc + 4 ∧
        KeepsThread none none s t ∧ SameMemory s t ∧ t.core.chans[c].sent = s.core.chans[c].sent + 1 ∧
        t.fabric = s.fabric ++ [⟨s.ctxNo, s.core.lx, s.core.ly, 0,
          ⟨s.reg a, BitVec.ofNat 16 s.core.chans[c].sent, BitVec.ofNat 8 c.val, false⟩, none⟩])) ∧
    (s.core.chans[c].buf = v :: r → ∃ t, exec (.chRecv d c) s = .next t ∧ t.pc = s.pc + 4 ∧ (d ≠ 0 → t.reg d = v) ∧
      t.core.chans[c].buf = r ∧ KeepsThread (some d) none s t ∧ SameMemory s t) ∧
    (s.core.chans[c].buf = [] → ∃ t, exec (.chRecv d c) s = .next t ∧ t.pc = s.pc ∧ t.me.wake.kind = 8 ∧ SameMemory s t) ∧
    exec (.chProbe d c) s = .next (s.ret d (BitVec.ofNat 64 s.core.chans[c].buf.length)) ∧
    (bits (s.reg a) 24 40 = 0 → Spec.Quiet s → ∃ t, exec (.rsend a b) s = .next t ∧ t.pc = s.pc + 4 ∧
      KeepsThread none none s t ∧ SameMemory s t ∧
      t.fabric = s.fabric ++ [⟨s.ctxNo, s.core.lx, s.core.ly, 0,
        ⟨s.reg b, (s.reg a >>> 8).truncate 16, (s.reg a).truncate 8, false⟩, none⟩]) ∧
    (bits (s.reg a) 24 40 ≠ 0 → exec (.rsend a b) s = .next (takeTrap 0x03 0 0 s)) ∧
    ((s.reg a).toNat % 8 = 0 → (s.reg b).toNat % 8 = 0 → (s.reg b).toNat ≤ 65536 →
      (s.reg a).toNat + (s.reg b).toNat ≤ s.allotment → (s.reg a).toNat < 0x80000 →
      (s.reg a).toNat + (s.reg b).toNat ≤ 0x80000 →
      (let x := s.core.windows.set w (if s.reg b = 0 then none else some ((s.reg a).toNat, (s.reg b).toNat));
        exec (.xwin w a b) s = .next ({ s with core := { s.core with windows := x } }.advance 4))) ∧
    ((s.reg a).toNat % 8 ≠ 0 ∨ 0x80000 ≤ (s.reg a).toNat → exec (.xwin w a b) s = .next (takeTrap 0x03 (s.reg a) 0 s)) ∧
    (s.atPort f.x f.y f.port = some f →
      (let e := s.routeWord f.ctx f.x.val f.y.val f.packet.route.toNat 0;
        (routeBad e = true → ∃ t, exec (.routerPacket f.x f.y f.port f.packet) s = .next t ∧
          t.fabric = s.fabric.erase f ∧ t.mgmt.discards = s.mgmt.discards + 1) ∧
        (routeBad e = false → routeOp e = 0 → portA e ≠ 0 →
          (let n := s.neighbour f.ctx f.x.val f.y.val (portA e);
            s.corePresent f.ctx n.1 n.2.1 = true → ∃ t, exec (.routerPacket f.x f.y f.port f.packet) s = .next t ∧
              t.fabric = s.fabric.erase f ++ [⟨f.ctx, Fin.ofNat 32 n.1, Fin.ofNat 32 n.2.1, n.2.2,
                { f.packet with route := routeA e }, f.xfer⟩] ∧ SameMemory s t)) ∧
        (routeBad e = false → routeOp e = 0 → portA e = 0 → f.packet.void = false → f.xfer = none →
          s.core.ctx = some f.ctx → s.isSelf f.x.val f.y.val = true → s.coreStopped f.ctx f.x.val f.y.val = false → ∃ t, exec (.routerPacket f.x f.y f.port f.packet) s = .next t ∧
            t.fabric = s.fabric.erase f ∧ ∀ h : bits e 16 6 < 64,
              (t.core.chans[bits e 16 6]'h).stopped = (s.core.chans[bits e 16 6]'h).stopped ++ [f.packet.payload]))) ∧
    (s.core.chans[c].stopped = v :: r → s.core.chans[c].buf.length < 8 → ∃ t,
      exec (.channelDelivery c v) s = .next t ∧ t.core.chans[c].buf = s.core.chans[c].buf ++ [v] ∧
      t.core.chans[c].stopped = r ∧ SameMemory s t)

/-! ## Event units -/

/-- The address names operation op on line k, at an event unit of the context, with an operand (R314). -/
def Sys2Proof.Spec.EventAt (s : State) (va : Word) (op k operand : Nat) : Prop :=
  va.toNat % 8 = 0 ∧ classify s va = .event ∧ bits va 25 3 = op ∧ bits va 3 16 = operand ∧ s.evKey va = k ∧
    s.corePresent s.ctxNo (2 * bits va 28 4) (2 * bits va 32 4) = true

/-- Nothing has reached line k that its next service would take, no waiter of another core is satisfied, and no arrival of this core's
threads stands on it. -/
def Sys2Proof.Spec.LineAlone (s : State) (k : Nat) : Prop :=
  (s.line k).ops = [] ∧ (s.line k).inbox = [] ∧ (s.line k).completed = false ∧ (s.line k).gather = false ∧
    (s.line k).notified = s.line k ∧ ∀ t ∈ [ThreadId.pri, .aux], (s.th t).wake.kind = 32 → (s.th t).wake.aux = 3 → s.evKey (s.th t).wake.addr ≠ k

/-- A thread that has nothing to release and waits for nothing, and an unchained line of a kind in its own cluster, whose clock runs,
alone. -/
def Sys2Proof.Spec.EventReady (s : State) (va : Word) (k kind : Nat) : Prop :=
  Spec.Quiet s ∧ s.attached = false ∧ s.me.wake.kind = 0 ∧ s.me.reply = none ∧ s.ownCluster va = true ∧
    swf ELine.fresh 0 s.lines = true ∧ (s.line k).kind = kind ∧ (s.line k).unconfigured = false ∧
    (s.line k).pv = false ∧ (s.line k).cin = 0 ∧ (s.line k).relayed = false ∧ Spec.LineAlone s k ∧ s.lineWaits va = false

/-- Line k after one arrival on s's line, a drop or not, that is or is not the last one expected (R319). -/
def Sys2Proof.Spec.Arrived (s t : State) (k : Nat) (drop : Bool) : Prop :=
  (∀ j, j ≠ k → t.line j = s.line j) ∧
    ((s.line k).arrived + 1 < (s.line k).expect →
      t.line k = { s.line k with
        arrived := (s.line k).arrived + 1, drops := (s.line k).drops + if drop then 1 else 0 }) ∧
    ((s.line k).expect ≤ (s.line k).arrived + 1 → (t.line k).phase = (s.line k).phase + 1 ∧ (t.line k).arrived = 0 ∧
      (t.line k).expect = (s.line k).expect - ((s.line k).drops + if drop then 1 else 0))

/-- R113 and R314 to R321: every event alias is the LD.D or ST.D of its form, and what each operation does to its line: an INIT to any
line of the context, every other operation to an unchained line of the core's own cluster. That an operation reaches its line and is
served within the instruction's own step is the model's choice (log 46). -/
def Obligations.EventOperations : Prop :=
  ∀ (d b : Fin 32) (off : BitVec 11) (k : Nat) (s : State),
    let va := s.reg b + BitVec.ofInt 64 (off.toInt * 8)
    let l := s.line k
    (∀ i ∈ [Instr.evArrive d b off, .evDrop d b off, .evWait d b off, .evSync d b off, .evLock d b off],
      exec i s = exec (.ld d b off .d) s) ∧
    (∀ i ∈ [Instr.evUnlock b off, .evSignal b off, .evClear b off], exec i s = exec (.st 0 b off .d) s) ∧
    exec (.evInit d b off) s = exec (.st d b off .d) s ∧
    (Spec.EventReady s va k 0 →
      (Spec.EventAt s va 0 k 0 → ∃ t, exec (.evArrive d b off) s = .next t ∧ t.pc = s.pc + 4 ∧ Spec.Arrived s t k false ∧
        KeepsThread (some d) none s t ∧ SameMemory s t ∧ (d ≠ 0 → t.reg d = (t.line k).status l.phase)) ∧
      (Spec.EventAt s va 1 k 0 → ∃ t, exec (.evDrop d b off) s = .next t ∧ t.pc = s.pc + 4 ∧ Spec.Arrived s t k true ∧
        KeepsThread (some d) none s t ∧ SameMemory s t ∧ (d ≠ 0 → t.reg d = (t.line k).status l.phase)) ∧
      (∀ n, Spec.EventAt s va 2 k n → l.satisfies (BitVec.ofNat 16 n) = true → ∃ t, exec (.evWait d b off) s = .next t ∧ t.pc = s.pc + 4 ∧
        t.line k = l ∧ KeepsThread (some d) none s t ∧ (d ≠ 0 → t.reg d = l.status l.phase)) ∧
      (∀ n, Spec.EventAt s va 2 k n → l.satisfies (BitVec.ofNat 16 n) = false → ∃ t, exec (.evWait d b off) s = .next t ∧ t.pc = s.pc ∧
        t.me.wake.kind = 1 ∧ t.line k = l) ∧
      (Spec.EventAt s va 3 k 0 → ∃ t, exec (.evSync d b off) s = .next t ∧ Spec.Arrived s t k false ∧
        (l.expect ≤ l.arrived + 1 → t.pc = s.pc + 4 ∧ (d ≠ 0 → t.reg d = (t.line k).status (l.phase + 1))) ∧
        (l.arrived + 1 < l.expect → t.pc = s.pc ∧ t.me.wake.kind = 2))) ∧
    (Spec.EventReady s va k 1 →
      (Spec.EventAt s va 4 k 0 → l.owner = none → ∃ t, exec (.evLock d b off) s = .next t ∧ t.pc = s.pc + 4 ∧
        t.line k = { l with owner := some s.agent, flag := true } ∧ (d ≠ 0 → t.reg d = (t.line k).status l.phase)) ∧
      (Spec.EventAt s va 4 k 0 → l.owner ≠ none → ∃ t, exec (.evLock d b off) s = .next t ∧ t.pc = s.pc ∧
        t.me.wake.kind = 3 ∧ (t.line k).owner = l.owner ∧ s.agent ∈ (t.line k).queue) ∧
      (Spec.EventAt s va 0 k 0 → l.owner = some s.agent → l.queue = [] → ∃ t, exec (.evUnlock b off) s = .next t ∧
        t.pc = s.pc + 4 ∧
        t.line k = ELine.notified { l with owner := none, flag := false, queue := [], phase := l.phase + 1 }) ∧
      (Spec.EventAt s va 0 k 0 → l.owner = some s.agent → ∀ a r, l.queue.filter (s.queued k) = a :: r → ∃ t,
        exec (.evUnlock b off) s = .next t ∧ t.pc = s.pc + 4 ∧
        t.line k = ELine.notified { l with owner := some a, queue := r, phase := l.phase + 1 } ∧
        (s.isOwn k a = true → a.thr ≠ s.cur → (t.th a.thr).reply = some ((t.line k).status (t.line k).phase))) ∧
      (Spec.EventAt s va 0 k 0 → l.owner ≠ some s.agent → exec (.evUnlock b off) s = .next (takeTrap 0x03 va 0 s))) ∧
    (Spec.EventReady s va k 2 →
      (Spec.EventAt s va 1 k 0 → ∃ t, exec (.evSignal b off) s = .next t ∧ t.pc = s.pc + 4 ∧
        t.line k = ELine.notified { l with flag := true, phase := l.phase + 1 }) ∧
      (Spec.EventAt s va 2 k 0 → ∃ t, exec (.evClear b off) s = .next t ∧ t.pc = s.pc + 4 ∧
        t.line k = { l with flag := false })) ∧
    (Spec.EventAt s va 3 k 0 → swf ELine.fresh 0 s.lines = true → Spec.LineAlone s k → s.lineWaits va = false →
      (validConfig (s.reg d) = false → exec (.evInit d b off) s = .next (takeTrap 0x03 va 0 s)) ∧
      (validConfig (s.reg d) = true → l.unconfigured = true → ∃ t, exec (.evInit d b off) s = .next t ∧
        t.pc = s.pc + 4 ∧ (t.line k).kind = bits (s.reg d) 62 2 ∧ (t.line k).expect = bits (s.reg d) 16 12 ∧
        (t.line k).phase = (s.reg d).truncate 16 ∧ (t.line k).arrived = 0 ∧ (t.line k).owner = none) ∧
      (validConfig (s.reg d) = true → l.unconfigured = false → l.sameConfig (s.reg d) = true → l.ready = false → ∃ t,
        exec (.evInit d b off) s = .next t ∧ t.pc = s.pc + 4 ∧ t.line k = l) ∧
      (validConfig (s.reg d) = true → l.unconfigured = false → l.sameConfig (s.reg d) = false →
        (s.quietLine k = true → ∃ t, exec (.evInit d b off) s = .next t ∧ t.pc = s.pc + 4 ∧
          (t.line k).kind = bits (s.reg d) 62 2 ∧ (t.line k).pv = (s.reg d).getLsbD 60 ∧
          (t.line k).cin = bits (s.reg d) 55 5 ∧ (t.line k).parent = bits (s.reg d) 34 14 ∧
          (t.line k).expect = bits (s.reg d) 16 12 ∧ (t.line k).phase = l.phase) ∧
        (s.quietLine k = false → exec (.evInit d b off) s = .next (takeTrap 0x03 va 0 s))))

/-- R318, R319, R322 and R323: the events of an event unit. A chained arrival takes its place among those of its cycle by the number of
the sending line. -/
def Obligations.EventUnitEvents : Prop :=
  ∀ (k parent child : Nat) (drop : Bool) (th : ThreadId) (s : State), swf ELine.fresh 0 s.lines = true →
    (Spec.LineAlone s k → (s.line k).ready = false → ∃ t,
      exec (.eventLineService k) s = .next t ∧ t.lines = s.lines ∧ t.flight = s.flight ∧ SameMemory s t) ∧
    (Spec.LineAlone s k → (s.line k).ready = true → (s.line k).pv = false → ∃ t,
      exec (.eventLineService k) s = .next t ∧ (t.line k).phase = (s.line k).phase + 1) ∧
    (Spec.LineAlone s k → (s.line k).ready = true → (s.line k).pv = true → ∃ t,
      exec (.eventLineService k) s = .next t ∧ (t.line k).relayed = true ∧ (t.line k).phase = (s.line k).phase ∧
      t.flight = s.flight ++ [.arrival ((s.line k).parentKey k) k false]) ∧
    (.arrival parent child drop ∈ s.flight → ∃ t, exec (.chainedArrival parent child drop) s = .next t ∧
      t.flight = s.flight.erase (.arrival parent child drop) ∧ ∃ a c, (s.line parent).inbox = a ++ c ∧
        t.line parent = { s.line parent with inbox := a ++ (child, drop) :: c } ∧ (∀ y ∈ a, y.1 ≤ child) ∧
        ∀ y, c.head? = some y → child < y.1) ∧
    (.arrival parent child drop ∉ s.flight → exec (.chainedArrival parent child drop) s = .next s) ∧
    (.completion child ∈ s.flight → Spec.LineAlone s child → (s.line child).relayed = true →
      (s.line child).carry = 0 → 0 < (s.line child).expect → (s.line child).drops = 0 → ∃ t,
      exec (.chainCompletionMessage child) s = .next t ∧ (t.line child).phase = (s.line child).phase + 1 ∧
      (t.line child).relayed = false) ∧
    (.completion child ∉ s.flight → exec (.chainCompletionMessage child) s = .next s) ∧
    ((s.th th).wake.kind = 32 → (s.th th).wake.aux = 1 → ∃ t, exec (.eventOpReturn th) s = .next t ∧
      (t.th th).wake.aux = 2 ∧ (t.th th).retry = true ∧ SameMemory s t)

/-! ## Control registers, traps and handlers -/

/-- R4, R58, R59, R79, R84, R85, R392 and the rules of the single registers: CSRR, CSRW, CSRSET and CSRCLR return the old
value; a number the device lacks and a reserved bank format are illegal; from 0x800 on a context without PRIV takes a
privilege violation. -/
def Obligations.ControlRegisters : Prop :=
  ∀ (d a : Fin 32) (c : BitVec 12) (i : Fin 8) (s : State),
    let old := s.csr c.toNat
    (Config.csrImplemented c = false → ∀ j ∈ [Instr.csrr d c, .csrw d a c, .csrset d a c, .csrclr d a c],
      exec j s = .next (takeTrap 0x01 0 0 s)) ∧
    (Config.csrImplemented c = true → 0x800 ≤ c.toNat → s.priv = false →
      ∀ j ∈ [Instr.csrr d c, .csrw d a c, .csrset d a c, .csrclr d a c], exec j s = .next (takeTrap 0x02 0 0 s)) ∧
    (Config.csrImplemented c = true → (0x800 ≤ c.toNat → s.priv = true) →
      (0x0C0 ≤ c.toNat → c.toNat < 0x0C8 → bits old 0 4 < 10 ∧ bits (s.reg a) 0 4 < 10 ∧
        bits (old ||| s.reg a) 0 4 < 10 ∧ bits (old &&& ~~~s.reg a) 0 4 < 10) →
      exec (.csrr d c) s = .next (s.ret d old) ∧
      exec (.csrw d a c) s = .next ((s.putCsr c.toNat (csrWritten c.toNat old (s.reg a))).ret d old) ∧
      exec (.csrset d a c) s = .next ((s.putCsr c.toNat (old ||| s.reg a &&& csrRw c.toNat)).ret d old) ∧
      exec (.csrclr d a c) s = .next ((s.putCsr c.toNat (old &&& ~~~(s.reg a &&& csrRw c.toNat))).ret d old)) ∧
    (∃ t, exec (.csrw d a 0x0A0) s = .next t ∧ t.core.vecCheck = s.core.vecCheck &&& ~~~1 ||| s.reg a &&& 1) ∧
    (∃ t, exec (.csrw d a 0x0B0) s = .next t ∧ t.me.fpFlags = s.me.fpFlags &&& ~~~(s.reg a &&& 0x7F)) ∧
    (∃ t, exec (.csrw d a 0x0B1) s = .next t ∧ t.core.accSat = s.core.accSat &&& ~~~(s.reg a &&& 7)) ∧
    (∃ t, exec (.csrw d a 0x0B4) s = .next t ∧
      t.core.scrErr = if (s.reg a).getLsbD 63 then 0 else s.core.scrErr) ∧
    (bits (s.reg a) 0 4 < 10 → ∃ t, exec (.csrw d a (0x0C0 + BitVec.ofNat 12 i.val)) s = .next t ∧
      t.core.bankFmt[i] = s.core.bankFmt[i] &&& ~~~0x1FF0F ||| s.reg a &&& 0x1FF0F) ∧
    (10 ≤ bits (s.reg a) 0 4 → exec (.csrw d a (0x0C0 + BitVec.ofNat 12 i.val)) s = .next (takeTrap 0x01 0 0 s)) ∧
    exec (.csrr d 0x0E0) s = .next (s.ret d s.core.lnPos) ∧ exec (.csrr d 0x120) s = .next (s.ret d s.core.cycle)

/-- The thread is one of a context, is not in handler mode, and what it performs is not in its commit window. -/
def Sys2Proof.Spec.Plain (s : State) : Prop := s.me.window = [] ∧ s.inHandler = false ∧ s.core.ctx ≠ none

/-- R42, R356, R376 to R381, R384, R385 and R389: TRAP stops its thread with a service message to the first handler; a terminal
trap ends the launch with the first fault's status; a misused instruction, and the hints. That a message goes to the end of the
handler's queue, however long the queue is, is the model's choice (log 55). -/
def Obligations.TakingTraps : Prop :=
  ∀ (n : Fin 64) (h : Nat × Nat × Nat) (id cause : Nat) (addr : Word) (l : Launch) (s : State),
    (Spec.Plain s → s.firstHandler s.ctxNo 0 = some h → s.isSelf h.2.1 h.2.2 = true → ∃ t m,
      exec (.trap n) s = .next t ∧ t.me.run = .trapWait ∧ t.pc = s.pc + 4 ∧ (∀ r, t.reg r = s.reg r) ∧ SameMemory s t ∧
      t.core.hq = s.core.hq ++ [m] ∧ bits m[0] 0 8 = 0x10 ∧ m[0].getLsbD 8 = false ∧
      m[0].getLsbD 9 = decide (s.cur = .aux) ∧ m[1] = s.pc ∧ m[3] = BitVec.ofNat 64 n.val) ∧
    (Spec.Plain s → cause ∈ [1, 2, 3, 4, 5, 6, 7, 8] → s.core.launch = some id → s.launch? id = some l →
      (∀ m ∈ s.launches, m.id = id → m = l) → s.firstHandler s.ctxNo 0 = some h → s.isSelf h.2.1 h.2.2 = true →
      s.clockStopped = false →
      (∃ l', (takeTrap cause addr 0 s).launch? id = some l' ∧ l'.phase = .ending ∧
        (l.fault = none → l'.fault = some (2, cause, bits s.core.lnPos 20 10 + if s.cur = .aux then 1024 else 0))) ∧
      (takeTrap cause addr 0 s).pri.run = .stopped ∧ (takeTrap cause addr 0 s).core.mat.queue = s.core.mat.queue.filter Cmd.handler ∧
      SameMemory s (takeTrap cause addr 0 s) ∧
      ∃ m, (takeTrap cause addr 0 s).core.hq = s.core.hq ++ [m] ∧ bits m[0] 0 8 = cause ∧ m[0].getLsbD 8 = true ∧
        m[1] = s.pc ∧ m[2] = addr) ∧
    (n.val ≤ 2 → ∃ t, exec (.pwrHint n) s = .next t ∧ t.pc = s.pc + 4 ∧ bits t.core.pwrStat 2 2 = n.val ∧
      KeepsThread none none s t ∧ SameMemory s t) ∧
    (2 < n.val → exec (.pwrHint n) s = .next (takeTrap 0x01 0 0 s)) ∧
    (s.attached = false → s.saving = false → exec .yield s = .next (State.forward .mark (s.advance 4))) ∧
    (s.attached = false → s.saving = true → ∃ t, exec .yield s = .next t ∧ t.pc = s.pc ∧ t.me.wake.kind = 13)

/-- R378, R380, R382 to R385 and R231: a message enters handler mode; TRET leaves it, or loader mode; a fault inside it, by a cause that
code can have there; the posted-store journal as a thread sees its own; a refusal stops its thread. Model's choices: TRAP.NPC of a terminal trap's message is the
message's PC (log 54), a message goes to the end of the handler's queue (log 55), and a refusal stops the code that posted the store
(log 102). -/
def Obligations.HandlersAndJournal : Prop :=
  ∀ (m : Msg) (r : List Msg) (d : Fin 32) (j : Fin 16) (c : Fin 32) (th : ThreadId) (s : State),
    (s.core.hq = m :: r → s.core.hmode = false → (s.core.lmode = false ∨ s.aux.over = true) → s.saving = false → s.atStop .aux = true → ∃ t,
      exec .handlerEntry s = .next t ∧ t.aux.run = .running ∧ t.aux.pc = s.desc s.ctxNo 7 ∧ t.core.trapMsg = m ∧
      t.core.hq = r ∧ t.core.hmode = true ∧ t.core.trapAct = 0 ∧ t.aux.s = s.aux.s ∧ t.aux.x = s.aux.x ∧
      t.core.trapNpc = (if bits m[0] 0 8 = 0x10 ∧ m[0].getLsbD 8 = false then m[1] + 4 else m[1]) &&& ~~~1 ∧
      bits t.core.trapHst 0 56 = bits s.aux.pc 0 56 ∧ SameMemory s t) ∧
    (s.core.hq = [] ∨ s.saving = true → exec .handlerEntry s = .next s) ∧
    (s.inHandler = true → s.inLoader = false → ∃ t, exec .tret s = .next t ∧ t.core.hmode = false ∧ SameMemory s t) ∧
    (s.inHandler = true → s.core.trapMsg[0].getLsbD 8 = false → s.core.trapAct.getLsbD 0 = false →
      s.subject = some .pri → s.pri.run = .trapWait → ∃ t, exec .tret s = .next t ∧ t.pri.run = .running ∧
      t.pri.pc = s.core.trapNpc &&& ~~~1 ∧ t.pri.s = s.pri.s ∧ t.core.hmode = false) ∧
    (s.inLoader = true → ∃ t, exec .tret s = .next t ∧ t.core.lmode = false ∧ t.core.pend = false ∧
      bits t.aux.pc 0 56 = bits s.core.cxLpc 0 56 ∧ (s.pri.run = .missWait → t.pri.run = .running) ∧ SameMemory s t) ∧
    (s.inHandler = false → s.inLoader = false → exec .tret s = .next (takeTrap 0x02 0 0 s)) ∧
    (s.core.hmode = true → (1 ≤ c.val ∧ c.val ≤ 8 ∨ c = 0x10 ∨ c = 0x13) → ∃ t, exec (.handlerFault c) s = .next t ∧
      t.core.hmode = false ∧ SameMemory s t) ∧
    (s.core.hmode = false ∨ ¬(1 ≤ c.val ∧ c.val ≤ 8 ∨ c = 0x10 ∨ c = 0x13) → exec (.handlerFault c) s = .next s) ∧
    (s.inHandler = false →
      exec (.jnlRd d j) s = .next (s.ret d (match s.me.journal[j].state with
        | .free => 0
        | .posted => 1 <<< 62 ||| s.me.journal[j].addr &&& 0xFFFFFFFFFFFFFF
        | .refused => 1 <<< 63 ||| s.me.journal[j].addr &&& 0xFFFFFFFFFFFFFF)) ∧
      (s.me.journal[j].state ≠ .refused →
        exec (.jnlDrop j) s = .next (s.advance 4) ∧ exec (.jnlRetry j) s = .next (s.advance 4)) ∧
      (s.me.journal[j].state = .refused →
        (∃ t, exec (.jnlDrop j) s = .next t ∧ t.pc = s.pc + 4 ∧ t.me.journal = s.me.journal.set j JEntry.reset ∧
          SameMemory s t) ∧
        ∃ (t : State) (n : Nat), exec (.jnlRetry j) s = .next t ∧ t.pc = s.pc + 4 ∧
          t.me.journal = s.me.journal.set j { s.me.journal[j] with state := .posted, port := n } ∧
          (n = 0 ↔ s.postLocked s.me.journal[j].addr = false ∧ ∀ k : Fin 16, s.me.journal[k].waits = true →
            bits s.me.journal[k].addr 19 10 ≠ bits s.me.journal[j].addr 19 10) ∧
          (n ≠ 0 → ∀ k : Fin 16, s.me.journal[k].port < n))) ∧
    ((th = .pri ∨ s.core.loaderWanted = false) → (s.th th).refused = j :: [] →
      s.interrupted th (s.th th).journal[j].mode = true → s.interruptedIdle = false → ∀ h,
      s.firstHandler s.ctxNo 0 = some h → s.isSelf h.2.1 h.2.2 = true → ∃ t x, exec (.stopPoint th) s = .next t ∧
        (t.th th).run = (s.th th).run ∧ (t.th th).refused = [] ∧ t.core.hq = s.core.hq ++ [x] ∧ x[1] = s.interruptedPc ∧
        SameMemory s t) ∧
    (s.atStop th = true → (th = .pri ∨ s.core.loaderWanted = false) → (s.th th).refused = j :: [] →
      s.interrupted th (s.th th).journal[j].mode = false → (s.th th).over = false → ∀ h, s.firstHandler s.ctxNo 0 = some h → s.isSelf h.2.1 h.2.2 = true → ∃ t x,
        exec (.stopPoint th) s = .next t ∧ (t.th th).run = .trapWait ∧ (t.th th).refused = [] ∧
        t.core.hq = s.core.hq ++ [x] ∧ bits x[0] 0 8 = 0x11 ∧ bits x[0] 24 4 = j.val ∧
        x[2] = (s.th th).journal[j].addr ∧ SameMemory s t) ∧
    (s.atStop th = true → (th = .pri ∨ s.core.loaderWanted = false) → (s.th th).refused = [] →
      exec (.stopPoint th) s = .next s)

/-! ## Translation, and the events of the memory siding -/

/-- R395, R397 and R398: TLB.INV, TLB.SHOOT and the states of a shoot-down. Model's choices: a core whose cluster's clock stands is asleep
(log 20), the DONE word is named by a virtual address of the issuing context (log 53), and what a shoot-down makes this core write back
(log 63), and when it is Confirmed (log 103). -/
def Obligations.Shootdowns : Prop :=
  ∀ (a b : Fin 32) (i : Fin 4) (h : Shoot) (p key : Nat) (l : List Byte) (s s0 s1 s2 : State),
    (∃ t, exec (.tlbInv a b) s = .next t ∧ t.pc = s.pc + 4 ∧ KeepsThread none none s t ∧ SameMemory s t ∧
      (∀ e, e ∈ t.core.dtlb ↔ e ∈ s.core.dtlb ∧ e.meets s.ctxNo (s.reg a).toNat (s.reg b).toNat = false) ∧
      (∀ e, e ∈ t.core.itlb ↔ e ∈ s.core.itlb ∧ e.meets s.ctxNo (s.reg a).toNat (s.reg b).toNat = false)) ∧
    (s.priv = false → exec (.tlbShoot a b) s = .next (takeTrap 0x02 0 0 s)) ∧
    (s.priv = true → bits (s.reg b) 12 52 ≠ 0 → exec (.tlbShoot a b) s = .next (takeTrap 0x03 0 0 s)) ∧
    (s.priv = true → bits (s.reg b) 12 52 = 0 → (s.reg a).toNat % 8 = 0 → hbmWord Need.load (s.reg a) s = .ok (p, s0) →
      loadBytes (s.reg a) 32 s0 = .ok (l, s1) → leNat (l.take 8) < 2 →
      leNat ((l.drop 8).take 8) % 65536 = 0 → leNat ((l.drop 16).take 8) % 65536 = 0 →
      hbmWord Need.store (BitVec.ofNat 64 (leNat ((l.drop 24).take 8))) s1 = .ok (key, s2) →
      (List.finRange 4).find? (fun j => s2.shoots[j].isNone) = some i → ∃ t,
        exec (.tlbShoot a b) s = .next t ∧ t.pc = s2.pc + 4 ∧ t.mem = s2.mem ∧
        t.shoots[i] = some ⟨bits (s.reg b) 0 12, decide (leNat (l.take 8) = 1),
          leNat ((l.drop 8).take 8) % 2 ^ 64, leNat ((l.drop 16).take 8) % 2 ^ 64, key, .draining⟩) ∧
    (s.priv = true → bits (s.reg b) 12 52 = 0 → (s.reg a).toNat % 8 = 0 → hbmWord Need.load (s.reg a) s = .ok (p, s0) →
      loadBytes (s.reg a) 32 s0 = .ok (l, s1) → leNat (l.take 8) = 2 →
      leNat ((l.drop 8).take 8) % 65536 = 0 → leNat ((l.drop 16).take 8) % 65536 = 0 →
      hbmWord Need.store (BitVec.ofNat 64 (leNat ((l.drop 24).take 8))) s1 = .ok (key, s2) →
      (let c := bits (s.reg b) 0 12
        let base := leNat ((l.drop 8).take 8) % 2 ^ 64
        let len := leNat ((l.drop 16).take 8) % 2 ^ 64
        (∀ x, s2.shootFor c base len = none ∨ (s2.shootFor c base len = some i ∧ s2.shoots[i] = some h ∧ h.state = .confirmed) →
          Memory.wf s2.mem = true → swf false 0 s2.tags = true → ∃ t, exec (.tlbShoot a b) s = .next t ∧ t.pc = s2.pc + 4 ∧
          (s2.shootFor c base len = some i → t.shoots = s2.shoots.set i none) ∧
          (s2.shootFor c base len = none → t.shoots = s2.shoots) ∧
          t.word key = 2 ∧ t.tag key = true ∧
          (x ∈ t.clusterTlb ↔ x ∈ s2.clusterTlb ∧ x.meets c base len = false) ∧
          (x ∈ t.dieTlb ↔ x ∈ s2.dieTlb ∧ x.meets c base len = false)) ∧
        (s2.shootFor c base len = some i → s2.shoots[i] = some h → h.state ≠ .confirmed → ∃ t,
          exec (.tlbShoot a b) s = .next t ∧ t.pc = s2.pc ∧ t.me.wake.kind = 32 ∧ t.shoots = s2.shoots))) ∧
    (s.shoots[i] = some h → h.state = .draining → ∃ t, exec (.shootdownBlocked i) s = .next t ∧
      t.shoots[i] = some { h with state := .confirming } ∧
      (s.power.stopped.getLsbD (clusterOf s.core.phys) = true → t.core.asleep = true) ∧
      (s.power.stopped.getLsbD (clusterOf s.core.phys) = false → t.core.asleep = s.core.asleep)) ∧
    (s.shoots[i] = some h → h.state = .confirming → s.writesDone h.ctx = true → dirtyLines s.core.l1 = [] → Memory.wf s.mem = true →
      swf false 0 s.tags = true → ∃ t, exec (.shootdownConfirmed i) s = .next t ∧ t.word h.doneKey = 1 ∧
      t.tag h.doneKey = true ∧ t.shoots[i] = some { h with state := .confirmed }) ∧
    (s.shoots[i] = none → exec (.shootdownBlocked i) s = .next s ∧ exec (.shootdownConfirmed i) s = .next s) ∧
    exec .coreWakeTlbFlush s = .next { s with core := { s.core with asleep := false, itlb := [], dtlb := [] } }

/-- An older posted store of the thread to the target core of entry j waits to be performed (R151). -/
def Sys2Proof.Spec.OlderStore (x : Thread) (j : Fin 16) : Prop :=
  ∃ i : Fin 16, x.journal[i].waits = true ∧ bits x.journal[i].addr 19 10 = bits x.journal[j].addr 19 10 ∧
    x.journal[i].port < x.journal[j].port

/-- R151, R152, R157, R263, R284 and R396: waiters are served again, page waits are parked and answered, posted stores are
acknowledged or refused, a line leaves the L1 with its dirty bytes written back, and a far side acknowledges. -/
def Sys2Proof.Spec.MemoryEvents : Prop :=
  ∀ (t : ThreadId) (j : Fin 16) (line k : Nat) (b : L1Byte) (s : State),
    let x := s.th t
    (tagReady t s = true → exec (.tagWaiterWake t) s = .next (s.setTh t { x with retry := true })) ∧
    (tagReady t s = false → exec (.tagWaiterWake t) s = .next s) ∧
    (x.wake.kind = 12 → x.wake.done = false → ∃ u, exec (.pageWaitPark t) s = .next u ∧ (u.th t).wake.kind = 12 ∧
      (u.th t).pc = x.pc ∧ (u.th t).wake.addr = x.wake.addr ∧
      ((u.th t).wake.done = true ↔ s.queueRoom (s.desc s.ctxNo 4).toNat ≠ none)) ∧
    (x.wake.kind ≠ 12 → exec (.pageWaitPark t) s = .next s ∧ exec (.faultReply t) s = .next s) ∧
    (x.wake.kind = 12 → x.wake.done = true → x.wake.aux ≠ 0xFFFF → s.tag (replyKey t s) = true →
      (s.word (replyKey t s) = 0 → x.wake.ofFetch = true →
        exec (.faultReply t) s = .next (s.setTh t { x with wake := Wake.none, retry := false })) ∧
      (s.word (replyKey t s) = 0 → x.wake.ofFetch = false → ∃ u, exec (.faultReply t) s = .next u ∧ OnlyMe { s with cur := t } { u with cur := t } ∧
        (u.th t).retry = true ∧ (u.th t).pc = x.pc ∧ (u.th t).wake.kind = 32) ∧
      (s.word (replyKey t s) ≠ 0 → x.wake.ofFetch = false → ∃ u, exec (.faultReply t) s = .next u ∧ u.cur = s.cur ∧
        u = { takeTrap 0x03 x.wake.addr 0 (({ s with cur := t } : State).setMe { x with wake := Wake.none }) with cur := s.cur }) ∧
      (s.word (replyKey t s) ≠ 0 → x.wake.ofFetch = true → ∃ u, exec (.faultReply t) s = .next u ∧ u.cur = s.cur ∧
        u = { takeTrap 0x03 x.wake.addr 0 ({ s with cur := t } : State).newTag with cur := s.cur })) ∧
    (x.journal[j].waits = true → s.entryRefused x.journal[j].addr = false →
      s.postLocked x.journal[j].addr = true ∨ Spec.OlderStore x j → exec (.postedStoreAck t j) s = .next s) ∧
    (x.journal[j].waits = true → s.entryRefused x.journal[j].addr = false →
      s.postLocked x.journal[j].addr = false → ¬ Spec.OlderStore x j → ∃ u, exec (.postedStoreAck t j) s = .next u ∧ (u.th t).journal[j].state = .free ∧
      u.mem = (writeSites s (s.postSites x.journal[j].addr) (leBytes 8 x.journal[j].data.toNat)).mem) ∧
    (x.journal[j].state = .posted → s.entryRefused x.journal[j].addr = false → x.journal[j].port = 0 → ∃ u,
      exec (.postedStoreAck t j) s = .next u ∧ (u.th t).journal[j].state = .free ∧ SameMemory s u ∧
      ∀ i : Fin 16, i ≠ j → (u.th t).journal[i] = x.journal[i]) ∧
    (x.journal[j].state = .posted → s.entryRefused x.journal[j].addr = true → ∃ u,
      exec (.postedStoreRefusal t j) s = .next u ∧ (u.th t).journal[j].state = .refused ∧ SameMemory s u ∧
      (x.run ≠ .ended → x.run ≠ .stopped → x.journal[j].mode ≠ .finished → (u.th t).refused = x.refused ++ [j])) ∧
    (x.journal[j].state ≠ .posted →
      exec (.postedStoreAck t j) s = .next s ∧ exec (.postedStoreRefusal t j) s = .next s) ∧
    (Memory.wf s.mem = true → swf none 0 s.core.l1 = true →
      (2 ^ 60 ≤ line * 64 → line * 64 < 2 ^ 61 → s.core.acePages.contains ((line * 64 - 2 ^ 60) / 65536) = false) → ∃ u, exec (.l1Eviction line) s = .next u ∧
      (∀ i < 64, u.l1 (line * 64 + i) = none) ∧
      (∀ i, i < line * 64 ∨ line * 64 + 64 ≤ i → u.l1 i = s.l1 i ∧ u.byte i = s.byte i) ∧
      (∀ i < 64, k = line * 64 + i → s.l1 k = some b → b.dirty = true → u.byte k = b.b) ∧
      (∀ i < 64, k = line * 64 + i → (∀ c, s.l1 k = some c → c.dirty = false) → u.byte k = s.byte k) ∧
      (∀ i, u.tag i = s.tag i)) ∧
    exec (.linkAck t) s = .next (s.setTh t { x with unacked := x.unacked - 1 })

/-! ## The halyard -/

/-- The state that the foot of the lane finds as a cycle's issue falls due: threads without an instruction stand in their waits, and a
rebuild of a last-writer table is one cycle further (R46). -/
def Sys2Proof.Spec.footState (m : State) : State :=
  let w := waitFetch (waitFetch (starve m) .pri) .aux
  { w with pri := { w.pri with rebuild := w.pri.rebuild - 1 }, aux := { w.aux with rebuild := w.aux.rebuild - 1 } }

/-- The foot serves this thread (R24): it has an instruction ready, and the primary thread goes first unless the auxiliary one has
waited for seven cycles. -/
def Sys2Proof.Spec.Foot (s : State) (t : ThreadId) : Prop :=
  s.canIssue t = true ∧
    match t with
    | .pri => s.canIssue .aux = true → s.auxIdle < 7
    | .aux => s.canIssue .pri = true → 7 ≤ s.auxIdle

/-- A packet or track entry stands at a completion's position. -/
def Sys2Proof.Spec.beside (c w : WEntry) : Prop := (w.stage = .lane ∨ w.stage = .track) ∧ w.pos = c.pos

/-- A packet, or an entry that has not left its track, stands at a completion's position and is a younger writer of its register
(R33, R36). -/
def Sys2Proof.Spec.strikes (c w : WEntry) : Prop :=
  (w.stage = .lane ∨ w.stage = .track ∨ w.stage = .buffer) ∧ w.pos = c.pos ∧ w.dest = c.dest ∧ older c.tag w.tag = true

/-- How a completion c with value v meets the entries of its thread (R33, R37): each that awaits its tag at its position captures
the value, and by an injection at one of its candidate sidings it is offered there; then a younger writer of its register at
its position strikes it, where it is not struck yet. That a struck completion is captured all the same is the model's reading
(log 28). -/
def Sys2Proof.Spec.Met (c : WEntry) (v : Word) (injected : Bool) (l after : List WEntry) (strikes : Nat) : Prop :=
  ∃ cap : WEntry → WEntry,
    (∀ w, ¬ Spec.beside c w ∨ (∀ o ∈ w.ops, o.await = none) → cap w = w) ∧
    (∀ w, Spec.beside c w → (∃ o ∈ w.ops, o.await ≠ none) → ∃ b, cap w = { w with
      ops := w.ops.map fun o => if o.await = some c.tag then { o with value := v, await := none } else o, offer := b } ∧
      (b = true ↔ injected = true ∧ w.stage = .lane ∧ w.pos ∈ sidings w.instr ∧
        ∀ o ∈ w.ops, o.await = none ∨ o.await = some c.tag)) ∧
    (((c.struck = true ∨ ∀ w ∈ l, ¬ Spec.strikes c w) ∧
        after = l.map cap ∧ strikes = 0) ∨
      (c.struck = false ∧ (∃ w ∈ l, Spec.strikes c w) ∧ strikes = 1 ∧
        after = (l.map cap).map fun w => if w.tag = c.tag then { w with struck := true } else w))

/-- R22, R24 to R28 and R46: once a cycle is done the next one begins, and an issue enters the instruction, with its operands by
the last-writer table, at the window's end; a fault of the foot enters as a completed trap entry and holds the thread. Model's choices:
the thread that R24 picks issues nothing while F is occupied, unless its instruction needs no packet (log 98), and a completion that
reaches F is accepted before the next issue (log 101). -/
def Sys2Proof.Spec.Issues : Prop :=
  ∀ (t : ThreadId) (i : Instr) (s s1 : State) (x : Thread) (r : Dest) (v : Word),
    let m := moveLane s
    ((∀ w ∈ x.window, w.dest ≠ some r) → x.operand r = ⟨r, x.get r, none⟩) ∧
    (∀ pre w post, x.window = pre ++ w :: post → w.dest = some r → (∀ y ∈ post, y.dest ≠ some r) →
      (w.stage = .window → w.comp = .result v → x.operand r = ⟨r, v, none⟩) ∧
      (w.stage ≠ .window → x.operand r = ⟨r, 0, some w.tag⟩)) ∧
    (s.cycleDone = false → exec .issue s = .next s) ∧
    (s.cycleDone = true → Spec.Foot m t → threadFetch ((Spec.footState m).atFoot t) = .ok (i, s1) → (∀ c off, i ≠ .loop c off) →
      (i = .nop ∨ i = .cNop ∨ m.packetAt 0 = false) → m.slotTaken 0 = false → ∃ u e,
      exec .issue s = .next u ∧ u.me.window = s1.me.window ++ [e] ∧ u.me.lastTag = s1.me.lastTag + 1 ∧
      e.tag = s1.me.lastTag + 1 ∧ e.instr = i ∧ e.pc = ((Spec.footState m).atFoot t).pc ∧ e.dest = dest i ∧ e.pos = 0 ∧
      e.ops = (reads i).map s1.me.operand ∧ e.struck = false ∧ u.me.fetchPc = e.next ∧ SameMemory s1 u ∧
      (i = .nop ∨ i = .cNop → e.stage = .window ∧ e.comp = .status) ∧
      (i ≠ .nop → i ≠ .cNop → e.stage = .lane ∧ e.comp = .none) ∧
      (kindOf i ≠ .branch → e.next = e.pc + BitVec.ofNat 64 (sizeOf' i))) ∧
    (∀ c a j, s.cycleDone = true → Spec.Foot m t → threadFetch ((Spec.footState m).atFoot t) = .error (.trap c a j s1) → ∃ u e,
      exec .issue s = .next u ∧ u.me.window = s1.me.window ++ [e] ∧ e.stage = .window ∧ e.comp = .trap c a 0 ∧
      e.dest = none ∧ u.me.hold = true) ∧
    (s.cycleDone = true → m.pri.mayIssue = false → m.aux.mayIssue = false → m.starves .pri = false → ∃ u,
      exec .issue s = .next u ∧ SameMemory s u ∧ u.pri = { m.pri with rebuild := m.pri.rebuild - 1 } ∧
      u.aux = { m.aux with rebuild := m.aux.rebuild - 1 })

/-- R29, R32, R35, R36 and R37: a packet that is not held climbs one position when the one above is free, one that is held holds all
behind it, and until an operation of the cycle has ended a siding with room
accepts one of its candidates whose operands are present, or for which it is the last siding. -/
def Sys2Proof.Spec.Dispatches : Prop :=
  ∀ (t : ThreadId) (s : State) (tag : BitVec 7) (n : Nat) (old young : List WEntry) (e : WEntry),
    let x := s.th t
    (x.window = old ++ e :: young → (∀ y ∈ old, y.tag ≠ tag) → e.tag = tag →
      (e.stage = .lane → e.offer = false → e.pos ∈ sidings e.instr →
        (∀ o ∈ e.ops, o.await = none) ∨ e.pos = (sidings e.instr).getLastD 0 → s.trackFree e.pos = true →
        e.pos ∉ s.core.cyc.accepted → s.core.cyc.ended = false → x.raised = none → ∃ u, exec (.dispatch t tag) s = .next u ∧
        u.th t = { x with window := old ++ { e with stage := .track } :: young } ∧
        u.core = { s.core with cyc := { s.core.cyc with accepted := e.pos :: s.core.cyc.accepted } } ∧ SameMemory s u) ∧
      (e.stage ≠ .lane ∨ e.pos ∉ sidings e.instr ∨ s.trackFree e.pos = false ∨ e.pos ∈ s.core.cyc.accepted ∨ s.core.cyc.ended = true ∨
          (∃ o ∈ e.ops, o.await ≠ none) ∧ e.pos ≠ (sidings e.instr).getLastD 0 →
        exec (.dispatch t tag) s = .next s)) ∧
    ((∀ y ∈ x.window, y.tag ≠ tag) → exec (.dispatch t tag) s = .next s) ∧
    (s.entries.find? (fun y => decide (y.2.stage = .lane) && decide (y.2.pos = n)) = some (t, e) → e.offer = false →
      (∀ y ∈ x.window, y.tag = e.tag → y = e) →
      (n ≠ (sidings e.instr).getLastD 0 → s.presented t e = false → s.packetAt (n + 1) = false →
        s.slotTaken (n + 1) = false → ((climbAt n s).th t).window =
          x.window.map fun w => if w.tag = e.tag then { w with pos := n + 1 } else w) ∧
      (n = (sidings e.instr).getLastD 0 ∨ s.presented t e = true ∨ s.packetAt (n + 1) = true → climbAt n s = s) ∧
      (s.heldPacket t e = true → ∀ l, climbFrom s (n :: l) = s))

/-- R22, R24 to R29, R32 and R35 to R37: issue, the climb of packets, and dispatch. Model's choices: the thread that R24 picks issues
nothing while F is occupied, unless its instruction needs no packet (log 98), and a completion that reaches F is accepted before the next
issue (log 101). -/
def Obligations.IssueAndDispatch : Prop := Spec.Issues ∧ Spec.Dispatches

/-- R29, R30, R33, R38 and R40: an operation that ends injects its completion, or leaves it in its siding's output buffer while
the lane slot is taken; the completion meets the entries at its position, and at the foot it enters the window. -/
def Sys2Proof.Spec.Completions : Prop :=
  ∀ (t : ThreadId) (w : Bool) (d a b : Fin 32) (va vb : Word) (n : Nat) (e : WEntry) (old young : List WEntry) (s : State),
    let x := s.th t
    let r := Spec.sx w (va + vb)
    (x.window = e :: young → (∀ y ∈ young, y.tag ≠ e.tag) → x.stq = [] → x.raised = none → e.stage = .track →
      e.started = true → e.comp = .none → e.struck = false → e.instr = .add w d (.s a) (.s b) → e.dest = some (.s d) →
      d ≠ 0 → e.ops = [⟨.s a, va, none⟩, ⟨.s b, vb, none⟩] → (a = b → va = vb) → (a = 0 → va = 0) → (b = 0 → vb = 0) →
      s.dispatchDue = false → s.core.cyc.closed = false →
      (s.slotTaken e.pos = false → s.buffered e.pos = [] → ∃ u k, exec (.completionInject t e.tag) s = .next u ∧
        Spec.Met { e with stage := .completion, comp := .result r, next := e.pc + 4 } r true
          ({ e with stage := .completion, comp := .result r, next := e.pc + 4 } :: young) (u.th t).window k ∧
        u.core.hy[2] = s.core.hy[2] + BitVec.ofNat 64 k ∧ (u.th t).s = x.s ∧ SameMemory s u) ∧
      (s.slotTaken e.pos = true ∨ s.buffered e.pos ≠ [] → (s.buffered e.pos).length < 2 → ∃ u,
        exec (.completionInject t e.tag) s = .next u ∧
        (u.th t).window = { e with stage := .buffer, comp := .result r, next := e.pc + 4 } :: young ∧
        u.core.outBuf = s.core.outBuf ++ [(e.pos, t, e.tag)] ∧ (u.th t).s = x.s ∧ SameMemory s u) ∧
      ((s.buffered e.pos).length = 2 → exec (.completionInject t e.tag) s = .next s)) ∧
    ((∀ y ∈ x.window, y.tag = e.tag → y.stage ≠ .track) ∨ s.core.cyc.closed = true →
      exec (.completionInject t e.tag) s = .next s) ∧
    (∀ v q, s.entries.find? (fun y => decide (y.2.stage = .completion) && decide (y.2.pos = n)) = some (t, e) →
      x.window.find? (fun y => decide (y.tag = e.tag)) = some e → e.comp = .result v → e.dest = some q → ∃ k,
      Spec.Met e v false x.window ((meetAt n s).th t).window k ∧
      (meetAt n s).core.hy[2] = s.core.hy[2] + BitVec.ofNat 64 k) ∧
    (x.window = old ++ e :: young → (∀ y ∈ old, y.tag ≠ e.tag) → e.stage = .completion → x.raised = none →
      (e.pos = 0 → exec (.completionAccept t e.tag) s =
        .next (s.setTh t { x with window := old ++ { e with stage := .window } :: young })) ∧
      (e.pos ≠ 0 → exec (.completionAccept t e.tag) s = .next s))

/-- R40 and R41: the oldest instruction commits when its completion is in the window, at most two a cycle, and a committed store
is performed after. -/
def Sys2Proof.Spec.Commits : Prop :=
  ∀ (t : ThreadId) (d b : Fin 32) (e : WEntry) (young : List WEntry) (off : BitVec 11) (z : StSize) (p : PStore)
    (l : List PStore) (s : State),
    let x := s.th t
    let at' := { s with cur := t }
    (s.core.cyc.committed = true → exec .commit s = .next s) ∧
    (s.core.cyc.committed = false → s.pri.window = e :: young → (∀ y ∈ young.head?, y.stage ≠ .window) → s.aux.window = [] →
      s.pri.run = .running → s.pri.stopped = false → s.pri.raised = none → s.mustStop .pri = false → e.stage = .window →
      (∀ v, e.comp = .result v → e.dest = some (.s d) → d ≠ 0 → kindOf e.instr = .alu → ∃ u, exec .commit s = .next u ∧
        u.pri.window = young ∧ u.pri.pc = e.next ∧ u.core.cyc.committed = true ∧
        (∀ r, u.pri.getS r = if r = d then v else s.pri.getS r) ∧ (∀ n, u.pri.getX n = s.pri.getX n) ∧ SameMemory s u) ∧
      (e.comp = .status → e.dest = none → e.instr = .st d b off .w →
        (∃ y, runEntry e { s with cur := .pri } = .done y) → ∃ u q, exec .commit s = .next u ∧
        u.pri.window = young ∧ u.pri.pc = e.next ∧ u.pri.stq = s.pri.stq ++ [q] ∧ q.tag = e.tag ∧ q.instr = e.instr ∧
        SameMemory s u)) ∧
    (∀ c y i, s.pri.window = e :: young → s.aux.window = [] → e.stage = .window → e.comp = .trap c y i →
      exec .commit s = .next s) ∧
    (x.stq = p :: l → p.instr = .st d b off z →
      let s1 := at'.setMe { x with s := p.s, x := p.x, v := p.v }
      let va := s1.reg b + BitVec.ofInt 64 (off.toInt * Spec.storeSize z)
      Spec.OwnScratch s1 va (Spec.storeSize z) true → Memory.wf s.mem = true → ∃ u,
        exec (.storePerformed t) s = .next u ∧ (u.th t).stq = l ∧ (u.th t).s = x.s ∧ (u.th t).pc = x.pc ∧
        (∀ j < Spec.storeSize z,
          u.byte (Spec.ownKey s va.toNat + j) = BitVec.ofNat 8 ((s1.reg d).toNat / 256 ^ j)) ∧
        (∀ k, k < Spec.ownKey s va.toNat ∨ Spec.ownKey s va.toNat + Spec.storeSize z ≤ k → u.byte k = s.byte k)) ∧
    (x.stq = [] → exec (.storePerformed t) s = .next s)

/-- R29, R30, R33, R36, R38, R40 and R41: completions, commits and committed stores. That a struck completion is captured all the same, and
that it is struck once, is the model's reading (log 28). -/
def Obligations.CompletionAndCommit : Prop := Spec.Completions ∧ Spec.Commits

/-- R41, R42, R44 to R46, R50 to R52, R59 and R438: trap delivery, a kill, which a trap at the commit head supersedes, the messages of
fetch slaving, and a code line read again. Model's choices: how a slaved group's records and marks stand in its cores (log 31), and that an instruction cache keeps its
lines until an INSTRUCTION_FETCH or an invalidation (log 32). -/
def Obligations.KillsTrapsAndSlaving : Prop :=
  ∀ (t : ThreadId) (b : BitVec 7) (a : Word) (taken redirect : Bool) (s : State),
    let x := s.th t
    let k := s.core.slave
    (∀ e l c y i, x.window = e :: l → e.stage = .window → e.comp = .trap c y i → x.raised = none → ∃ u,
      exec (.trapDelivery t) s = .next (deliverTrap c y i u) ∧ u.cur = t ∧
      u.me = { x with window := [], pc := e.pc, lastTag := e.tag } ∧ SameMemory s u) ∧
    (x.window = [] → exec (.trapDelivery t) s = .next s) ∧
    (x.raised = some (b, a) → ((closeCycle s).th t).trapDue = false → ∃ u, exec (.kill t b) s = .next u ∧
      (u.th t).window.map WEntry.tag = (x.window.map WEntry.tag).filter (fun g => 63 < (g - b).toNat) ∧
      (u.th t).raised = none ∧ (u.th t).fetchPc = a ∧ (u.th t).lastTag = b - 1 ∧ (u.th t).rebuild = 2 ∧
      (u.th t).s = x.s ∧ u.core.hy[3] = s.core.hy[3] + 1 ∧ SameMemory s u) ∧
    (x.raised = none ∨ ((closeCycle s).th t).trapDue = true → exec (.kill t b) s = .next s) ∧
    (k.role = .attached ∨ (k.role = .detached ∧ k.stale = 0) → ∃ u, exec (.outcomeRecordArrival taken redirect) s = .next u ∧
      u.core.slave.outcomes = k.outcomes ++ [(taken, redirect, k.arrived)] ∧ u.pri = s.pri ∧ SameMemory s u) ∧
    (k.role = .detached → k.stale ≠ 0 → ∃ u, exec (.outcomeRecordArrival taken redirect) s = .next u ∧
      u.core.slave.outcomes = k.outcomes ∧ u.pri = s.pri ∧ SameMemory s u ∧
      u.core.slave.stale = (if redirect then 0 else k.stale - 1)) ∧
    (k.role = .single ∨ k.role = .leader → exec (.outcomeRecordArrival taken redirect) s = .next s) ∧
    (k.role = .attached → exec .performMarkArrival s = .next (s.setSlave { k with marks := k.marks + 1 })) ∧
    (k.role ≠ .attached → exec .performMarkArrival s = .next s) ∧
    (∀ l s1, codeLoc x.fetchAddr s = .ok (l, s1) → (∀ p, l ≠ .host p true) → ∃ u, exec (.instructionFetch t) s = .next u ∧ SameMemory s1 u ∧
      u.pri = s1.pri ∧ u.aux = s1.aux ∧
      ((∀ j < 8, s.poisoned (l.key / 64 * 64 + 8 * j) = false) →
        l.key / 64 ∉ u.core.badLines ∧ u.cached (l.key / 64) = some (s1.bytes (l.key / 64 * 64) 64)))

/-! ## Queues, launches and the accesses of outside agents -/

/-- The queue's packet p of some TYPE, posted in slot t with HEAD at hk, may be taken, and passes checks 1 and 2 (R350, R351,
R357): its reserved bits are zero, and SEQ is the slot index. -/
def Sys2Proof.Spec.Takes (s : State) (c q t hk ty : Nat) (p : Vector Word 16) : Prop :=
  s.posted c q = some (t, hk, p) ∧ s.mayTake c q t p = true ∧ bits p[0] 60 4 = ty ∧ bits p[0] 48 12 = 0 ∧
    bits p[0] 0 32 = 0 ∧ bits p[0] 32 16 = t % 65536

/-- Words n to 15 of a packet are zero. -/
def Sys2Proof.Spec.ZeroFrom (p : Vector Word 16) (n : Nat) : Prop := ∀ j : Fin 16, n ≤ j.val → p[j] = 0

/-- R350, R351, R356, R357, R362 and R368: taking a packet moves HEAD and empties the header's tag; each packet's work and its
completion status; what is not posted is not taken; a BARRIER's release waits for the far sides' acknowledgements. Model's choices: a
WAIT that has been taken may end while its context is not Running (log 29), a LOAD whose object cannot be read has the status of a bad
MAGIC (log 80), and what a bad DONE word posts (log 23). -/
def Obligations.QueuePackets : Prop :=
  ∀ (c : Fin 4096) (q : Fin 64) (t hk k : Nat) (p : Vector Word 16) (s : State),
    let s1 := s.takeSlot c q t hk
    let va := p[2].toNat
    let held := s.core.ctx = some c.val ∧ (s.pri.unacked ≠ 0 ∨ s.aux.unacked ≠ 0)
    (∀ f : Nat × Nat × Nat, s.writeStatus c 0 f = s ∧
      ((∃ e, s.walk c va = .ok e ∧ e.loc = 0 ∧ e.w = true) → va ≠ 0 → va % 8 = 0 → pagedVa va = true →
        s.vKey c va = some k →
        s.writeStatus c p[2] f = s.fillWord k (BitVec.ofNat 64 (f.1 * 2 ^ 56 + f.2.1 % 256 * 2 ^ 48 + f.2.2 % 2 ^ 48)))) ∧
    (Memory.wf s.mem = true → swf false 0 s.tags = true → s.vKey c (s.slotVa c q t) = some k →
      s1.word hk = BitVec.ofNat 64 (t + 1) ∧ s1.tag k = false ∧
      ∀ j, j < hk ∨ hk + 8 ≤ j → s1.byte j = s.byte j) ∧
    (s.posted c q = none → ∀ e ∈ [Instr.queueLaunchPacket c q, .queueLoadPacket c q, .queueUnloadPacket c q,
      .queueWaitPacket c q, .queueFillPacket c q, .queueBarrierPacket c q], exec e s = .next s) ∧
    (held → exec (.queueBarrierPacket c q) s = .next s) ∧
    (¬held → s.posted c q = some (t, hk, p) → s.mayTake c q t p = true → bits p[0] 60 4 = 5 →
      (bits p[0] 48 12 ≠ 0 ∨ bits p[0] 0 32 ≠ 0 → exec (.queueBarrierPacket c q) s = .next (s1.writeStatus c p[1] (1, 1, 0))) ∧
      (bits p[0] 48 12 = 0 → bits p[0] 0 32 = 0 → Spec.ZeroFrom p 2 → bits p[0] 32 16 ≠ t % 65536 →
        exec (.queueBarrierPacket c q) s = .next (s1.writeStatus c p[1] (1, 2, 0)))) ∧
    (¬held → Spec.Takes s c q t hk 5 p → Spec.ZeroFrom p 2 →
      exec (.queueBarrierPacket c q) s = .next (s1.writeStatus c p[1] (0, 0, 0))) ∧
    (Spec.Takes s c q t hk 4 p → Spec.ZeroFrom p 4 →
      ((s1.goodWord c va fun e => e.w) = true → s1.vKey c va = some k →
        exec (.queueFillPacket c q) s = .next ((s1.fillWord k p[3]).writeStatus c p[1] (0, 0, 0))) ∧
      ((s1.goodWord c va fun e => e.w) = false →
        exec (.queueFillPacket c q) s = .next (s1.writeStatus c p[1] (1, 10, 0)))) ∧
    (Spec.Takes s c q t hk 3 p → Spec.ZeroFrom p 3 →
      ((s1.goodWord c va fun e => e.r) = true → ∃ u : State, exec (.queueWaitPacket c q) s = .next u ∧
        (u.queue c q).waiting = some (t, p) ∧ SameMemory s1 u) ∧
      ((s1.goodWord c va fun e => e.r) = false →
        exec (.queueWaitPacket c q) s = .next (s1.writeStatus c p[1] (1, 10, 0)))) ∧
    ((s.queue c q).waiting = some (t, p) → s.vKey c va = some k →
      (s.tag k = true → ∃ u : State, exec (.waitPacketEnd c q) s = .next (u.writeStatus c p[1] (0, 0, 0)) ∧
        (u.queue c q).waiting = none ∧ SameMemory s u) ∧
      (s.tag k = false → exec (.waitPacketEnd c q) s = .next s)) ∧
    ((s.queue c q).waiting = none → exec (.waitPacketEnd c q) s = .next s) ∧
    (Spec.Takes s c q t hk 2 p → Spec.ZeroFrom p 3 →
      ((s1.queue c q).count va = 0 → exec (.queueUnloadPacket c q) s = .next (s1.writeStatus c p[1] (1, 3, 0))) ∧
      (∀ n, (s1.queue c q).count va = n + 1 → ∃ u : State, exec (.queueUnloadPacket c q) s = .next (u.writeStatus c p[1] (0, 0, 0)) ∧
        (u.queue c q).count va = n)) ∧
    (Spec.Takes s c q t hk 1 p → Spec.ZeroFrom p 3 →
      (∀ n, loadFail s1 ⟨c, va⟩ = n + 1 → exec (.queueLoadPacket c q) s = .next (s1.writeStatus c p[1] (7, n + 1, 0))) ∧
      (loadFail s1 ⟨c, va⟩ = 0 → ∃ u : State, exec (.queueLoadPacket c q) s = .next (u.writeStatus c p[1] (0, 0, 0)) ∧
        (u.queue c q).count va = (s1.queue c q).count va + 1)) ∧
    (Spec.Takes s c q t hk 0 p → (launchZero.all fun z => bits (p.toList.getD z.1 0) z.2.1 z.2.2 = 0) = true →
      let l := s1.newLaunch c q t p
      (∀ n, launchCheck s1 l = n + 1 → exec (.queueLaunchPacket c q) s = .next (s1.writeStatus c p[1] (1, n + 1, 0))) ∧
      (launchCheck s1 l = 0 → l.isEmpty = true →
        exec (.queueLaunchPacket c q) s = .next (s1.writeStatus c p[1] (0, 0, 0))) ∧
      (launchCheck s1 l = 0 → l.isEmpty = false → ∃ u : State, exec (.queueLaunchPacket c q) s = .next u ∧
        u.launches = s1.launches ++ [l] ∧ l.phase = .waiting ∧ l.id = s1.nextLaunch ∧ u.nextLaunch = s1.nextLaunch + 1 ∧
        SameMemory s1 u))

/-- R239, R355, R356, R358 and R359 to R361: a launch starts, with its core's registers cleared, its threads as R355 says, and the
generation-0 hoist, also on a core that starts late; it ends with its status; the hints; Q.LAUNCH posts a packet at TAIL. That the end
frees every lock of this core's commands, but for those that a handler gave, and keeps those marked far is the model's choice
(log 119). -/
def Obligations.LaunchesAndSuccessors : Prop :=
  ∀ (id x y k tail : Nat) (l : Launch) (d a b : Fin 32) (img : List Byte) (ctl slot : List Site)
    (s s1 s2 s3 s4 : State),
    (s.launch? id = some l → s.mayStart l = true → ∃ u : State, exec (.launchStart id) s = .next u ∧
      (∃ m, u.launch? id = some m ∧ m.phase = .running ∧ m.packet = l.packet) ∧
      (s.startsHere l = true → s.myPlace l = some (x, y) → u.core.launch = some l.id ∧ u.pri.run = .running ∧
        u.pri.pc = u.codeVa l (u.kern l).entry ∧ (∀ r, u.pri.getS r = 0) ∧ u.pri.fpFlags = 0 ∧
        u.core.tiles = [] ∧ u.core.acc = [] ∧ u.core.scrErr = 0 ∧ u.core.accSat = 0 ∧ u.core.vecCheck = 0 ∧
        (∀ i : Fin 8, u.core.bankFmt[i] = 0) ∧ (∀ i : Fin 16, u.core.cc[i] = 0) ∧ u.core.viewGen = 0 ∧
        (∃ m, u.launch? id = some m ∧ u.core.view = m.range.first ∧ (l.phase = .running → m.range.first = l.range.first)) ∧
        u.core.lx = s.core.lx ∧ u.core.ly = s.core.ly ∧
        (l.tun = false → u.aux.run = .noWork) ∧
        (l.tun = true → l.tlx = x → l.tly = y → u.aux.run = .running ∧ ∀ r, u.aux.getS r = 0)) ∧
      (s.startsHere l = false → u.pri = s.pri ∧ u.aux = s.aux)) ∧
    (s.launch? id = none → exec (.launchStart id) s = .next s ∧ exec (.launchEnd id) s = .next s) ∧
    (s.launch? id = some l → s.mayStart l = false → exec (.launchStart id) s = .next s) ∧
    (s.launch? id = some l → s.mayEnd l = true → ∃ u : State,
      exec (.launchEnd id) s = .next (u.writeStatus l.ctx l.packet[1] l.status) ∧
      u.launch? id = some { l with phase := .ended, exch := none } ∧
      (s.core.launch = some id → u.core.launch = none ∧ u.pri.run = .noWork ∧ u.core.forks = [] ∧
        ∀ k, k ∈ u.core.locks ↔ k ∈ s.core.locks ∧ (k.far = true ∨
          ∃ q ∈ s.core.mat.running.toList ++ s.core.mat.queue ++ s.core.cpy.running.toList ++ s.core.cpy.queue,
            q.handler = true ∧ q.id = k.cmd))) ∧
    (s.launch? id = some l → s.mayEnd l = false → exec (.launchEnd id) s = .next s) ∧
    (l.fault = none → l.hasMap = false → l.status = (0, 0, 0)) ∧ (∀ f, l.fault = some f → l.status = f) ∧
    (s.runLaunch = some l →
      (l.succ = true → ∃ u : State, exec .hintSucc s = .next u ∧ u.pc = s.pc + 4 ∧
        u.launch? l.id = some { l with hint := true } ∧ KeepsThread none none s u ∧ SameMemory s u) ∧
      (l.succ = false → exec .hintSucc s = .next (takeTrap 0x02 0 0 s))) ∧
    (s.runLaunch = none → exec .hintSucc s = .next (takeTrap 0x02 0 0 s)) ∧
    (s.attached = false → s.predRuns = false → ∃ u : State, exec .waitpred s = .next u ∧ u.pc = s.pc + 4 ∧
      KeepsThread none none s u) ∧
    (s.attached = false → s.predRuns = true → ∃ u : State, exec .waitpred s = .next u ∧ u.pc = s.pc ∧ u.me.wake.kind = 11) ∧
    (bits (s.reg a) 6 58 ≠ 0 ∨ s.qen s.ctxNo (bits (s.reg a) 0 6) = false →
      exec (.qLaunch d a b) s = .next (takeTrap 0x03 0 0 s)) ∧
    (bits (s.reg a) 6 58 = 0 → s.qen s.ctxNo (bits (s.reg a) 0 6) = true →
      ((s.reg b).toNat % 128 ≠ 0 → exec (.qLaunch d a b) s = .next (takeTrap 0x03 (s.reg b) 0 s)) ∧
      ((s.reg b).toNat % 128 = 0 → (classify s (s.reg b) ∉ [.gap, .event, .protect]) →
        loadBytes (s.reg b) 128 s = .ok (img, s1) →
        wordSites (BitVec.ofNat 64 (s1.qbase s.ctxNo (bits (s.reg a) 0 6))) 2 s1 = .ok (ctl, s2) →
        siteKey ctl = k → s2.num k 8 = tail →
        wordSites (BitVec.ofNat 64 (s2.slotVa s.ctxNo (bits (s.reg a) 0 6) tail)) 16 s2 = .ok (slot, s3) →
        (s2.nslot s.ctxNo (bits (s.reg a) 0 6) ≤ tail - s2.num (k + 8) 8 →
          exec (.qLaunch d a b) s = .next (s2.ret d (BitVec.ofNat 64 (2 ^ 63)))) ∧
        (tail - s2.num (k + 8) 8 < s2.nslot s.ctxNo (bits (s.reg a) 0 6) → releaseRes .dev s3 = .ok s4 → ∃ u : State,
          exec (.qLaunch d a b) s = .next (u.ret d (BitVec.ofNat 64 tail)) ∧
          (swf false 0 s4.tags = true → u.tag (siteKey slot) = true))))

/-- R147, R285, R286 and R349: what outside agents do through Kararlink. A tagged write fills its word; a write stores its
bytes; a read changes nothing; an atomic is one step, with the instruction's operation; outside HBM, or before the start has opened
their port (R433, R435), nothing is done. -/
def Sys2Proof.Spec.OutsideAgents : Prop :=
  ∀ (pa : Nat) (data : BitVec 64) (k : Link) (l : List Byte) (op : AmoOp) (v cmp : BitVec 64) (s : State),
    Memory.wf s.mem = true → swf false 0 s.tags = true → swf false 0 s.poison = true →
    (s.linkOpen .host = true → pa % 8 = 0 → pa + 8 ≤ 2 ^ 39 → ∃ t, exec (.linkTaggedWrite pa data) s = .next t ∧ t.word pa = data ∧
      t.tag pa = true ∧ t.poisoned pa = false ∧ (∀ i, i < pa ∨ pa + 8 ≤ i → t.byte i = s.byte i) ∧
      ∀ i, i / 8 ≠ pa / 8 → t.tag i = s.tag i) ∧
    (s.linkOpen .host = false ∨ pa % 8 ≠ 0 ∨ 2 ^ 39 < pa + 8 → exec (.linkTaggedWrite pa data) s = .next s) ∧
    (s.linkOpen k = true → pa + l.length ≤ 2 ^ 39 → ∃ t, exec (.linkAccess k true pa l) s = .next t ∧ (∀ i, t.tag i = s.tag i) ∧
      (∀ i (_ : i < l.length), t.byte (pa + i) = l[i]) ∧ ∀ i, i < pa ∨ pa + l.length ≤ i → t.byte i = s.byte i) ∧
    (s.linkOpen k = false ∨ 2 ^ 39 < pa + l.length → exec (.linkAccess k true pa l) s = .next s) ∧ exec (.linkAccess k false pa l) s = .next s ∧
    (s.linkOpen (.peer 0) = true → pa % 8 = 0 → pa + 8 ≤ 2 ^ 39 → s.poisoned pa = false → ∃ t, exec (.peerAmo op true pa v cmp) s = .next t ∧
      t.word pa = Spec.amoWord op (s.word pa) v cmp ∧ ∀ i, i < pa ∨ pa + 8 ≤ i → t.byte i = s.byte i) ∧
    (s.linkOpen (.peer 0) = true → pa % 4 = 0 → pa + 4 ≤ 2 ^ 39 → s.poisoned pa = false → ∃ t, exec (.peerAmo op false pa v cmp) s = .next t ∧
      t.num pa 4 = (Spec.amoWord op (BitVec.ofNat 32 (s.num pa 4)) (v.truncate 32) (cmp.truncate 32)).toNat ∧
      ∀ i, i < pa ∨ pa + 4 ≤ i → t.byte i = s.byte i) ∧
    (∀ n, (s.mgmt.ready = true ∧ s.mgmt.kind ≠ 2 ↔ s.linkOpen (.virtual n) = true) ∧
      (s.mgmt.ready = true ∨ 9 ≤ s.mgmt.last ↔ s.linkOpen .host = true ∧ s.linkOpen (.peer 0) = true))

/-- R147, R152, R157, R263, R284 to R286, R349 and R396: what happens to memory beside a thread's own accesses: waits that
end, posted stores answered, lines written back, and the accesses of outside agents. Model's choices: a posted store is performed when
it is sent and its acknowledgement is an event (log 40), the write-back of a far line leaves both threads an access to be acknowledged
(log 45), REPLY's tag is empty until it is answered (log 17), and an unwritten byte reads 0 (log 14). -/
def Obligations.MemoryEvents : Prop := Spec.MemoryEvents ∧ Spec.OutsideAgents

/-! ## Contexts -/

/-- A command's status and value stand in MG.RSP, and GO reads 0 (R423). -/
def Sys2Proof.Spec.Responded (t : State) (status value : Nat) : Prop :=
  t.mgmt.go = false ∧ t.mgmt.rsp = BitVec.ofNat 64 (status * 2 ^ 56 + value % 2 ^ 56)

/-- The command of a code stands with GO set, and the device is ready (R423, R424). Its arguments are those that stood when GO was
set. -/
def Sys2Proof.Spec.Command (s : State) (code : Nat) : Prop := s.mgmt.go = true ∧ s.mgmt.code.toNat = code ∧ s.mgmt.ready = true

/-- An event leaves a state whose response is this one, with memory as before. -/
def Sys2Proof.Spec.Answers (i : Instr) (s : State) (status value : Nat) : Prop :=
  ∃ t : State, exec i s = .next t ∧ Spec.Responded t status value ∧ SameMemory s t

/-- No other context waits for clusters (R415). -/
def Sys2Proof.Spec.NoneWanted (s : State) (c : Nat) : Prop := ∀ p ∈ s.ctxs, p.1 ≠ c → p.2.wanted = false

/-- R375, R387, R388, R390, R407, R415, R423, R424 and R435: the commands of a context's life with their statuses; a save stops the
threads at blocking points and takes their registers; the watchdog's second expiry fails the save; class-0 pre-emption. A command that
would act on a cluster whose clock is stopped waits. Model's choices: ATTACH ends with STATUS 2 where STATUS 1 would hold as well
(log 117); what a save keeps and RESUME restores is the record that State holds, and not the bytes of SAVE (log 96), without the
registers that belong to the physical core (log 24). -/
def Obligations.ContextLife : Prop :=
  ∀ (c : Fin 4096) (x y : Ctx) (r : Saved) (h lx ly : Nat) (t : ThreadId) (s : State),
    (∀ p ∈ [(Instr.attach, 1), (.run, 2), (.preempt, 3), (.resume, 4), (.detach, 5)],
      (s.mgmt.go = false ∨ s.mgmt.code.toNat ≠ p.2 → exec p.1 s = .next s) ∧
      (s.mgmt.go = true → s.mgmt.code.toNat = p.2 → s.mgmt.ready = false → Spec.Answers p.1 s 1 0) ∧
      (Spec.Command s p.2 → 4095 < s.mgmt.taken[0].toNat → Spec.Answers p.1 s 2 0)) ∧
    (s.mgmt.taken[0].toNat = c →
      (Spec.Command s 1 →
        ((s.desc c 0).getLsbD 0 = false → Spec.Answers .attach s 2 0) ∧
        ((s.desc c 0).getLsbD 0 = true → (s.mgmt.kind = 2 ∨ s.ctxState c ≠ .unconfigured) → Spec.Answers .attach s 1 0) ∧
        ((s.desc c 0).getLsbD 0 = true → s.mgmt.kind ≠ 2 → s.ctxState c = .unconfigured → ∃ u, exec .attach s = .next u ∧
          Spec.Responded u 0 0 ∧ u.ctxState c = .ready ∧ SameMemory s u ∧ (swf ELine.fresh 0 s.lines = true →
            ∀ k : Nat, c * 16384 ≤ k → k < (c + 1) * 16384 → u.line k = ELine.fresh))) ∧
      (Spec.Command s 2 →
        (s.ctx? c = some x → x.state = .ready → s.placeOk c = true → s.remapFree c = true → s.wantsStopped c = false → ∃ u, exec .run s = .next u ∧
          Spec.Responded u 0 0 ∧ u.ctxState c = .running ∧ SameMemory s u ∧
          (s.core.ctx = none → (s.writeRemap c).hosted c s.core.phys = some (lx, ly) → lx < 32 → ly < 32 →
            u.core.ctx = some c.val ∧ u.core.lx.val = lx ∧ u.core.ly.val = ly ∧ u.core.launch = none ∧ u.pri.run = .noWork)) ∧
        (s.ctxState c = .ready → s.placeOk c = true → s.remapFree c = true → s.wantsStopped c = true →
          exec .run s = .next s) ∧
        (s.ctxState c ≠ .ready ∨ s.placeOk c = false ∨ s.remapFree c = false → Spec.Answers .run s 1 0)) ∧
      (Spec.Command s 3 →
        (s.ctxState c = .running → ∃ u, exec .preempt s = .next u ∧ Spec.Responded u 0 0 ∧ u.ctxState c = .saving ∧
          u.pri = s.pri ∧ u.aux = s.aux ∧ SameMemory s u) ∧
        (s.ctxState c ≠ .running → Spec.Answers .preempt s 1 0)) ∧
      (Spec.Command s 4 →
        (s.ctx? c = some x → x.state = .saved → s.placeOk c = true → s.remapFree c = true → s.wantsStopped c = false → ∃ u, exec .resume s = .next u ∧
          Spec.Responded u 0 0 ∧ u.ctxState c = .running ∧ SameMemory s u ∧
          (s.core.ctx = none → x.saved = some r → u.core.ctx = r.core.ctx ∧ u.pri.s = r.pri.s ∧ u.pri.x = r.pri.x ∧
            u.pri.pc = r.pri.pc ∧ u.pri.run = r.pri.run ∧ u.pri.stopped = false ∧ u.aux.s = r.aux.s ∧ u.aux.pc = r.aux.pc ∧
            u.core.tiles = r.core.tiles ∧ u.core.acc = r.core.acc ∧ u.core.k = r.core.k ∧ u.core.cc = r.core.cc)) ∧
        (s.ctxState c = .saved → s.placeOk c = true → s.remapFree c = true → s.wantsStopped c = true →
          exec .resume s = .next s) ∧
        (s.ctxState c ≠ .saved ∨ s.placeOk c = false ∨ s.remapFree c = false → Spec.Answers .resume s 1 0)) ∧
      (Spec.Command s 5 →
        (s.ctxState c = .halted → s.holdsStopped c = true → exec .detach s = .next s) ∧
        (s.ctxState c ∈ [.ready, .saved, .halted] → (s.ctxState c = .halted → s.holdsStopped c = false) → ∃ u, exec .detach s = .next u ∧ Spec.Responded u 0 0 ∧
          u.ctxState c = .unconfigured ∧ SameMemory s u ∧ (∀ l ∈ u.launches, l.ctx ≠ c.val)) ∧
        (s.ctxState c ∉ [.ready, .saved, .halted] → Spec.Answers .detach s 1 0))) ∧
    (s.saving = true → (s.th t).stopped = false → s.atBlock t = true → ∃ u, exec (.threadStop t) s = .next u ∧
      (u.th t).stopped = true ∧ (u.th t).window = [] ∧ (u.th t).s = (s.th t).s ∧ (u.th t).x = (s.th t).x ∧
      (u.th t).pc = (s.th t).pc ∧ (u.th t).wake = (s.th t).wake ∧ SameMemory s u) ∧
    (s.saving = false ∨ (s.th t).stopped = true ∨ s.atBlock t = false → exec (.threadStop t) s = .next s) ∧
    (s.ctx? c = some x →
      (x.state = .saving → s.mayFinish c = true → s.core.ctx = some c.val → x.wanted = false → Spec.NoneWanted s c →
        ∃ u z w, exec (.saveComplete c) s = .next u ∧ u.ctx? c = some z ∧ z.state = .saved ∧ z.saved = some w ∧
          w.pri = { s.pri with unacked := w.pri.unacked } ∧ w.aux = { s.aux with unacked := w.aux.unacked } ∧ w.core.tiles = s.core.tiles ∧ w.core.cc = s.core.cc ∧ w.core.k = s.core.k ∧
          u.core.ctx = none ∧ u.core.phys = s.core.phys) ∧
      (x.state ≠ .saving ∨ s.mayFinish c = false → exec (.saveComplete c) s = .next s) ∧
      (x.state = .saving → s.holdsStopped c = false → x.watchdog = 0 →
        exec (.saveWatchdogExpiry c) s = .next (s.setCtx c { x with watchdog := 1 })) ∧
      (x.state = .saving → s.holdsStopped c = false → x.watchdog ≠ 0 → x.wanted = false → Spec.NoneWanted s c → ∃ u,
        exec (.saveWatchdogExpiry c) s = .next u ∧
        u.ctx? c = some { x with
          state := .ready, saveFailed := true, watchdog := 0, saved := none, full0 := s.ensignFull c } ∧
        (∀ l ∈ u.launches, l.ctx = c.val → l.phase = .ended) ∧ u.core.ctx ≠ some c.val) ∧
      (x.state ≠ .saving ∨ s.holdsStopped c = true → exec (.saveWatchdogExpiry c) s = .next s) ∧
      (x.state = .ready ∨ x.state = .saved → (∃ p ∈ s.ensignFull c, p ∉ x.full0) → Spec.NoneWanted s c → h ≠ c.val →
        s.ctx? h = some y → y.state = .running →
        (∃ m ∈ s.remaps h, ∃ n ∈ s.tableRemaps c, m.2.2 = n.2.2) → ∃ u, exec (.class0PreemptRequest c) s = .next u ∧
          u.ctx? c = some { x with wanted := true, full0 := s.ensignFull c } ∧ u.ctxState h = .saving ∧ SameMemory s u) ∧
      (x.state = .ready ∨ x.state = .saved → (∃ p ∈ s.ensignFull c, p ∉ x.full0) → x.wanted = false → Spec.NoneWanted s c →
        (∀ p ∈ s.ctxs, p.1 ≠ c.val → p.2.state.holds = false) → ∃ u, exec (.class0PreemptRequest c) s = .next u ∧
          u.ctx? c = some { x with full0 := s.ensignFull c } ∧ u.core = s.core ∧ SameMemory s u) ∧
      (x.state = .ready ∨ x.state = .saved → (∀ p ∈ s.ensignFull c, p ∈ x.full0) → exec (.class0PreemptRequest c) s =
        .next (s.setCtx c { x with full0 := x.full0.filter (s.ensignFull c).contains })) ∧
      (x.state ≠ .ready → x.state ≠ .saved → exec (.class0PreemptRequest c) s = .next s)) ∧
    (s.ctx? c = none → ∀ e ∈ [Instr.saveComplete c, .saveWatchdogExpiry c, .class0PreemptRequest c], exec e s = .next s)

/-! ## The management controller -/

/-- A start has begun (R431): of this kind, at no step yet, with the responses and slots of the controller cleared. -/
def Sys2Proof.Spec.Begun (t : State) (kind : Nat) : Prop :=
  t.mgmt.starting = true ∧ t.mgmt.powered = true ∧ t.mgmt.last = 0 ∧ t.mgmt.kind = kind ∧ t.mgmt.ready = false ∧
    t.mgmt.go = false ∧ (∀ i : Fin 16, t.mgmt.meas[i] = 0) ∧ t.power.lease = ⟨0, 0, 0⟩ ∧ t.power.active = false ∧
    t.power.ramp = 700 ∧ t.power.share = 0x19191919 ∧ t.power.rails = 0

/-- Fewer than three failed starts lie in the window of 600 seconds (R434). -/
def Sys2Proof.Spec.FewFailures (s : State) : Prop :=
  (s.mgmt.window.filter fun w => s.mgmt.standby - w ≤ 600).length < 3

/-- The bytes of the bank that UPD.WRITE writes: the inactive one of the image last opened (log 26). -/
def Sys2Proof.Spec.updBank (s : State) : Bank := (s.mgmt.banks[s.mgmt.opened])[1 - s.mgmt.active[s.mgmt.opened]]

/-- R424, R425, R427, R429, R430 and R444: the device commands. Model's choices: UPD.WRITE writes the inactive bank of the image last
opened (log 26), how the repair record packs its counts (log 27), which of SVN.COMMIT's statuses comes first (log 70), and that LOG.READ
leaves the places of missing records as they are (log 71). -/
def Obligations.DeviceCommands : Prop :=
  ∀ (img : Fin 2) (v n : Nat) (s : State),
    let a (j : Nat) : Nat := (s.mgmt.taken.toList.getD j 0).toNat
    (∀ p ∈ [(Instr.warm, 0x10), (.cold, 0x11), (.updOpen, 0x20), (.updWrite, 0x21), (.updActivate, 0x22), (.svnCommit, 0x23),
        (.logRead, 0x30), (.repairList, 0x31), (.measExtend, 0x32)],
      (s.mgmt.go = false ∨ s.mgmt.code.toNat ≠ p.2 → exec p.1 s = .next s) ∧
      (0x20 ≤ p.2 → s.mgmt.go = true → s.mgmt.code.toNat = p.2 → s.mgmt.ready = false → Spec.Answers p.1 s 1 0)) ∧
    (s.mgmt.go = true → s.mgmt.code.toNat = 0x10 → Spec.FewFailures s → ∃ t, exec .warm s = .next t ∧
      Spec.Begun t (if s.mgmt.trained then 1 else 0) ∧ SameMemory s t) ∧
    (s.mgmt.go = true → s.mgmt.code.toNat = 0x11 → Spec.FewFailures s → ∃ t, exec .cold s = .next t ∧
      Spec.Begun t 0 ∧ t.power.acct = [] ∧ SameMemory s t) ∧
    (Spec.Command s 0x20 →
      (a 0 = img.val → ∃ t, exec .updOpen s = .next t ∧ Spec.Responded t 0 0 ∧ t.mgmt.opened = img ∧
        (t.mgmt.banks[img])[1 - s.mgmt.active[img]] = ⟨[], false⟩ ∧ t.mgmt.active = s.mgmt.active) ∧
      (2 ≤ a 0 → Spec.Answers .updOpen s 2 0)) ∧
    (Spec.Command s 0x21 →
      (1 ≤ a 2 → a 2 ≤ 65536 → a 1 + a 2 ≤ 16777216 → ∃ t, exec .updWrite s = .next t ∧ Spec.Responded t 0 0 ∧
        (swf 0 0 (Spec.updBank s).bytes = true →
          (∀ j < a 2, sget 0 (Spec.updBank t).bytes (a 1 + j) = s.byte (hostKey (a 0 + j))) ∧
          ∀ j, j < a 1 ∨ a 1 + a 2 ≤ j → sget 0 (Spec.updBank t).bytes j = sget 0 (Spec.updBank s).bytes j)) ∧
      (a 2 = 0 ∨ 65536 < a 2 ∨ 16777216 < a 1 + a 2 → Spec.Answers .updWrite s 2 0)) ∧
    (Spec.Command s 0x22 → a 0 = img.val →
      let b := (s.mgmt.banks[img])[1 - s.mgmt.active[img]].bytes
      (Config.imageSvn b = none → Spec.Answers .updActivate s 2 0) ∧
      (Config.imageSvn b = some v → Config.imageSigned b = false → Spec.Answers .updActivate s 3 0) ∧
      (Config.imageSvn b = some v → Config.imageSigned b = true → v < s.mgmt.fsvn → Spec.Answers .updActivate s 4 0) ∧
      (Config.imageSvn b = some v → Config.imageSigned b = true → s.mgmt.fsvn ≤ v → ∃ t, exec .updActivate s = .next t ∧
        Spec.Responded t 0 v ∧ (t.mgmt.banks[img])[1 - s.mgmt.active[img]] = ⟨b, true⟩)) ∧
    (Spec.Command s 0x23 → s.mgmt.kind ≠ 2 → (∀ i j : Fin 2, (s.mgmt.banks[i])[j].pending = false) →
      (s.mgmt.fsvn < a 0 → a 0 ≤ 128 → (∀ i : Fin 2, a 0 ≤ s.mgmt.runningSvn i) → ∃ t, exec .svnCommit s = .next t ∧
        Spec.Responded t 0 0 ∧ t.mgmt.fsvn = a 0 ∧ t.mgmt.translations = [] ∧ SameMemory s t) ∧
      (a 0 ≤ s.mgmt.fsvn ∨ 128 < a 0 ∨ s.mgmt.runningSvn img < a 0 → Spec.Answers .svnCommit s 2 0)) ∧
    (Spec.Command s 0x30 →
      (1 ≤ a 2 → a 2 ≤ 1024 → ∃ t, exec .logRead s = .next t ∧ Spec.Responded t 0 (s.mgmt.logNext - 1) ∧
        t.mgmt.log = s.mgmt.log ∧ (∀ k, t.tag k = s.tag k)) ∧
      (a 2 = 0 ∨ 1024 < a 2 → Spec.Answers .logRead s 2 0)) ∧
    (Spec.Command s 0x31 → a 0 + 24 ≤ 2 ^ 60 → s.mgmt.fences = [] → s.mgmt.pages = [n] → s.mgmt.spares = [] → Memory.wf s.mem = true → ∃ t,
      exec .repairList s = .next t ∧ Spec.Responded t 0 24 ∧ t.num (2 ^ 60 + a 0) 4 = 0 ∧ t.num (2 ^ 60 + a 0 + 4) 4 = 1 ∧
      t.num (2 ^ 60 + a 0 + 8) 8 = 0 ∧ t.num (2 ^ 60 + a 0 + 16) 8 = n * 65536 % 2 ^ 64) ∧
    (Spec.Command s 0x32 →
      (∀ k : Fin 16, 12 ≤ k.val → a 0 = k.val → ∃ t, exec .measExtend s = .next t ∧ Spec.Responded t 0 0 ∧
        t.mgmt.meas = s.mgmt.meas.set k (sha3 (leBytes 32 s.mgmt.meas[k].toNat ++
          leBytes 32 (sha3 (s.hostBytes (a 1) 32)).toNat)) ∧ SameMemory s t) ∧
      (a 0 < 12 ∨ 15 < a 0 → Spec.Answers .measExtend s 2 0))

/-- R4, R418, R423, R428, R433: writes to the management window's registers, which it takes from step 3 of a start on, and the SPDM
responder. Model's choices: a write to MG.CMD while GO reads 1 stores its CODE (log 64), responses carry their contents by name (log 36), and
what is answered to a certificate slot other than 0, to a measurement index 0 or from 17 on and to a chunk request with nothing left, and
that a portion of the chain is cut to 4,096 bytes (log 130). -/
def Obligations.RegistersAndAttestation : Prop :=
  ∀ (v : Word) (k : Fin 4) (off slot o len index : Nat) (nonce : List Byte) (s : State),
    (s.mgmt.answers = false → ∀ e ∈ [Instr.mgCtxbaseWrite v, .rsvLendWrite false k v, .rsvLendWrite true k v, .shareWrite v,
      .rampWrite v, .acctClr v, .registerWrite off v], exec e s = .next s) ∧
    (s.mgmt.answers = true →
      ((∀ p ∈ s.ctxs, p.2.state = .unconfigured) →
        exec (.mgCtxbaseWrite v) s = .next { s with ctxBase := v &&& 0x000FFFFFFFF80000 }) ∧
      (∀ p ∈ s.ctxs, p.2.state ≠ .unconfigured → exec (.mgCtxbaseWrite v) s = .next s) ∧
      (s.ensignClusters = [] →
        exec (.rsvLendWrite false k v) s = .next { s with power := { s.power with rsv := s.power.rsv.set k v } } ∧
        exec (.rsvLendWrite true k v) s = .next { s with power := { s.power with lend := s.power.lend.set k v } }) ∧
      (∀ c ∈ s.ensignClusters, c / 64 = k.val → s.power.rsv[k].getLsbD (c % 64) = true → v.getLsbD (c % 64) = false →
        exec (.rsvLendWrite false k v) s = .next s) ∧
      (bits v 0 8 ≤ 25 → bits v 0 8 + bits v 8 8 + bits v 16 8 + bits v 24 8 ≤ 100 →
        exec (.shareWrite v) s = .next { s with power := { s.power with share := v &&& 0xFFFFFFFF } }) ∧
      (25 < bits v 0 8 ∨ 100 < bits v 0 8 + bits v 8 8 + bits v 16 8 + bits v 24 8 → exec (.shareWrite v) s = .next s) ∧
      (1 ≤ bits v 0 13 → bits v 0 13 ≤ 5600 →
        exec (.rampWrite v) s = .next { s with power := { s.power with ramp := bits v 0 13 } }) ∧
      (bits v 0 13 = 0 ∨ 5600 < bits v 0 13 → exec (.rampWrite v) s = .next s) ∧
      (v.getLsbD 8 = true → swf 0 0 s.power.acct = true → ∃ t, exec (.acctClr v) s = .next t ∧
        (∀ w < 16, sget 0 t.power.acct (bits v 0 8 * 16 + w) = 0) ∧
        ∀ d w : Nat, d ≠ bits v 0 8 → w < 16 → sget 0 t.power.acct (d * 16 + w) = sget 0 s.power.acct (d * 16 + w)) ∧
      (v.getLsbD 8 = false → exec (.acctClr v) s = .next s) ∧
      (s.mgmt.go = false → v.getLsbD 63 = true → bits v 0 16 = 1 → ∃ t, exec (.registerWrite 0x010 v) s = .next t ∧
        t.mgmt.go = true ∧ t.mgmt.code = 1 ∧ t.mgmt.taken = s.mgmt.args ∧ SameMemory s t) ∧
      (s.mgmt.go = false → v.getLsbD 63 = true → bits v 0 16 = 6 → Spec.Answers (.registerWrite 0x010 v) s
        (if s.mgmt.ready then 2 else 1) 0) ∧
      (s.mgmt.go = true ∨ v.getLsbD 63 = false →
        exec (.registerWrite 0x010 v) s = .next { s with mgmt := { s.mgmt with codeReg := BitVec.ofNat 16 (bits v 0 16) } }) ∧
      exec (.registerWrite (0x020 + 8 * k) v) s = .next { s with mgmt := { s.mgmt with args := s.mgmt.args.set k v } } ∧
      exec (.registerWrite 0x100018 v) s = exec (.rampWrite v) s ∧
      exec (.registerWrite (0x100020 + 8 * k) v) s = exec (.rsvLendWrite false k v) s ∧
      exec (.registerWrite (0x100040 + 8 * k) v) s = exec (.rsvLendWrite true k v) s ∧
      exec (.registerWrite 0x000 v) s = .next s) ∧
    (s.mgmt.ready = false → ∀ e ∈ [Instr.getVersion, .getCapabilities, .negotiateAlgorithms true true,
      .getCertificate slot o len, .challenge nonce, .getMeasurements index, .chunkGet o],
      ∃ t, exec e s = .next t ∧ t.mgmt.spdmOut = s.mgmt.spdmOut ++ [.busy] ∧ t.mgmt.meas = s.mgmt.meas) ∧
    (s.mgmt.ready = true →
      (∃ t, exec .getVersion s = .next t ∧ t.mgmt.spdmOut = s.mgmt.spdmOut ++ [.version [0x13]]) ∧
      (∃ t, exec .getCapabilities s = .next t ∧ t.mgmt.spdmOut = s.mgmt.spdmOut ++ [.capabilities [.cert, .chalSigned, .measSigned, .chunk]]) ∧
      (∃ t, exec (.negotiateAlgorithms true true) s = .next t ∧ t.mgmt.spdmOut = s.mgmt.spdmOut ++ [.algorithms [.sha3_256] [.mlDsa44]]) ∧
      (∃ t, exec (.negotiateAlgorithms true false) s = .next t ∧
        t.mgmt.spdmOut = s.mgmt.spdmOut ++ [.unsupportedAlgorithm]) ∧
      (∃ t, exec (.getCertificate 0 o len) s = .next t ∧
        t.mgmt.spdmOut = s.mgmt.spdmOut ++ [.certificate (((Config.certChain.drop o).take len).take 4096)]) ∧
      (slot ≠ 0 → ∃ t, exec (.getCertificate slot o len) s = .next t ∧
        t.mgmt.spdmOut = s.mgmt.spdmOut ++ [.unexpected]) ∧
      (∃ t, exec (.challenge nonce) s = .next t ∧
        t.mgmt.spdmOut = s.mgmt.spdmOut ++ [.challengeAuth (Config.spdmSign nonce)]) ∧
      (∀ i : Fin 16, ∃ t sig, exec (.getMeasurements (i + 1)) s = .next t ∧
        t.mgmt.spdmOut = s.mgmt.spdmOut ++ [.measurements [(i.val + 1, s.mgmt.meas[i])] sig]) ∧
      (∃ t l sig, exec (.getMeasurements 0xFF) s = .next t ∧ l.length = 16 ∧
        t.mgmt.spdmOut = s.mgmt.spdmOut ++ [.measurements l sig]) ∧
      (index = 0 ∨ 16 < index ∧ index ≠ 0xFF → ∃ t, exec (.getMeasurements index) s = .next t ∧
        t.mgmt.spdmOut = s.mgmt.spdmOut ++ [.unexpected]) ∧
      (s.mgmt.spdmRest ≠ [] → ∃ t, exec (.chunkGet o) s = .next t ∧
        t.mgmt.spdmOut = s.mgmt.spdmOut ++ [.chunk (s.mgmt.spdmRest.take 4096)] ∧
        t.mgmt.spdmRest = s.mgmt.spdmRest.drop 4096) ∧
      (s.mgmt.spdmRest = [] → ∃ t, exec (.chunkGet o) s = .next t ∧
        t.mgmt.spdmOut = s.mgmt.spdmOut ++ [.unexpected]))

/-! ## Starts, errors and retirement -/

/-- A failed start (R434): it enters the window, and a cold start begins, or a recovery start after three. -/
def Sys2Proof.Spec.Failed (s t : State) : Prop :=
  ∃ kind, Spec.Begun t kind ∧
    (2 ≤ (s.mgmt.window.filter fun w => s.mgmt.standby - w ≤ 600).length → kind = 2 ∧ t.mgmt.window = []) ∧
    ((s.mgmt.window.filter fun w => s.mgmt.standby - w ≤ 600).length < 2 → kind = 0 ∧
      t.mgmt.window = (s.mgmt.window.filter fun w => s.mgmt.standby - w ≤ 600) ++ [s.mgmt.standby])

/-- R422, R426, R429 and R431 to R435: the steps of a start in their order, what the last steps leave, failing, and the events
that begin a start or end all of it. Model's choices: what the core and the command registers do while the device starts (log 64), that
a loss of standby power turns the device off until POWER_ON (log 65), which brings it back, with the errors counted before forgotten
(log 129), that the registers of the power block take their Reset values at
every start (log 68), and that a register takes its Reset value as the start begins (log 108). -/
def Obligations.StartsOfTheDevice : Prop :=
  ∀ (s : State),
    (Spec.FewFailures s → (∃ t, exec .powerOn s = .next t ∧ Spec.Begun t 0 ∧ t.power.acct = [] ∧ SameMemory s t) ∧
      (s.mgmt.powered = true → ∃ t, exec .kararlinkHotReset s = .next t ∧
        Spec.Begun t (if s.mgmt.trained then 1 else 0) ∧
        (s.mgmt.trained = true → t.power.acct = s.power.acct) ∧ SameMemory s t)) ∧
    (s.mgmt.powered = false → exec .kararlinkHotReset s = .next s) ∧
    (s.mgmt.starting = false → exec .startStepComplete s = .next s ∧ exec .startStepTimeout s = .next s) ∧
    (s.mgmt.starting = true →
      (∃ t, exec .startStepTimeout s = .next t ∧ Spec.Failed s t) ∧
      (s.mgmt.kind ≠ 1 → s.mgmt.last < 11 → stepOk s (s.mgmt.last + 1) = true → ∃ t, exec .startStepComplete s = .next t ∧
        t.mgmt.last = s.mgmt.last + 1 ∧ (s.mgmt.last < 10 → t.mgmt.starting = true ∧ t.mgmt.ready = s.mgmt.ready)) ∧
      (s.mgmt.kind = 1 → s.mgmt.last = 0 → ∃ t, exec .startStepComplete s = .next t ∧ t.mgmt.last = 2) ∧
      (s.mgmt.kind = 1 → s.mgmt.last = 5 → ∃ t, exec .startStepComplete s = .next t ∧ t.mgmt.last = 7 ∧
        (s.mgmt.mapSaved = true → t.mgmt.defects = s.mgmt.defects) ∧ (s.mgmt.mapSaved = false → t.mgmt.defects = [])) ∧
      (s.mgmt.last = 2 → s.mgmt.bootOk 0 = false → ∃ t, exec .startStepComplete s = .next t ∧ Spec.Failed s t) ∧
      (s.mgmt.last = 9 → s.mgmt.bootOk 1 = false → ∃ t, exec .startStepComplete s = .next t ∧ Spec.Failed s t) ∧
      (s.mgmt.last = 4 → ∃ t, exec .startStepComplete s = .next t ∧ t.mgmt.trained = true) ∧
      (s.mgmt.last = 6 → ∃ t, exec .startStepComplete s = .next t ∧ t.core.fenced = t.mgmt.fenced.contains t.core.phys ∧
        t.mgmt.avail = availOf t.mgmt.fenced) ∧
      (s.mgmt.last = 9 → s.mgmt.bootOk 1 = true → ∃ t, exec .startStepComplete s = .next t ∧
        (∀ k < 2 ^ 60, t.byte k = 0) ∧ t.tags = [] ∧ t.poison = [] ∧ t.ctxs = [] ∧ t.launches = [] ∧ t.core.ctx = none ∧
        t.pri.run = .noWork ∧ t.aux.run = .noWork ∧ t.power.ref = s.power.ref ∧ t.power.acct = s.power.acct) ∧
      (s.mgmt.last = 10 → ∃ t, exec .startStepComplete s = .next t ∧ t.mgmt.ready = true ∧ t.mgmt.starting = false ∧
        t.mgmt.last = 11 ∧ SameMemory s t)) ∧
    (∃ t, exec .standbyPowerLoss s = .next t ∧ t.mgmt.powered = false ∧ t.mgmt.ready = false ∧ t.mgmt.standby = 0 ∧
      t.mgmt.window = [] ∧ t.mgmt.standbyPower = false ∧ t.mgmt.coreErrors = [] ∧ t.mgmt.rowErrors = [] ∧ SameMemory s t)

/-- R39, R431, R436, R438 to R440 and R443: corrected errors change no value and are counted; an uncorrectable one poisons its
words, or stops its core; and the link events. Model's choices: the retirement cause of corrected errors (log 27), when a row is logged
as spared (log 71), what another core's machine check does (log 73), and that an uncorrectable error in a core's register stores is a
machine check (log 74). -/
def Obligations.ErrorsAndRetirement : Prop :=
  ∀ (pa c x y off phys line link : Nat) (kararlink : Bool) (s : State),
    (∃ t, exec (.correctedError (.hbm pa)) s = .next t ∧ SameMemory s t ∧ t.mgmt.corrHbm = s.mgmt.corrHbm + 1 ∧
      t.pri = s.pri ∧ t.aux = s.aux) ∧
    (∀ e ∈ [ErrorSite.scratch phys off, .slice pa, .l1 phys off, .tile phys off, .acc phys [off], .coreSram phys, .coreLogic phys], ∃ t, exec (.correctedError e) s = .next t ∧
      SameMemory s t ∧ t.mgmt.corrSram = s.mgmt.corrSram + 1 ∧ t.pri = s.pri ∧ t.aux = s.aux) ∧
    (swf false 0 s.poison = true →
      (∃ t, exec (.uncorrectableError (.hbm pa)) s = .next t ∧
        (∀ k, t.poisoned k = true ↔ k / 32 = pa / 32 ∨ s.poisoned k = true) ∧ (∀ k, t.byte k = s.byte k) ∧
        (pa / 65536 ∈ t.mgmt.pages ∨ pagesFull s.mgmt.pages (pa / 2 ^ 36) = true)) ∧
      (∃ t, exec (.uncorrectableError (.slice pa)) s = .next t ∧
        (∀ k, t.poisoned k = true ↔ k / 8 = pa / 8 ∨ s.poisoned k = true) ∧ ∀ k, t.byte k = s.byte k) ∧
      (s.resident phys = some (c, x, y) → ∃ t, exec (.uncorrectableError (.scratch phys off)) s = .next t ∧
        (∀ k, t.poisoned k = true ↔ k / 8 = (Loc.scratch c x y (off % 524288)).key / 8 ∨ s.poisoned k = true) ∧
        ∀ k, t.byte k = s.byte k) ∧
      (s.resident phys = none → exec (.uncorrectableError (.scratch phys off)) s = .next s)) ∧
    (∃ t u, exec (.uncorrectableError (.tile s.core.phys off)) s = .next t ∧ off % 4096 ∈ t.core.tileBad ∧ t.core.tiles = s.core.tiles ∧
      exec (.uncorrectableError (.acc s.core.phys [off])) s = .next u ∧ off % 65536 ∈ u.core.accBad ∧ u.core.acc = s.core.acc ∧
      t.mgmt = s.mgmt ∧ u.mgmt = s.mgmt) ∧
    (s.core.dead = false →
      exec (.uncorrectableError (.coreSram s.core.phys)) s = exec .parityError s ∧
      exec (.uncorrectableError (.coreLogic s.core.phys)) s = exec .parityError s ∧
      ∃ t, exec .parityError s = .next t ∧ t.core.dead = true ∧ t.pri.run = .stopped ∧ t.aux.run = .stopped ∧
        s.core.phys ∈ t.mgmt.fenced ∧ t.core.mat.queue = [] ∧ t.core.cpy.queue = [] ∧
        (s.core.phys ∉ s.mgmt.fenced → t.core.fenced = true ∧ t.mgmt.avail.getLsbD (clusterOf s.core.phys) = false)) ∧
    (s.core.dead = true → exec .parityError s = .next s) ∧
    (phys ≠ s.core.phys → ∃ t, exec (.uncorrectableError (.coreLogic phys)) s = .next t ∧ phys ∈ t.mgmt.fenced ∧
      t.core.dead = s.core.dead) ∧
    (∃ t, exec (.codeLineError line) s = .next t ∧ line ∈ t.core.badLines ∧ SameMemory s t ∧
      ∀ k, k ≠ line → (k ∈ t.core.badLines ↔ k ∈ s.core.badLines)) ∧
    exec (.patrolScrub pa) s = .next s ∧
    (∃ t, exec (.linkDown kararlink link) s = .next t ∧ (kararlink, link) ∈ t.mgmt.linksDown ∧ SameMemory s t) ∧
    (∃ t, exec .linkLevelRetry s = .next t ∧ t.mgmt.retries = s.mgmt.retries + 1 ∧ SameMemory s t)

/-! ## Power -/

/-- R407 to R413, R417, R419, R420 and R432: rails, clocks, stretched cycles, the ramp limiter, energy, leases, the cap and derating.
Model's choices: how much passes in a step or an event: cycles, stretched ones with them, and the matrix-cycles that this core's engine
runs in a microsecond (log 4); matrix-cycles above the ramp bound run later (log 69), a lease is compared with the last one adopted also across warm
starts, and LEASE_EXPIRY moves the reference count to the expiry (log 68), a cluster's droop counter counts detections (log 121), and the
controller chooses the high rail and takes the measures class by class (log 123). -/
def Obligations.PowerAndAccounting : Prop :=
  ∀ (k : Fin 256) (stack : Fin 8) (seq : BitVec 32) (c w ms e i j shared a b : Nat) (up : Bool) (v : Word) (s : State),
    let d := s.domainOf c
    (s.power.stopped.getLsbD k = true ∨ s.railTarget k ≠ up → exec (.railChange k up) s = .next s) ∧
    (s.power.stopped.getLsbD k = false → s.railTarget k = true →
      (s.power.rails.getLsbD k = false → ∃ t, exec (.railChange k true) s = .next t ∧ t.power.rails.getLsbD k = true ∧
        t.power.stopped = s.power.stopped ∧ t.power.clocks = s.power.clocks ∧ t.core = s.core ∧ SameMemory s t) ∧
      (s.power.rails.getLsbD k = true → s.power.clocks.getLsbD k = false → ∃ t, exec (.railChange k true) s = .next t ∧
        t.power.stopped.getLsbD k = true ∧ t.power.relock.getLsbD k = true ∧ t.power.rails = s.power.rails ∧ t.core = s.core ∧
        SameMemory s t) ∧
      (s.power.rails.getLsbD k = true → s.power.clocks.getLsbD k = true → exec (.railChange k true) s = .next s)) ∧
    (s.power.stopped.getLsbD k = false → s.railTarget k = false →
      (s.power.clocks.getLsbD k = true → ∃ t, exec (.railChange k false) s = .next t ∧ t.power.stopped.getLsbD k = true ∧
        t.power.relock.getLsbD k = false ∧ t.power.rails = s.power.rails ∧ t.core = s.core ∧ SameMemory s t) ∧
      (s.power.clocks.getLsbD k = false → s.power.rails.getLsbD k = true → ∃ t, exec (.railChange k false) s = .next t ∧
        t.power.rails.getLsbD k = false ∧ t.power.stopped = s.power.stopped ∧ t.core = s.core ∧ SameMemory s t) ∧
      (s.power.clocks.getLsbD k = false → s.power.rails.getLsbD k = false → exec (.railChange k false) s = .next s)) ∧
    (maskBit s.power.rsv k = true → (s.railTarget k = true ↔ s.power.measure < 4)) ∧
    (maskBit s.power.rsv k = false →
      (s.launchCores k = [] → s.railTarget k = false) ∧
      ((∃ p ∈ s.launchCores k, s.power.lowers (s.qclass p.1.ctx p.1.queue) = true) → s.railTarget k = false) ∧
      ((∀ p ∈ s.launchCores k, s.hintOf p.2 = 1) → s.railTarget k = false) ∧
      ((∃ p ∈ s.launchCores k, s.hintOf p.2 = 2) → (∀ p ∈ s.launchCores k, s.power.lowers (s.qclass p.1.ctx p.1.queue) = false) →
        s.railTarget k = true)) ∧
    (s.power.stopped.getLsbD k = true → (∀ p ∈ s.ctxs, p.2.wanted = false) → ∃ t, exec (.clockRestart k) s = .next t ∧
      t.power.stopped.getLsbD k = false ∧ t.power.clocks.getLsbD k = s.power.relock.getLsbD k ∧ SameMemory s t ∧
      (k.val = clusterOf s.core.phys → t.core.time = s.power.ref ∧
        ((∃ l, s.myLaunch = some l ∧ l.phase = .ending) → t.pri.run = .stopped)) ∧
      (k.val ≠ clusterOf s.core.phys ∨ (∀ l, s.myLaunch = some l → l.phase ≠ .ending) → t.pri = s.pri)) ∧
    (s.power.stopped.getLsbD k = false → exec (.clockRestart k) s = .next s) ∧
    (s.power.stopped.getLsbD k = true → exec (.droopDetect k) s = .next s) ∧
    (s.power.stopped.getLsbD k = false → ∃ t, exec (.droopDetect k) s = .next t ∧ t.power.stretching.getLsbD k = true ∧
      t.core = s.core ∧ SameMemory s t ∧
      (swf 0 0 s.power.droops = true → sget 0 t.power.droops k = sget 0 s.power.droops k + 1)) ∧
    (∀ t, t = s.core.tick i v true → t.cycle = s.core.cycle + BitVec.ofNat 64 (amount i) ∧ t.time = v ∧
        bits t.pwrStat 32 32 = (bits s.core.pwrStat 32 32 + amount i) % 2 ^ 32 ∧ bits t.pwrStat 0 32 = bits s.core.pwrStat 0 32 ∧
        (s.core.tick i v false).cycle = t.cycle ∧ (s.core.tick i v false).pwrStat = s.core.pwrStat) ∧
    (∃ t, exec (.droopPass k) s = .next t ∧ t.power.stretching.getLsbD k = false ∧ t.core = s.core ∧ SameMemory s t) ∧
    (s.power.stopped.getLsbD k = false → s.power.rampSkip.getLsbD k = false → swf 0 0 s.power.rampPrev = true →
      swf 0 0 s.power.rampNow = true → ∃ t now, exec (.rampMicrosecond k) s = .next t ∧
        sget 0 t.power.rampPrev k = max now (sget 0 s.power.rampPrev k - s.power.ramp) ∧ sget 0 s.power.rampNow k ≤ now ∧
        (now = sget 0 s.power.rampNow k ∨ now ≤ min (sget 0 s.power.rampPrev k + s.power.ramp) 5600) ∧
        (k.val ≠ clusterOf s.core.phys → now = sget 0 s.power.rampNow k) ∧ sget 0 t.power.rampNow k = 0) ∧
    (s.power.stopped.getLsbD k = true ∨ s.power.rampSkip.getLsbD k = true → swf 0 0 s.power.rampNow = true → ∃ t,
      exec (.rampMicrosecond k) s = .next t ∧ t.power.rampPrev = s.power.rampPrev ∧ sget 0 t.power.rampNow k = 0 ∧
      t.power.rampSkip.getLsbD k = s.power.stopped.getLsbD k) ∧
    (s.holder k = none → ∃ t, exec (.energyAttribution [(k.val, e)] 0 []) s = .next t ∧
      t.power.unattrUj = s.power.unattrUj + BitVec.ofNat 64 ((s.power.unattrNj + e) / 1000) ∧
      t.power.unattrNj = (s.power.unattrNj + e) % 1000) ∧
    (swf 0 0 s.power.acct = true → swf 0 0 s.power.residue = true →
      (s.holder k = some c → ∃ t, exec (.energyAttribution [(k.val, e)] 0 []) s = .next t ∧
        sget 0 t.power.acct (d * 16 + 11) =
          sget 0 s.power.acct (d * 16 + 11) + BitVec.ofNat 64 ((sget 0 s.power.residue d + e) / 1000) ∧
        sget 0 t.power.residue d = (sget 0 s.power.residue d + e) % 1000) ∧
      (i < 256 → j < 256 → i ≠ j → (∀ p ∈ s.power.moved, p.1 = i ∨ p.1 = j) → ∀ a1 b1,
        a1 = max a (sget 0 s.power.moved i) → b1 = max b (sget 0 s.power.moved j) → 0 < a1 + b1 → ∃ t, exec (.energyAttribution [] shared [(i, a), (j, b)]) s = .next t ∧
        sget 0 t.power.acct (i * 16 + 11) = sget 0 s.power.acct (i * 16 + 11) +
          BitVec.ofNat 64 ((sget 0 s.power.residue i + shared * a1 / (a1 + b1)) / 1000) ∧
        sget 0 t.power.acct (j * 16 + 11) = sget 0 s.power.acct (j * 16 + 11) +
          BitVec.ofNat 64 ((sget 0 s.power.residue j + shared * b1 / (a1 + b1)) / 1000))) ∧
    (s.mgmt.starting = true → s.mgmt.last < 3 → s.power.held.length < 16 → ∃ t,
      exec (.leaseReceipt seq w ms) s = .next t ∧ t.power.held = s.power.held ++ [⟨seq, w, ms⟩] ∧
      t.power.lease = s.power.lease) ∧
    (s.mgmt.starting = false ∨ 3 ≤ s.mgmt.last →
      (s.power.anyLease = false ∨ (seq ≠ s.power.lastSeq ∧ (seq - s.power.lastSeq).toNat < 2 ^ 31) → ∃ t,
        exec (.leaseReceipt seq w ms) s = .next t ∧
        t.power.lastSeq = seq ∧ t.power.lease = ⟨seq, max Config.floorWatts.toNat (min w 1500), ms⟩ ∧
        (t.power.active = true ↔ ms ≠ 0) ∧ t.power.expiry = s.power.ref.toNat + ms * 100000) ∧
      (s.power.anyLease = true → (seq = s.power.lastSeq ∨ 2 ^ 31 ≤ (seq - s.power.lastSeq).toNat) →
        exec (.leaseReceipt seq w ms) s = .next s)) ∧
    (s.power.active = true → ∃ t, exec .leaseExpiry s = .next t ∧ t.power.budget = Config.floorWatts.toNat ∧
      t.power.lease = s.power.lease ∧ SameMemory s t) ∧
    (s.power.active = false → exec .leaseExpiry s = .next s) ∧
    (s.power.expiry ≤ s.power.ref.toNat → s.power.budget = Config.floorWatts.toNat) ∧
    (s.power.active = true → s.power.ref.toNat < s.power.expiry → s.power.budget = s.power.lease.watts) ∧
    (∃ t u, exec (.powerCapControl true) s = .next t ∧ t.power.level = min (s.power.level + 1) 8 ∧
      exec (.powerCapControl false) s = .next u ∧ u.power.level = s.power.level - 1 ∧ SameMemory s t ∧ SameMemory s u ∧
      (s.power.level = 7 → t.power.measure = 4 ∧ t.mgmt.logNext = s.mgmt.logNext + 1) ∧ (s.power.level ≠ 7 → t.mgmt = s.mgmt)) ∧
    (s.power.derated.getLsbD stack = false → ∃ t, exec (.stackDerateEnter stack) s = .next t ∧
      t.power.derated.getLsbD stack = true ∧ t.power.derates = s.power.derates + 1 ∧ SameMemory s t) ∧
    (s.power.derated.getLsbD stack = true → exec (.stackDerateEnter stack) s = .next s) ∧
    (∃ t, exec (.stackDerateExit stack) s = .next t ∧ t.power.derated.getLsbD stack = false ∧ SameMemory s t)

/-! ## The machine as a whole -/

/-- A code line as the foot finds it (R88, R438, log 94): in the instruction cache, or in memory; none where it is poisoned. -/
def Sys2Proof.Spec.CodeLines : Prop :=
  ∀ (k : Nat) (b : List Byte) (s : State),
    (k ∈ s.core.badLines → s.codeLine k = none) ∧
    (k ∉ s.core.badLines → s.cached k = some b → s.codeLine k = some (b, s)) ∧
    (k ∉ s.core.badLines → s.cached k = none → s.poisonedLine k = false → ∃ t, s.codeLine k = some (s.bytes (k * 64) 64, t) ∧
      t.cached k = some (s.bytes (k * 64) 64) ∧ SameMemory s t ∧ t.pri = s.pri ∧ t.aux = s.aux) ∧
    (s.cached k = none → s.poisonedLine k = true → s.codeLine k = none)

/-- R87, R88: a thread that does not take a leader's instructions fetches the parcels at its program counter and decodes them. A line of a
counted host page is counted as well (R399). -/
def Sys2Proof.Spec.Fetches : Prop :=
  ∀ (i : Instr) (n : Nat) (b b2 : List Byte) (l m : Loc) (s s1 s2 s3 s4 : State),
    s.attached = false → (∀ x, l ≠ .host x true ∧ m ≠ .host x true) → codeLoc s.pc s = .ok (l, s1) → s1.codeLine (l.key / 64) = some (b, s2) →
      let p := leNat ((b.drop (l.key % 64)).take 2)
      let q := leNat ((b2.drop (m.key % 64)).take 2)
      (isLong p = false → s2.poolLine s.pc.toNat = false → decodeParcels p 0 = .ok (i, n) → threadFetch s = .ok (i, s2)) ∧
      (isLong p = true → codeLoc (s.pc + 2) s2 = .ok (m, s3) → s3.codeLine (m.key / 64) = some (b2, s4) →
        s4.poolLine s.pc.toNat = false → s4.poolLine (s.pc.toNat + 2) = false → decodeParcels p q = .ok (i, n) →
        threadFetch s = .ok (i, s4))

/-- Log 6 and log 8: a step of a thread performs the instruction that its fetch gives, with what the model's step adds: an instruction
that is issued anew has its tag and is counted, a leader forwards its parcels, the charge of R419, the other thread's wait tested again
and time passing; a fetch that traps takes its trap; an event of the agenda is performed. -/
def Sys2Proof.Spec.Steps : Prop :=
  ∀ (t : ThreadId) (i : Instr) (o : Outside) (c : Nat) (a x : Word) (s s1 : State) (rest : List Event),
    (s.agenda = [] → pickThread s s.runnable = some t → s.turn = false ∨ auto s = none →
      let new := (s.th t).fresh || (s.th t).anew
      let g : State := { s with turn := true, cur := t }
      let go := if new then g.setMe { g.me with pc := g.issuePc g.pc } else g
      let issued (u : State) : State := if new then u.newTag else u
      go.cur = t ∧ (go.attached = false → go.pc = (s.th t).pc) ∧ (∀ r, go.reg r = (s.th t).getS r) ∧ SameMemory s go ∧
      (s.starves t = true → step s = .next (tick s (awakenOther t (starve { s with turn := true })).settled)) ∧
      (s.starves t = false →
        (threadFetch go = .ok (i, s1) → s1.logFull i = true →
          step s = .next (tick s (awakenOther t (parkThread s1.starveWake s1)).settled)) ∧
        (threadFetch go = .ok (i, s1) → s1.logFull i = false →
          let now := if (s.th t).fresh then (issued s1).forwardParcels i else issued s1
          step s = match exec i now with
            | .next u => .next (tick s (awakenOther t (if committed now u then (chargeVec i u).popFwd else u)).settled)
            | o => o) ∧
        (threadFetch go = .error (.trap c a x s1) → step s = .next (tick s (awakenOther t (takeTrap c a x (issued s1))).settled)))) ∧
    (s.agenda = .row i :: rest → isEvent i = true → s.mgmt.powered = true → (isCoreEvent i = true → s.stands = false) →
      (∀ k, lineOf i = some k → s.lineStands k = false) →
      step s = match exec i { s with agenda := rest } with
        | .next u => .next (tick { s with agenda := rest } (awakenAfter (.row i) u).settled)
        | o => o) ∧
    (s.agenda = .out o :: rest → s.mgmt.powered = true → s.mgmt.starting = false →
      (o.reachesCore = true → s.clockStopped = false) →
      step s = .next (tick { s with agenda := rest } (awakenBoth (outside o { s with agenda := rest })).settled))

/-- R87 and R88: code lines, fetching, and what a step does with what it has fetched. Model's choices: that an instruction is performed in
one step (log 3), what a step is (log 6), whose turn it is (log 8), and what the instruction cache keeps (log 32, log 94). -/
def Obligations.StepRunsDecoded : Prop := Spec.CodeLines ∧ Spec.Fetches ∧ Spec.Steps

/-- R87, R91, R93, R95 to R99, R107 and R113: words written out from chapter 04's layouts, one of each, decode to the instruction they
stand for: A, A's immediate layout, V, M's three, B, J, E's two, S's three, and compact ones. That a table word of 32 bits has the first
parcel in its high half is the model's reading of the table (log 15). -/
def Obligations.DecodedWords : Prop :=
  decodeTableWord 32 0xC02A6866 = some (.sub true 5 (.s 6) (.k 3)) ∧
    decodeTableWord 32 0xE1304264 = some (.vfma 3 (.v 1) (.v 2) .f32 4) ∧
    decodeTableWord 32 0xE0517100 = some (.vaddI 5 (.v 5) (.lit 1) .i32 0) ∧
    decodeTableWord 32 0xE5404208 = some (.vsel 4 1 (.v 1) (.v 2) 0) ∧
    decodeTableWord 32 0xD61C6000 = some (.vld 1 .f32 3 0) ∧
    decodeTableWord 32 0b11_000100_00101_1111111111111110_000 = some (.li 5 0xFFFE) ∧
    decodeTableWord 32 0xD029BFF3 = some (.ld 5 6 0x7FE .hu) ∧
    decodeTableWord 32 0xD33A1386 = some (.stIndexed 7 8 9 3 .d) ∧
    decodeTableWord 32 0b11_001000_001_00011_00100_1_1111111110 = some (.b .ne 3 4 true 0x3FE) ∧
    decodeTableWord 32 0b11_001011_000000000000000000000101 = some (.jal 5) ∧
    decodeTableWord 32 0b11_101100_10_010000_010_01001_100_1_0_011 = some (.mma .m64 16 2 9 .lg6 true false 3) ∧
    decodeTableWord 32 0b11_101110_000_00010_001_00011_0000_1_000 = some (.tld .col 1 2 3 0) ∧
    decodeTableWord 32 0b11_110000_00100_00101_00000_000000_010 = some (.ttEnq 4 5) ∧
    decodeTableWord 32 0xD80001EE = some (.fence .ar .dev) ∧
    decodeTableWord 32 0b11_111010_00011_00000_000010101000_00 = some (.csrr 3 0x0A8) ∧
    decodeTableWord 16 0x0910 = some (.cMov 2 2) ∧ decodeTableWord 16 0x7800 = some .cNop ∧
    decodeTableWord 32 0 = none ∧ decodeTableWord 32 0xFFFFFFFF = none

/-- An event-space alias of R113, whose words are LD.D and ST.D. -/
def Sys2Proof.Spec.isAlias (i : Instr) : Bool :=
  match i with
  | .evArrive .. | .evDrop .. | .evWait .. | .evSync .. | .evLock .. | .evUnlock .. | .evSignal .. | .evClear ..
  | .evInit .. => true
  | _ => false

/-- R87 to R113: decoding and encoding agree for every instruction but the aliases of R113: what encodes is read back from
its bytes, whatever follows them, and whatever the decoder reads is well-formed and has just those bytes. -/
def Obligations.DecodeEncodeAgree : Prop :=
  ∀ (i : Instr) (n : Nat) (b rest : List Byte),
    (i.wf = true → Spec.isAlias i = false → encodeBytes i = some b →
      decodeBytes (b ++ rest) = .ok (i, size i) ∧ b.length = size i) ∧
    (decodeBytes b = .ok (i, n) →
      n = size i ∧ i.wf = true ∧ Spec.isAlias i = false ∧ encodeBytes i = some (b.take n))

/-- Memory, tags and poison stand in their canonical forms (log 14): equal contents are equal data. -/
def Sys2Proof.Spec.Canonical (s : State) : Prop :=
  Memory.wf s.mem = true ∧ swf false 0 s.tags = true ∧ swf false 0 s.poison = true

/-- Every step, and every instruction and event by itself, keeps memory, tags and poison in their canonical forms. This is
the model's own invariant (log 14). -/
def Obligations.CanonicalFormKept : Prop :=
  ∀ (i : Instr) (s t : State), Spec.Canonical s →
    (step s = .next t → Spec.Canonical t) ∧ (exec i s = .next t → Spec.Canonical t)

/-- Every instruction and event, performed in any state, gives a next state, or the one fault of the model: an access beyond the HBM's
end, whose effect the spec leaves open (R16, log 132). None is refused. -/
def Obligations.NothingRefused : Prop :=
  ∀ (i : Instr) (s : State),
    (∃ t, exec i s = .next t) ∨ exec i s = .fault .hbmBeyondEnd

/-- R375, R399, R418, R422, R431 and R432: State.reset is the device as its cold start begins, with the values the spec
gives; and its memory has its canonical form. The values that the model chose for the rest are those of log 2, and an unwritten byte reads 0
(log 14). -/
def Obligations.ResetState : Prop :=
  let s := State.reset
  Spec.Canonical s ∧ s.mgmt.starting = true ∧ s.mgmt.last = 0 ∧ s.mgmt.kind = 0 ∧ s.mgmt.ready = false ∧ s.mgmt.go = false ∧
    s.hostActhr = 256 ∧ s.power.ramp = 700 ∧ s.power.share = 0x19191919 ∧ s.power.derates = 0 ∧ s.power.active = false ∧
    (∀ k : Fin 4, s.power.rsv[k] = 0 ∧ s.power.lend[k] = 0) ∧ (∀ c, s.ctxState c = .unconfigured) ∧
    (∀ i : Fin 16, s.mgmt.meas[i] = 0) ∧ (∀ k, s.byte k = 0 ∧ s.tag k = false ∧ s.poisoned k = false) ∧
    (∀ k, s.line k = ELine.fresh)
end

