-- ==== Sys2Proof/Laws/Decode.lean ====
section
/-! SUPPORT. The laws of the layouts: each is read back from the word that is built from it, and the word shows its major
opcode. -/

set_option Elab.async false

namespace Sys2Proof

theorem Fin.ofNat_of_eq {n : Nat} [NeZero n] {x : Fin n} {k : Nat} (h : k = x.val) : Fin.ofNat n k = x := by
  subst h; simp

theorem BitVec.ofNat_of_eq {n : Nat} {x : BitVec n} {k : Nat} (h : k = x.toNat) : BitVec.ofNat n k = x := by
  subst h; simp

@[simp] theorem FmtA.of_word (m : Fin 64) (f : FmtA) : FmtA.of (FmtA.word m f) = f := by
  have hd := f.d.isLt
  have hk1 := f.k1.isLt
  have ha := f.a.isLt
  have hk2 := f.k2.isLt
  have hb := f.b.isLt
  have hfn := f.fn.isLt
  have hw := f.w.isLt
  have hz := f.z.isLt
  obtain ⟨d, k1, a, k2, b, fn, w, z⟩ := f
  simp only [FmtA.of, FmtA.word, majorWord, field] at *
  congr 1 <;> first | (apply Fin.ofNat_of_eq; omega) | (apply BitVec.ofNat_of_eq; omega)

@[simp] theorem FmtA.word_major (m : Fin 64) (f : FmtA) : field (FmtA.word m f) 24 8 = 192 + m.val := by
  have hd := f.d.isLt
  have hk1 := f.k1.isLt
  have ha := f.a.isLt
  have hk2 := f.k2.isLt
  have hb := f.b.isLt
  have hfn := f.fn.isLt
  have hw := f.w.isLt
  have hz := f.z.isLt
  have := m.isLt
  simp only [FmtA.word, majorWord, field]
  omega

theorem FmtA.word_range (m : Fin 64) (f : FmtA) : 0xC0000000 ≤ FmtA.word m f ∧ FmtA.word m f < 2 ^ 32 := by
  have hd := f.d.isLt
  have hk1 := f.k1.isLt
  have ha := f.a.isLt
  have hk2 := f.k2.isLt
  have hb := f.b.isLt
  have hfn := f.fn.isLt
  have hw := f.w.isLt
  have hz := f.z.isLt
  have := m.isLt
  simp only [FmtA.word, majorWord]
  omega

@[simp] theorem FmtI.of_word (m : Fin 64) (f : FmtI) : FmtI.of (FmtI.word m f) = f := by
  have hd := f.d.isLt
  have himm := f.imm.isLt
  have hfn := f.fn.isLt
  obtain ⟨d, imm, fn⟩ := f
  simp only [FmtI.of, FmtI.word, majorWord, field] at *
  congr 1 <;> first | (apply Fin.ofNat_of_eq; omega) | (apply BitVec.ofNat_of_eq; omega)

@[simp] theorem FmtI.word_major (m : Fin 64) (f : FmtI) : field (FmtI.word m f) 24 8 = 192 + m.val := by
  have hd := f.d.isLt
  have himm := f.imm.isLt
  have hfn := f.fn.isLt
  have := m.isLt
  simp only [FmtI.word, majorWord, field]
  omega

theorem FmtI.word_range (m : Fin 64) (f : FmtI) : 0xC0000000 ≤ FmtI.word m f ∧ FmtI.word m f < 2 ^ 32 := by
  have hd := f.d.isLt
  have himm := f.imm.isLt
  have hfn := f.fn.isLt
  have := m.isLt
  simp only [FmtI.word, majorWord]
  omega

@[simp] theorem FmtM.of_word (m : Fin 64) (f : FmtM) : FmtM.of (FmtM.word m f) = f := by
  have hd := f.d.isLt
  have hb := f.b.isLt
  have hoff := f.off.isLt
  have hfn := f.fn.isLt
  obtain ⟨d, b, off, fn⟩ := f
  simp only [FmtM.of, FmtM.word, majorWord, field] at *
  congr 1 <;> first | (apply Fin.ofNat_of_eq; omega) | (apply BitVec.ofNat_of_eq; omega)

@[simp] theorem FmtM.word_major (m : Fin 64) (f : FmtM) : field (FmtM.word m f) 24 8 = 192 + m.val := by
  have hd := f.d.isLt
  have hb := f.b.isLt
  have hoff := f.off.isLt
  have hfn := f.fn.isLt
  have := m.isLt
  simp only [FmtM.word, majorWord, field]
  omega

theorem FmtM.word_range (m : Fin 64) (f : FmtM) : 0xC0000000 ≤ FmtM.word m f ∧ FmtM.word m f < 2 ^ 32 := by
  have hd := f.d.isLt
  have hb := f.b.isLt
  have hoff := f.off.isLt
  have hfn := f.fn.isLt
  have := m.isLt
  simp only [FmtM.word, majorWord]
  omega

@[simp] theorem FmtX.of_word (m : Fin 64) (f : FmtX) : FmtX.of (FmtX.word m f) = f := by
  have hd := f.d.isLt
  have hb := f.b.isLt
  have hi := f.i.isLt
  have hsh := f.sh.isLt
  have hz := f.z.isLt
  have hfn := f.fn.isLt
  obtain ⟨d, b, i, sh, z, fn⟩ := f
  simp only [FmtX.of, FmtX.word, majorWord, field] at *
  congr 1 <;> first | (apply Fin.ofNat_of_eq; omega) | (apply BitVec.ofNat_of_eq; omega)

@[simp] theorem FmtX.word_major (m : Fin 64) (f : FmtX) : field (FmtX.word m f) 24 8 = 192 + m.val := by
  have hd := f.d.isLt
  have hb := f.b.isLt
  have hi := f.i.isLt
  have hsh := f.sh.isLt
  have hz := f.z.isLt
  have hfn := f.fn.isLt
  have := m.isLt
  simp only [FmtX.word, majorWord, field]
  omega

theorem FmtX.word_range (m : Fin 64) (f : FmtX) : 0xC0000000 ≤ FmtX.word m f ∧ FmtX.word m f < 2 ^ 32 := by
  have hd := f.d.isLt
  have hb := f.b.isLt
  have hi := f.i.isLt
  have hsh := f.sh.isLt
  have hz := f.z.isLt
  have hfn := f.fn.isLt
  have := m.isLt
  simp only [FmtX.word, majorWord]
  omega

@[simp] theorem FmtVM.of_word (m : Fin 64) (f : FmtVM) : FmtVM.of (FmtVM.word m f) = f := by
  have hv := f.v.isLt
  have hty := f.ty.isLt
  have hb := f.b.isLt
  have hoff := f.off.isLt
  have hfn := f.fn.isLt
  obtain ⟨v, ty, b, off, fn⟩ := f
  simp only [FmtVM.of, FmtVM.word, majorWord, field] at *
  congr 1 <;> first | (apply Fin.ofNat_of_eq; omega) | (apply BitVec.ofNat_of_eq; omega)

@[simp] theorem FmtVM.word_major (m : Fin 64) (f : FmtVM) : field (FmtVM.word m f) 24 8 = 192 + m.val := by
  have hv := f.v.isLt
  have hty := f.ty.isLt
  have hb := f.b.isLt
  have hoff := f.off.isLt
  have hfn := f.fn.isLt
  have := m.isLt
  simp only [FmtVM.word, majorWord, field]
  omega

theorem FmtVM.word_range (m : Fin 64) (f : FmtVM) : 0xC0000000 ≤ FmtVM.word m f ∧ FmtVM.word m f < 2 ^ 32 := by
  have hv := f.v.isLt
  have hty := f.ty.isLt
  have hb := f.b.isLt
  have hoff := f.off.isLt
  have hfn := f.fn.isLt
  have := m.isLt
  simp only [FmtVM.word, majorWord]
  omega

@[simp] theorem FmtVX.of_word (m : Fin 64) (f : FmtVX) : FmtVX.of (FmtVX.word m f) = f := by
  have hv := f.v.isLt
  have hty := f.ty.isLt
  have hb := f.b.isLt
  have hx := f.x.isLt
  have hz := f.z.isLt
  have hfn := f.fn.isLt
  obtain ⟨v, ty, b, x, z, fn⟩ := f
  simp only [FmtVX.of, FmtVX.word, majorWord, field] at *
  congr 1 <;> first | (apply Fin.ofNat_of_eq; omega) | (apply BitVec.ofNat_of_eq; omega)

@[simp] theorem FmtVX.word_major (m : Fin 64) (f : FmtVX) : field (FmtVX.word m f) 24 8 = 192 + m.val := by
  have hv := f.v.isLt
  have hty := f.ty.isLt
  have hb := f.b.isLt
  have hx := f.x.isLt
  have hz := f.z.isLt
  have hfn := f.fn.isLt
  have := m.isLt
  simp only [FmtVX.word, majorWord, field]
  omega

theorem FmtVX.word_range (m : Fin 64) (f : FmtVX) : 0xC0000000 ≤ FmtVX.word m f ∧ FmtVX.word m f < 2 ^ 32 := by
  have hv := f.v.isLt
  have hty := f.ty.isLt
  have hb := f.b.isLt
  have hx := f.x.isLt
  have hz := f.z.isLt
  have hfn := f.fn.isLt
  have := m.isLt
  simp only [FmtVX.word, majorWord]
  omega

@[simp] theorem FmtB.of_word (m : Fin 64) (f : FmtB) : FmtB.of (FmtB.word m f) = f := by
  have hc := f.c.isLt
  have hs1 := f.s1.isLt
  have hs2 := f.s2.isLt
  have hh := f.h.isLt
  have hoff := f.off.isLt
  obtain ⟨c, s1, s2, h, off⟩ := f
  simp only [FmtB.of, FmtB.word, majorWord, field] at *
  congr 1 <;> first | (apply Fin.ofNat_of_eq; omega) | (apply BitVec.ofNat_of_eq; omega)

@[simp] theorem FmtB.word_major (m : Fin 64) (f : FmtB) : field (FmtB.word m f) 24 8 = 192 + m.val := by
  have hc := f.c.isLt
  have hs1 := f.s1.isLt
  have hs2 := f.s2.isLt
  have hh := f.h.isLt
  have hoff := f.off.isLt
  have := m.isLt
  simp only [FmtB.word, majorWord, field]
  omega

theorem FmtB.word_range (m : Fin 64) (f : FmtB) : 0xC0000000 ≤ FmtB.word m f ∧ FmtB.word m f < 2 ^ 32 := by
  have hc := f.c.isLt
  have hs1 := f.s1.isLt
  have hs2 := f.s2.isLt
  have hh := f.h.isLt
  have hoff := f.off.isLt
  have := m.isLt
  simp only [FmtB.word, majorWord]
  omega

@[simp] theorem FmtV.of_word (m : Fin 64) (f : FmtV) : FmtV.of (FmtV.word m f) = f := by
  have hv := f.v.isLt
  have hk1 := f.k1.isLt
  have ha := f.a.isLt
  have hk2 := f.k2.isLt
  have hb := f.b.isLt
  have hfn := f.fn.isLt
  have ht := f.t.isLt
  have hdl := f.dl.isLt
  obtain ⟨v, k1, a, k2, b, fn, t, dl⟩ := f
  simp only [FmtV.of, FmtV.word, majorWord, field] at *
  congr 1 <;> first | (apply Fin.ofNat_of_eq; omega) | (apply BitVec.ofNat_of_eq; omega)

@[simp] theorem FmtV.word_major (m : Fin 64) (f : FmtV) : field (FmtV.word m f) 24 8 = 192 + m.val := by
  have hv := f.v.isLt
  have hk1 := f.k1.isLt
  have ha := f.a.isLt
  have hk2 := f.k2.isLt
  have hb := f.b.isLt
  have hfn := f.fn.isLt
  have ht := f.t.isLt
  have hdl := f.dl.isLt
  have := m.isLt
  simp only [FmtV.word, majorWord, field]
  omega

theorem FmtV.word_range (m : Fin 64) (f : FmtV) : 0xC0000000 ≤ FmtV.word m f ∧ FmtV.word m f < 2 ^ 32 := by
  have hv := f.v.isLt
  have hk1 := f.k1.isLt
  have ha := f.a.isLt
  have hk2 := f.k2.isLt
  have hb := f.b.isLt
  have hfn := f.fn.isLt
  have ht := f.t.isLt
  have hdl := f.dl.isLt
  have := m.isLt
  simp only [FmtV.word, majorWord]
  omega

@[simp] theorem FmtE.of_word (m : Fin 64) (f : FmtE) : FmtE.of (FmtE.word m f) = f := by
  have hm := f.m.isLt
  have hn := f.n.isLt
  have ht := f.t.isLt
  have hb := f.b.isLt
  have hp := f.p.isLt
  have hc := f.c.isLt
  have hu := f.u.isLt
  have hdl := f.dl.isLt
  obtain ⟨m, n, t, b, p, c, u, dl⟩ := f
  simp only [FmtE.of, FmtE.word, majorWord, field] at *
  congr 1 <;> first | (apply Fin.ofNat_of_eq; omega) | (apply BitVec.ofNat_of_eq; omega)

@[simp] theorem FmtE.word_major (m : Fin 64) (f : FmtE) : field (FmtE.word m f) 24 8 = 192 + m.val := by
  have hm := f.m.isLt
  have hn := f.n.isLt
  have ht := f.t.isLt
  have hb := f.b.isLt
  have hp := f.p.isLt
  have hc := f.c.isLt
  have hu := f.u.isLt
  have hdl := f.dl.isLt
  have := m.isLt
  simp only [FmtE.word, majorWord, field]
  omega

theorem FmtE.word_range (m : Fin 64) (f : FmtE) : 0xC0000000 ≤ FmtE.word m f ∧ FmtE.word m f < 2 ^ 32 := by
  have hm := f.m.isLt
  have hn := f.n.isLt
  have ht := f.t.isLt
  have hb := f.b.isLt
  have hp := f.p.isLt
  have hc := f.c.isLt
  have hu := f.u.isLt
  have hdl := f.dl.isLt
  have := m.isLt
  simp only [FmtE.word, majorWord]
  omega

@[simp] theorem FmtT.of_word (m : Fin 64) (f : FmtT) : FmtT.of (FmtT.word m f) = f := by
  have hfn := f.fn.isLt
  have ha := f.a.isLt
  have ht := f.t.isLt
  have hb := f.b.isLt
  have hv := f.v.isLt
  have hp := f.p.isLt
  have hdl := f.dl.isLt
  obtain ⟨fn, a, t, b, v, p, dl⟩ := f
  simp only [FmtT.of, FmtT.word, majorWord, field] at *
  congr 1 <;> first | (apply Fin.ofNat_of_eq; omega) | (apply BitVec.ofNat_of_eq; omega)

@[simp] theorem FmtT.word_major (m : Fin 64) (f : FmtT) : field (FmtT.word m f) 24 8 = 192 + m.val := by
  have hfn := f.fn.isLt
  have ha := f.a.isLt
  have ht := f.t.isLt
  have hb := f.b.isLt
  have hv := f.v.isLt
  have hp := f.p.isLt
  have hdl := f.dl.isLt
  have := m.isLt
  simp only [FmtT.word, majorWord, field]
  omega

theorem FmtT.word_range (m : Fin 64) (f : FmtT) : 0xC0000000 ≤ FmtT.word m f ∧ FmtT.word m f < 2 ^ 32 := by
  have hfn := f.fn.isLt
  have ha := f.a.isLt
  have ht := f.t.isLt
  have hb := f.b.isLt
  have hv := f.v.isLt
  have hp := f.p.isLt
  have hdl := f.dl.isLt
  have := m.isLt
  simp only [FmtT.word, majorWord]
  omega

@[simp] theorem FmtS.of_word (m : Fin 64) (f : FmtS) : FmtS.of (FmtS.word m f) = f := by
  have hd := f.d.isLt
  have ha := f.a.isLt
  have hb := f.b.isLt
  have himm := f.imm.isLt
  have hfn := f.fn.isLt
  obtain ⟨d, a, b, imm, fn⟩ := f
  simp only [FmtS.of, FmtS.word, majorWord, field] at *
  congr 1 <;> first | (apply Fin.ofNat_of_eq; omega) | (apply BitVec.ofNat_of_eq; omega)

@[simp] theorem FmtS.word_major (m : Fin 64) (f : FmtS) : field (FmtS.word m f) 24 8 = 192 + m.val := by
  have hd := f.d.isLt
  have ha := f.a.isLt
  have hb := f.b.isLt
  have himm := f.imm.isLt
  have hfn := f.fn.isLt
  have := m.isLt
  simp only [FmtS.word, majorWord, field]
  omega

theorem FmtS.word_range (m : Fin 64) (f : FmtS) : 0xC0000000 ≤ FmtS.word m f ∧ FmtS.word m f < 2 ^ 32 := by
  have hd := f.d.isLt
  have ha := f.a.isLt
  have hb := f.b.isLt
  have himm := f.imm.isLt
  have hfn := f.fn.isLt
  have := m.isLt
  simp only [FmtS.word, majorWord]
  omega

@[simp] theorem FmtAt.of_word (m : Fin 64) (f : FmtAt) : FmtAt.of (FmtAt.word m f) = f := by
  have hd := f.d.isLt
  have hb := f.b.isLt
  have hv := f.v.isLt
  have hop := f.op.isLt
  have ho := f.o.isLt
  have hc := f.c.isLt
  obtain ⟨d, b, v, op, o, c⟩ := f
  simp only [FmtAt.of, FmtAt.word, majorWord, field] at *
  congr 1 <;> first | (apply Fin.ofNat_of_eq; omega) | (apply BitVec.ofNat_of_eq; omega)

@[simp] theorem FmtAt.word_major (m : Fin 64) (f : FmtAt) : field (FmtAt.word m f) 24 8 = 192 + m.val := by
  have hd := f.d.isLt
  have hb := f.b.isLt
  have hv := f.v.isLt
  have hop := f.op.isLt
  have ho := f.o.isLt
  have hc := f.c.isLt
  have := m.isLt
  simp only [FmtAt.word, majorWord, field]
  omega

theorem FmtAt.word_range (m : Fin 64) (f : FmtAt) : 0xC0000000 ≤ FmtAt.word m f ∧ FmtAt.word m f < 2 ^ 32 := by
  have hd := f.d.isLt
  have hb := f.b.isLt
  have hv := f.v.isLt
  have hop := f.op.isLt
  have ho := f.o.isLt
  have hc := f.c.isLt
  have := m.isLt
  simp only [FmtAt.word, majorWord]
  omega

@[simp] theorem FmtC.of_word (m : Fin 64) (f : FmtC) : FmtC.of (FmtC.word m f) = f := by
  have hd := f.d.isLt
  have ha := f.a.isLt
  have hc := f.c.isLt
  have hfn := f.fn.isLt
  obtain ⟨d, a, c, fn⟩ := f
  simp only [FmtC.of, FmtC.word, majorWord, field] at *
  congr 1 <;> first | (apply Fin.ofNat_of_eq; omega) | (apply BitVec.ofNat_of_eq; omega)

@[simp] theorem FmtC.word_major (m : Fin 64) (f : FmtC) : field (FmtC.word m f) 24 8 = 192 + m.val := by
  have hd := f.d.isLt
  have ha := f.a.isLt
  have hc := f.c.isLt
  have hfn := f.fn.isLt
  have := m.isLt
  simp only [FmtC.word, majorWord, field]
  omega

theorem FmtC.word_range (m : Fin 64) (f : FmtC) : 0xC0000000 ≤ FmtC.word m f ∧ FmtC.word m f < 2 ^ 32 := by
  have hd := f.d.isLt
  have ha := f.a.isLt
  have hc := f.c.isLt
  have hfn := f.fn.isLt
  have := m.isLt
  simp only [FmtC.word, majorWord]
  omega

@[simp] theorem FmtCR.of_word (op : Fin 24) (f : FmtCR) : FmtCR.of (FmtCR.parcel op f) = f := by
  have hd := f.d.isLt
  have hs := f.s.isLt
  have hz := f.z.isLt
  obtain ⟨d, s, z⟩ := f
  simp only [FmtCR.of, FmtCR.parcel, field] at *
  congr 1 <;> first | (apply Fin.ofNat_of_eq; omega) | (apply BitVec.ofNat_of_eq; omega)

theorem FmtCR.parcel_op (op : Fin 24) (f : FmtCR) : field (FmtCR.parcel op f) 11 5 = op.val := by
  have hd := f.d.isLt
  have hs := f.s.isLt
  have hz := f.z.isLt
  have := op.isLt
  simp only [FmtCR.parcel, field]
  omega

theorem FmtCR.parcel_lt (op : Fin 24) (f : FmtCR) : FmtCR.parcel op f < 0xC000 := by
  have hd := f.d.isLt
  have hs := f.s.isLt
  have hz := f.z.isLt
  have := op.isLt
  simp only [FmtCR.parcel]
  omega

@[simp] theorem FmtCI.of_word (op : Fin 24) (f : FmtCI) : FmtCI.of (FmtCI.parcel op f) = f := by
  have hd := f.d.isLt
  have hi := f.i.isLt
  obtain ⟨d, i⟩ := f
  simp only [FmtCI.of, FmtCI.parcel, field] at *
  congr 1 <;> first | (apply Fin.ofNat_of_eq; omega) | (apply BitVec.ofNat_of_eq; omega)

theorem FmtCI.parcel_op (op : Fin 24) (f : FmtCI) : field (FmtCI.parcel op f) 11 5 = op.val := by
  have hd := f.d.isLt
  have hi := f.i.isLt
  have := op.isLt
  simp only [FmtCI.parcel, field]
  omega

theorem FmtCI.parcel_lt (op : Fin 24) (f : FmtCI) : FmtCI.parcel op f < 0xC000 := by
  have hd := f.d.isLt
  have hi := f.i.isLt
  have := op.isLt
  simp only [FmtCI.parcel]
  omega

/-! ## Operand fields -/

@[simp] theorem Src.of_kind (x : Src) : Src.of x.kind x.selector = .ok x := by cases x <;> simp [Src.of, Src.kind, Src.selector]
@[simp] theorem VSrc.of_kind (x : VSrc) : VSrc.of x.kind x.selector = x := by
  cases x <;> simp [VSrc.of, VSrc.kind, VSrc.selector]
@[simp] theorem AccMode.of_code (x : AccMode) : AccMode.of x.code = .ok x := by cases x <;> rfl
@[simp] theorem AccTy.of_code (x : AccTy) : AccTy.of x.code = .ok x := by cases x <;> rfl
@[simp] theorem AmoOp.of_code (x : AmoOp) : AmoOp.of x.code = .ok x := by cases x <;> rfl
@[simp] theorem CmpTy.of_code (x : CmpTy) : CmpTy.of x.code = .ok x := by cases x <;> rfl
@[simp] theorem Cond.of_code (x : Cond) : Cond.of x.code = .ok x := by cases x <;> rfl
@[simp] theorem DotTy.of_code (x : DotTy) : DotTy.of x.code = .ok x := by cases x <;> rfl
@[simp] theorem FltTy.of_code (x : FltTy) : FltTy.of x.code = .ok x := by cases x <;> rfl
@[simp] theorem ForkSel.of_code (x : ForkSel) : ForkSel.of x.code = .ok x := by cases x <;> rfl
@[simp] theorem IntTy.of_code (x : IntTy) : IntTy.of x.code = .ok x := by cases x <;> rfl
@[simp] theorem LdSize.of_code (x : LdSize) : LdSize.of x.code = .ok x := by cases x <;> rfl
@[simp] theorem MSize.of_code (x : MSize) : MSize.of x.code = .ok x := by cases x <;> rfl
@[simp] theorem MemTy.of_code (x : MemTy) : MemTy.of x.code = x := by cases x <;> rfl
@[simp] theorem Order.of_code (x : Order) : Order.of x.code = .ok x := by cases x <;> rfl
@[simp] theorem Pair.of_code (x : Pair) : Pair.of x.code = x := by cases x <;> rfl
@[simp] theorem Port.of_code (x : Port) : Port.of x.code = x := by cases x <;> rfl
@[simp] theorem Scope.of_code (x : Scope) : Scope.of x.code = x := by cases x <;> rfl
@[simp] theorem StSize.of_code (x : StSize) : StSize.of x.code = .ok x := by cases x <;> rfl
@[simp] theorem VCond.of_code (x : VCond) : VCond.of x.code = .ok x := by cases x <;> rfl
@[simp] theorem VFmt.of_code (x : VFmt) : VFmt.of x.code = x := by cases x <;> rfl
@[simp] theorem flag_unflag (b : Bool) : flag (unflag b) = b := by cases b <;> rfl
@[simp] theorem low8_wide16 (x : Fin 8) : low8 (wide 16 x) = x := by apply Fin.ext; simp [low8, wide, Fin.ofNat]
@[simp] theorem low8_wide32 (x : Fin 8) : low8 (wide 32 x) = x := by apply Fin.ext; simp [low8, wide, Fin.ofNat]
@[simp] theorem wide16_wide64 (x : Fin 16) : wide 16 (wide 64 x) = x := by apply Fin.ext; simp [wide, Fin.ofNat]
@[simp] theorem wide16_lt (x : Fin 8) : (wide 16 x).val < 8 := by simp [wide, Fin.ofNat]; omega
@[simp] theorem wide32_lt (x : Fin 8) : (wide 32 x).val < 8 := by simp [wide, Fin.ofNat]; omega
@[simp] theorem wide64_lt (x : Fin 16) : (wide 64 x).val < 16 := by simp [wide, Fin.ofNat]; omega

/-! ## The decoder on a word of each major opcode -/

@[simp] theorem decodeWord_0 (f : FmtA) : decodeWord (FmtA.word 0 f) = instrAlu 0 f := by
  simp [decodeWord]
@[simp] theorem decodeWord_1 (f : FmtA) : decodeWord (FmtA.word 1 f) = instrAlu 1 f := by
  simp [decodeWord]
@[simp] theorem decodeWord_2 (f : FmtA) : decodeWord (FmtA.word 2 f) = instrBits f := by
  simp [decodeWord]
@[simp] theorem decodeWord_3 (f : FmtA) : decodeWord (FmtA.word 3 f) = instrAlu 3 f := by
  simp [decodeWord, show (3 : Fin 64).val = 3 from rfl]
@[simp] theorem decodeWord_4 (f : FmtI) : decodeWord (FmtI.word 4 f) = instrImm f := by
  simp [decodeWord, show (4 : Fin 64).val = 4 from rfl]
@[simp] theorem decodeWord_5 (f : FmtA) : decodeWord (FmtA.word 5 f) = instrXreg f := by
  simp [decodeWord, show (5 : Fin 64).val = 5 from rfl]
@[simp] theorem decodeWord_6 (f : FmtM) : decodeWord (FmtM.word 6 f) = instrLea f := by
  simp [decodeWord, show (6 : Fin 64).val = 6 from rfl]
@[simp] theorem decodeWord_8 (f : FmtB) : decodeWord (FmtB.word 8 f) = instrBr f := by
  simp [decodeWord, show (8 : Fin 64).val = 8 from rfl]
@[simp] theorem decodeWord_9 (f : FmtB) : decodeWord (FmtB.word 9 f) = instrBsplit f := by
  simp [decodeWord, show (9 : Fin 64).val = 9 from rfl]
@[simp] theorem decodeWord_12 (f : FmtA) : decodeWord (FmtA.word 12 f) = instrCtl f := by
  simp [decodeWord, show (12 : Fin 64).val = 12 from rfl]
@[simp] theorem decodeWord_16 (f : FmtM) : decodeWord (FmtM.word 16 f) = instrLd f := by
  simp [decodeWord, show (16 : Fin 64).val = 16 from rfl]
@[simp] theorem decodeWord_17 (f : FmtX) : decodeWord (FmtX.word 17 f) = instrLdX f := by
  simp [decodeWord, show (17 : Fin 64).val = 17 from rfl]
@[simp] theorem decodeWord_18 (f : FmtM) : decodeWord (FmtM.word 18 f) = instrSt f := by
  simp [decodeWord, show (18 : Fin 64).val = 18 from rfl]
@[simp] theorem decodeWord_19 (f : FmtX) : decodeWord (FmtX.word 19 f) = instrStX f := by
  simp [decodeWord, show (19 : Fin 64).val = 19 from rfl]
@[simp] theorem decodeWord_20 (f : FmtM) : decodeWord (FmtM.word 20 f) = instrMemx f := by
  simp [decodeWord, show (20 : Fin 64).val = 20 from rfl]
@[simp] theorem decodeWord_21 (f : FmtM) : decodeWord (FmtM.word 21 f) = instrTag f := by
  simp [decodeWord, show (21 : Fin 64).val = 21 from rfl]
@[simp] theorem decodeWord_22 (f : FmtVM) : decodeWord (FmtVM.word 22 f) = instrVmem f (.of (FmtVM.word 22 f)) := by
  simp [decodeWord, show (22 : Fin 64).val = 22 from rfl]
@[simp] theorem decodeWord_22_index (f : FmtVX) : decodeWord (FmtVX.word 22 f) = instrVmem (.of (FmtVX.word 22 f)) f := by
  simp [decodeWord, show (22 : Fin 64).val = 22 from rfl]
@[simp] theorem decodeWord_24 (f : FmtAt) : decodeWord (FmtAt.word 24 f) = instrAmo false f := by
  simp [decodeWord, show (24 : Fin 64).val = 24 from rfl]
@[simp] theorem decodeWord_25 (f : FmtAt) : decodeWord (FmtAt.word 25 f) = instrAmo true f := by
  simp [decodeWord, show (25 : Fin 64).val = 25 from rfl]
@[simp] theorem decodeWord_32 (f : FmtV) : decodeWord (FmtV.word 32 f) = instrVint f := by
  simp [decodeWord, show (32 : Fin 64).val = 32 from rfl]
@[simp] theorem decodeWord_33 (f : FmtV) : decodeWord (FmtV.word 33 f) = instrVflt f := by
  simp [decodeWord, show (33 : Fin 64).val = 33 from rfl]
@[simp] theorem decodeWord_34 (f : FmtV) : decodeWord (FmtV.word 34 f) = instrVfun f := by
  simp [decodeWord, show (34 : Fin 64).val = 34 from rfl]
@[simp] theorem decodeWord_35 (f : FmtV) : decodeWord (FmtV.word 35 f) = instrVlog f := by
  simp [decodeWord, show (35 : Fin 64).val = 35 from rfl]
@[simp] theorem decodeWord_36 (f : FmtV) : decodeWord (FmtV.word 36 f) = instrVcmp f := by
  simp [decodeWord, show (36 : Fin 64).val = 36 from rfl]
@[simp] theorem decodeWord_37 (f : FmtV) : decodeWord (FmtV.word 37 f) = instrVprm f := by
  simp [decodeWord, show (37 : Fin 64).val = 37 from rfl]
@[simp] theorem decodeWord_38 (f : FmtV) : decodeWord (FmtV.word 38 f) = instrVred f := by
  simp [decodeWord, show (38 : Fin 64).val = 38 from rfl]
@[simp] theorem decodeWord_39 (f : FmtV) : decodeWord (FmtV.word 39 f) = instrVcvt f := by
  simp [decodeWord, show (39 : Fin 64).val = 39 from rfl]
@[simp] theorem decodeWord_40 (f : FmtV) : decodeWord (FmtV.word 40 f) = instrVmsk f := by
  simp [decodeWord, show (40 : Fin 64).val = 40 from rfl]
@[simp] theorem decodeWord_41 (f : FmtS) : decodeWord (FmtS.word 41 f) = instrCxm f := by
  simp [decodeWord, show (41 : Fin 64).val = 41 from rfl]
@[simp] theorem decodeWord_42 (f : FmtV) : decodeWord (FmtV.word 42 f) = instrCx false f := by
  simp [decodeWord, show (42 : Fin 64).val = 42 from rfl]
@[simp] theorem decodeWord_43 (f : FmtV) : decodeWord (FmtV.word 43 f) = instrCx true f := by
  simp [decodeWord, show (43 : Fin 64).val = 43 from rfl]
@[simp] theorem decodeWord_44 (f : FmtE) : decodeWord (FmtE.word 44 f) = instrMma f := by
  simp [decodeWord, show (44 : Fin 64).val = 44 from rfl]
@[simp] theorem decodeWord_45 (f : FmtE) : decodeWord (FmtE.word 45 f) = instrMmas f := by
  simp [decodeWord, show (45 : Fin 64).val = 45 from rfl]
@[simp] theorem decodeWord_46 (f : FmtT) : decodeWord (FmtT.word 46 f) = instrTile f := by
  simp [decodeWord, show (46 : Fin 64).val = 46 from rfl]
@[simp] theorem decodeWord_47 (f : FmtT) : decodeWord (FmtT.word 47 f) = instrAcc f := by
  simp [decodeWord, show (47 : Fin 64).val = 47 from rfl]
@[simp] theorem decodeWord_48 (f : FmtS) : decodeWord (FmtS.word 48 f) = instrEng f := by
  simp [decodeWord, show (48 : Fin 64).val = 48 from rfl]
@[simp] theorem decodeWord_49 (f : FmtS) : decodeWord (FmtS.word 49 f) = instrStrm f := by
  simp [decodeWord, show (49 : Fin 64).val = 49 from rfl]
@[simp] theorem decodeWord_50 (f : FmtS) : decodeWord (FmtS.word 50 f) = instrKrn f := by
  simp [decodeWord, show (50 : Fin 64).val = 50 from rfl]
@[simp] theorem decodeWord_51 (f : FmtS) : decodeWord (FmtS.word 51 f) = instrChn f := by
  simp [decodeWord, show (51 : Fin 64).val = 51 from rfl]
@[simp] theorem decodeWord_56 (f : FmtS) : decodeWord (FmtS.word 56 f) = instrSys f := by
  simp [decodeWord, show (56 : Fin 64).val = 56 from rfl]
@[simp] theorem decodeWord_57 (f : FmtS) : decodeWord (FmtS.word 57 f) = instrTlb f := by
  simp [decodeWord, show (57 : Fin 64).val = 57 from rfl]
@[simp] theorem decodeWord_58 (f : FmtC) : decodeWord (FmtC.word 58 f) = instrCsr f := by
  simp [decodeWord, show (58 : Fin 64).val = 58 from rfl]

@[simp] theorem FmtVM.of_index_fn (m : Fin 64) (f : FmtVX) : (FmtVM.of (FmtVX.word m f)).fn = f.fn := by
  have hv := f.v.isLt
  have hty := f.ty.isLt
  have hb := f.b.isLt
  have hx := f.x.isLt
  have hz := f.z.isLt
  have hfn := f.fn.isLt
  simp only [FmtVM.of, FmtVX.word, majorWord, field]
  apply Fin.ofNat_of_eq
  omega

end Sys2Proof
end

