-- ==== Sys2Proof/Laws/State.lean ====
section
/-! SUPPORT. What each update of State leaves alone: one lemma for each field and update. -/

set_option Elab.async false

namespace Sys2Proof.Machine

variable (s : State)

/-! ## A thread replaced -/

@[simp] theorem State.setTh_cur (t : ThreadId) (x : Thread) : (s.setTh t x).cur = s.cur := by cases t <;> rfl
@[simp] theorem State.setTh_auxIdle (t : ThreadId) (x : Thread) : (s.setTh t x).auxIdle = s.auxIdle := by cases t <;> rfl
@[simp] theorem State.setTh_turn (t : ThreadId) (x : Thread) : (s.setTh t x).turn = s.turn := by cases t <;> rfl
@[simp] theorem State.setTh_core (t : ThreadId) (x : Thread) : (s.setTh t x).core = s.core := by cases t <;> rfl
@[simp] theorem State.setTh_launches (t : ThreadId) (x : Thread) : (s.setTh t x).launches = s.launches := by cases t <;> rfl
@[simp] theorem State.setTh_ctxs (t : ThreadId) (x : Thread) : (s.setTh t x).ctxs = s.ctxs := by cases t <;> rfl
@[simp] theorem State.setTh_ctxBase (t : ThreadId) (x : Thread) : (s.setTh t x).ctxBase = s.ctxBase := by cases t <;> rfl
@[simp] theorem State.setTh_queues (t : ThreadId) (x : Thread) : (s.setTh t x).queues = s.queues := by cases t <;> rfl
@[simp] theorem State.setTh_nextLaunch (t : ThreadId) (x : Thread) : (s.setTh t x).nextLaunch = s.nextLaunch := by cases t <;> rfl
@[simp] theorem State.setTh_outbox (t : ThreadId) (x : Thread) : (s.setTh t x).outbox = s.outbox := by cases t <;> rfl
@[simp] theorem State.setTh_lines (t : ThreadId) (x : Thread) : (s.setTh t x).lines = s.lines := by cases t <;> rfl
@[simp] theorem State.setTh_flight (t : ThreadId) (x : Thread) : (s.setTh t x).flight = s.flight := by cases t <;> rfl
@[simp] theorem State.setTh_tasks (t : ThreadId) (x : Thread) : (s.setTh t x).tasks = s.tasks := by cases t <;> rfl
@[simp] theorem State.setTh_rmap (t : ThreadId) (x : Thread) : (s.setTh t x).rmap = s.rmap := by cases t <;> rfl
@[simp] theorem State.setTh_routes (t : ThreadId) (x : Thread) : (s.setTh t x).routes = s.routes := by cases t <;> rfl
@[simp] theorem State.setTh_rstages (t : ThreadId) (x : Thread) : (s.setTh t x).rstages = s.rstages := by cases t <;> rfl
@[simp] theorem State.setTh_fabric (t : ThreadId) (x : Thread) : (s.setTh t x).fabric = s.fabric := by cases t <;> rfl
@[simp] theorem State.setTh_sent (t : ThreadId) (x : Thread) : (s.setTh t x).sent = s.sent := by cases t <;> rfl
@[simp] theorem State.setTh_clusterTlb (t : ThreadId) (x : Thread) : (s.setTh t x).clusterTlb = s.clusterTlb := by cases t <;> rfl
@[simp] theorem State.setTh_dieTlb (t : ThreadId) (x : Thread) : (s.setTh t x).dieTlb = s.dieTlb := by cases t <;> rfl
@[simp] theorem State.setTh_shoots (t : ThreadId) (x : Thread) : (s.setTh t x).shoots = s.shoots := by cases t <;> rfl
@[simp] theorem State.setTh_farFmt (t : ThreadId) (x : Thread) : (s.setTh t x).farFmt = s.farFmt := by cases t <;> rfl
@[simp] theorem State.setTh_hostActhr (t : ThreadId) (x : Thread) : (s.setTh t x).hostActhr = s.hostActhr := by cases t <;> rfl
@[simp] theorem State.setTh_hostCounts (t : ThreadId) (x : Thread) : (s.setTh t x).hostCounts = s.hostCounts := by cases t <;> rfl
@[simp] theorem State.setTh_mem (t : ThreadId) (x : Thread) : (s.setTh t x).mem = s.mem := by cases t <;> rfl
@[simp] theorem State.setTh_tags (t : ThreadId) (x : Thread) : (s.setTh t x).tags = s.tags := by cases t <;> rfl
@[simp] theorem State.setTh_poison (t : ThreadId) (x : Thread) : (s.setTh t x).poison = s.poison := by cases t <;> rfl
@[simp] theorem State.setTh_mgmt (t : ThreadId) (x : Thread) : (s.setTh t x).mgmt = s.mgmt := by cases t <;> rfl
@[simp] theorem State.setTh_power (t : ThreadId) (x : Thread) : (s.setTh t x).power = s.power := by cases t <;> rfl
@[simp] theorem State.setTh_streams (t : ThreadId) (x : Thread) : (s.setTh t x).streams = s.streams := by cases t <;> rfl
@[simp] theorem State.setTh_late (t : ThreadId) (x : Thread) : (s.setTh t x).late = s.late := by cases t <;> rfl
@[simp] theorem State.setTh_agenda (t : ThreadId) (x : Thread) : (s.setTh t x).agenda = s.agenda := by cases t <;> rfl
@[simp] theorem State.setTh_freeCtr (t : ThreadId) (x : Thread) : (s.setTh t x).freeCtr = s.freeCtr := by cases t <;> rfl
@[simp] theorem State.setTh_th (t : ThreadId) (x : Thread) : (s.setTh t x).th t = x := by cases t <;> rfl
@[simp] theorem State.setTh_setTh (t : ThreadId) (x y : Thread) : (s.setTh t x).setTh t y = s.setTh t y := by cases t <;> rfl
@[simp] theorem State.setTh_self (t : ThreadId) : s.setTh t (s.th t) = s := by cases t <;> rfl

@[simp] theorem State.setMe_cur (x : Thread) : (s.setMe x).cur = s.cur := by simp [State.setMe]
@[simp] theorem State.setMe_auxIdle (x : Thread) : (s.setMe x).auxIdle = s.auxIdle := by simp [State.setMe]
@[simp] theorem State.setMe_turn (x : Thread) : (s.setMe x).turn = s.turn := by simp [State.setMe]
@[simp] theorem State.setMe_core (x : Thread) : (s.setMe x).core = s.core := by simp [State.setMe]
@[simp] theorem State.setMe_launches (x : Thread) : (s.setMe x).launches = s.launches := by simp [State.setMe]
@[simp] theorem State.setMe_ctxs (x : Thread) : (s.setMe x).ctxs = s.ctxs := by simp [State.setMe]
@[simp] theorem State.setMe_ctxBase (x : Thread) : (s.setMe x).ctxBase = s.ctxBase := by simp [State.setMe]
@[simp] theorem State.setMe_queues (x : Thread) : (s.setMe x).queues = s.queues := by simp [State.setMe]
@[simp] theorem State.setMe_nextLaunch (x : Thread) : (s.setMe x).nextLaunch = s.nextLaunch := by simp [State.setMe]
@[simp] theorem State.setMe_outbox (x : Thread) : (s.setMe x).outbox = s.outbox := by simp [State.setMe]
@[simp] theorem State.setMe_lines (x : Thread) : (s.setMe x).lines = s.lines := by simp [State.setMe]
@[simp] theorem State.setMe_flight (x : Thread) : (s.setMe x).flight = s.flight := by simp [State.setMe]
@[simp] theorem State.setMe_tasks (x : Thread) : (s.setMe x).tasks = s.tasks := by simp [State.setMe]
@[simp] theorem State.setMe_rmap (x : Thread) : (s.setMe x).rmap = s.rmap := by simp [State.setMe]
@[simp] theorem State.setMe_routes (x : Thread) : (s.setMe x).routes = s.routes := by simp [State.setMe]
@[simp] theorem State.setMe_rstages (x : Thread) : (s.setMe x).rstages = s.rstages := by simp [State.setMe]
@[simp] theorem State.setMe_fabric (x : Thread) : (s.setMe x).fabric = s.fabric := by simp [State.setMe]
@[simp] theorem State.setMe_sent (x : Thread) : (s.setMe x).sent = s.sent := by simp [State.setMe]
@[simp] theorem State.setMe_clusterTlb (x : Thread) : (s.setMe x).clusterTlb = s.clusterTlb := by simp [State.setMe]
@[simp] theorem State.setMe_dieTlb (x : Thread) : (s.setMe x).dieTlb = s.dieTlb := by simp [State.setMe]
@[simp] theorem State.setMe_shoots (x : Thread) : (s.setMe x).shoots = s.shoots := by simp [State.setMe]
@[simp] theorem State.setMe_farFmt (x : Thread) : (s.setMe x).farFmt = s.farFmt := by simp [State.setMe]
@[simp] theorem State.setMe_hostActhr (x : Thread) : (s.setMe x).hostActhr = s.hostActhr := by simp [State.setMe]
@[simp] theorem State.setMe_hostCounts (x : Thread) : (s.setMe x).hostCounts = s.hostCounts := by simp [State.setMe]
@[simp] theorem State.setMe_mem (x : Thread) : (s.setMe x).mem = s.mem := by simp [State.setMe]
@[simp] theorem State.setMe_tags (x : Thread) : (s.setMe x).tags = s.tags := by simp [State.setMe]
@[simp] theorem State.setMe_poison (x : Thread) : (s.setMe x).poison = s.poison := by simp [State.setMe]
@[simp] theorem State.setMe_mgmt (x : Thread) : (s.setMe x).mgmt = s.mgmt := by simp [State.setMe]
@[simp] theorem State.setMe_power (x : Thread) : (s.setMe x).power = s.power := by simp [State.setMe]
@[simp] theorem State.setMe_streams (x : Thread) : (s.setMe x).streams = s.streams := by simp [State.setMe]
@[simp] theorem State.setMe_late (x : Thread) : (s.setMe x).late = s.late := by simp [State.setMe]
@[simp] theorem State.setMe_agenda (x : Thread) : (s.setMe x).agenda = s.agenda := by simp [State.setMe]
@[simp] theorem State.setMe_freeCtr (x : Thread) : (s.setMe x).freeCtr = s.freeCtr := by simp [State.setMe]
@[simp] theorem State.setMe_me (x : Thread) : (s.setMe x).me = x := by simp [State.setMe, State.me]
@[simp] theorem State.setMe_setMe (x y : Thread) : (s.setMe x).setMe y = s.setMe y := by simp [State.setMe]
@[simp] theorem State.setMe_self : s.setMe s.me = s := by simp [State.setMe, State.me]

/-! ## Registers, flags and the program counter -/

@[simp] theorem State.setReg_cur (d : Fin 32) (v : Word) : (s.setReg d v).cur = s.cur := by simp [State.setReg]
@[simp] theorem State.setReg_auxIdle (d : Fin 32) (v : Word) : (s.setReg d v).auxIdle = s.auxIdle := by simp [State.setReg]
@[simp] theorem State.setReg_turn (d : Fin 32) (v : Word) : (s.setReg d v).turn = s.turn := by simp [State.setReg]
@[simp] theorem State.setReg_core (d : Fin 32) (v : Word) : (s.setReg d v).core = s.core := by simp [State.setReg]
@[simp] theorem State.setReg_launches (d : Fin 32) (v : Word) : (s.setReg d v).launches = s.launches := by simp [State.setReg]
@[simp] theorem State.setReg_ctxs (d : Fin 32) (v : Word) : (s.setReg d v).ctxs = s.ctxs := by simp [State.setReg]
@[simp] theorem State.setReg_ctxBase (d : Fin 32) (v : Word) : (s.setReg d v).ctxBase = s.ctxBase := by simp [State.setReg]
@[simp] theorem State.setReg_queues (d : Fin 32) (v : Word) : (s.setReg d v).queues = s.queues := by simp [State.setReg]
@[simp] theorem State.setReg_nextLaunch (d : Fin 32) (v : Word) : (s.setReg d v).nextLaunch = s.nextLaunch := by simp [State.setReg]
@[simp] theorem State.setReg_outbox (d : Fin 32) (v : Word) : (s.setReg d v).outbox = s.outbox := by simp [State.setReg]
@[simp] theorem State.setReg_lines (d : Fin 32) (v : Word) : (s.setReg d v).lines = s.lines := by simp [State.setReg]
@[simp] theorem State.setReg_flight (d : Fin 32) (v : Word) : (s.setReg d v).flight = s.flight := by simp [State.setReg]
@[simp] theorem State.setReg_tasks (d : Fin 32) (v : Word) : (s.setReg d v).tasks = s.tasks := by simp [State.setReg]
@[simp] theorem State.setReg_rmap (d : Fin 32) (v : Word) : (s.setReg d v).rmap = s.rmap := by simp [State.setReg]
@[simp] theorem State.setReg_routes (d : Fin 32) (v : Word) : (s.setReg d v).routes = s.routes := by simp [State.setReg]
@[simp] theorem State.setReg_rstages (d : Fin 32) (v : Word) : (s.setReg d v).rstages = s.rstages := by simp [State.setReg]
@[simp] theorem State.setReg_fabric (d : Fin 32) (v : Word) : (s.setReg d v).fabric = s.fabric := by simp [State.setReg]
@[simp] theorem State.setReg_sent (d : Fin 32) (v : Word) : (s.setReg d v).sent = s.sent := by simp [State.setReg]
@[simp] theorem State.setReg_clusterTlb (d : Fin 32) (v : Word) : (s.setReg d v).clusterTlb = s.clusterTlb := by simp [State.setReg]
@[simp] theorem State.setReg_dieTlb (d : Fin 32) (v : Word) : (s.setReg d v).dieTlb = s.dieTlb := by simp [State.setReg]
@[simp] theorem State.setReg_shoots (d : Fin 32) (v : Word) : (s.setReg d v).shoots = s.shoots := by simp [State.setReg]
@[simp] theorem State.setReg_farFmt (d : Fin 32) (v : Word) : (s.setReg d v).farFmt = s.farFmt := by simp [State.setReg]
@[simp] theorem State.setReg_hostActhr (d : Fin 32) (v : Word) : (s.setReg d v).hostActhr = s.hostActhr := by simp [State.setReg]
@[simp] theorem State.setReg_hostCounts (d : Fin 32) (v : Word) : (s.setReg d v).hostCounts = s.hostCounts := by simp [State.setReg]
@[simp] theorem State.setReg_mem (d : Fin 32) (v : Word) : (s.setReg d v).mem = s.mem := by simp [State.setReg]
@[simp] theorem State.setReg_tags (d : Fin 32) (v : Word) : (s.setReg d v).tags = s.tags := by simp [State.setReg]
@[simp] theorem State.setReg_poison (d : Fin 32) (v : Word) : (s.setReg d v).poison = s.poison := by simp [State.setReg]
@[simp] theorem State.setReg_mgmt (d : Fin 32) (v : Word) : (s.setReg d v).mgmt = s.mgmt := by simp [State.setReg]
@[simp] theorem State.setReg_power (d : Fin 32) (v : Word) : (s.setReg d v).power = s.power := by simp [State.setReg]
@[simp] theorem State.setReg_streams (d : Fin 32) (v : Word) : (s.setReg d v).streams = s.streams := by simp [State.setReg]
@[simp] theorem State.setReg_late (d : Fin 32) (v : Word) : (s.setReg d v).late = s.late := by simp [State.setReg]
@[simp] theorem State.setReg_agenda (d : Fin 32) (v : Word) : (s.setReg d v).agenda = s.agenda := by simp [State.setReg]
@[simp] theorem State.setReg_freeCtr (d : Fin 32) (v : Word) : (s.setReg d v).freeCtr = s.freeCtr := by simp [State.setReg]

@[simp] theorem State.setXreg_cur (n : Fin 8) (v : Word) : (s.setXreg n v).cur = s.cur := by simp [State.setXreg]
@[simp] theorem State.setXreg_auxIdle (n : Fin 8) (v : Word) : (s.setXreg n v).auxIdle = s.auxIdle := by simp [State.setXreg]
@[simp] theorem State.setXreg_turn (n : Fin 8) (v : Word) : (s.setXreg n v).turn = s.turn := by simp [State.setXreg]
@[simp] theorem State.setXreg_core (n : Fin 8) (v : Word) : (s.setXreg n v).core = s.core := by simp [State.setXreg]
@[simp] theorem State.setXreg_launches (n : Fin 8) (v : Word) : (s.setXreg n v).launches = s.launches := by simp [State.setXreg]
@[simp] theorem State.setXreg_ctxs (n : Fin 8) (v : Word) : (s.setXreg n v).ctxs = s.ctxs := by simp [State.setXreg]
@[simp] theorem State.setXreg_ctxBase (n : Fin 8) (v : Word) : (s.setXreg n v).ctxBase = s.ctxBase := by simp [State.setXreg]
@[simp] theorem State.setXreg_queues (n : Fin 8) (v : Word) : (s.setXreg n v).queues = s.queues := by simp [State.setXreg]
@[simp] theorem State.setXreg_nextLaunch (n : Fin 8) (v : Word) : (s.setXreg n v).nextLaunch = s.nextLaunch := by simp [State.setXreg]
@[simp] theorem State.setXreg_outbox (n : Fin 8) (v : Word) : (s.setXreg n v).outbox = s.outbox := by simp [State.setXreg]
@[simp] theorem State.setXreg_lines (n : Fin 8) (v : Word) : (s.setXreg n v).lines = s.lines := by simp [State.setXreg]
@[simp] theorem State.setXreg_flight (n : Fin 8) (v : Word) : (s.setXreg n v).flight = s.flight := by simp [State.setXreg]
@[simp] theorem State.setXreg_tasks (n : Fin 8) (v : Word) : (s.setXreg n v).tasks = s.tasks := by simp [State.setXreg]
@[simp] theorem State.setXreg_rmap (n : Fin 8) (v : Word) : (s.setXreg n v).rmap = s.rmap := by simp [State.setXreg]
@[simp] theorem State.setXreg_routes (n : Fin 8) (v : Word) : (s.setXreg n v).routes = s.routes := by simp [State.setXreg]
@[simp] theorem State.setXreg_rstages (n : Fin 8) (v : Word) : (s.setXreg n v).rstages = s.rstages := by simp [State.setXreg]
@[simp] theorem State.setXreg_fabric (n : Fin 8) (v : Word) : (s.setXreg n v).fabric = s.fabric := by simp [State.setXreg]
@[simp] theorem State.setXreg_sent (n : Fin 8) (v : Word) : (s.setXreg n v).sent = s.sent := by simp [State.setXreg]
@[simp] theorem State.setXreg_clusterTlb (n : Fin 8) (v : Word) : (s.setXreg n v).clusterTlb = s.clusterTlb := by simp [State.setXreg]
@[simp] theorem State.setXreg_dieTlb (n : Fin 8) (v : Word) : (s.setXreg n v).dieTlb = s.dieTlb := by simp [State.setXreg]
@[simp] theorem State.setXreg_shoots (n : Fin 8) (v : Word) : (s.setXreg n v).shoots = s.shoots := by simp [State.setXreg]
@[simp] theorem State.setXreg_farFmt (n : Fin 8) (v : Word) : (s.setXreg n v).farFmt = s.farFmt := by simp [State.setXreg]
@[simp] theorem State.setXreg_hostActhr (n : Fin 8) (v : Word) : (s.setXreg n v).hostActhr = s.hostActhr := by simp [State.setXreg]
@[simp] theorem State.setXreg_hostCounts (n : Fin 8) (v : Word) : (s.setXreg n v).hostCounts = s.hostCounts := by simp [State.setXreg]
@[simp] theorem State.setXreg_mem (n : Fin 8) (v : Word) : (s.setXreg n v).mem = s.mem := by simp [State.setXreg]
@[simp] theorem State.setXreg_tags (n : Fin 8) (v : Word) : (s.setXreg n v).tags = s.tags := by simp [State.setXreg]
@[simp] theorem State.setXreg_poison (n : Fin 8) (v : Word) : (s.setXreg n v).poison = s.poison := by simp [State.setXreg]
@[simp] theorem State.setXreg_mgmt (n : Fin 8) (v : Word) : (s.setXreg n v).mgmt = s.mgmt := by simp [State.setXreg]
@[simp] theorem State.setXreg_power (n : Fin 8) (v : Word) : (s.setXreg n v).power = s.power := by simp [State.setXreg]
@[simp] theorem State.setXreg_streams (n : Fin 8) (v : Word) : (s.setXreg n v).streams = s.streams := by simp [State.setXreg]
@[simp] theorem State.setXreg_late (n : Fin 8) (v : Word) : (s.setXreg n v).late = s.late := by simp [State.setXreg]
@[simp] theorem State.setXreg_agenda (n : Fin 8) (v : Word) : (s.setXreg n v).agenda = s.agenda := by simp [State.setXreg]
@[simp] theorem State.setXreg_freeCtr (n : Fin 8) (v : Word) : (s.setXreg n v).freeCtr = s.freeCtr := by simp [State.setXreg]

@[simp] theorem State.goto_cur (a : Word) : (s.goto a).cur = s.cur := by simp [State.goto]
@[simp] theorem State.goto_auxIdle (a : Word) : (s.goto a).auxIdle = s.auxIdle := by simp [State.goto]
@[simp] theorem State.goto_turn (a : Word) : (s.goto a).turn = s.turn := by simp [State.goto]
@[simp] theorem State.goto_core (a : Word) : (s.goto a).core = s.core := by simp [State.goto]
@[simp] theorem State.goto_launches (a : Word) : (s.goto a).launches = s.launches := by simp [State.goto]
@[simp] theorem State.goto_ctxs (a : Word) : (s.goto a).ctxs = s.ctxs := by simp [State.goto]
@[simp] theorem State.goto_ctxBase (a : Word) : (s.goto a).ctxBase = s.ctxBase := by simp [State.goto]
@[simp] theorem State.goto_queues (a : Word) : (s.goto a).queues = s.queues := by simp [State.goto]
@[simp] theorem State.goto_nextLaunch (a : Word) : (s.goto a).nextLaunch = s.nextLaunch := by simp [State.goto]
@[simp] theorem State.goto_outbox (a : Word) : (s.goto a).outbox = s.outbox := by simp [State.goto]
@[simp] theorem State.goto_lines (a : Word) : (s.goto a).lines = s.lines := by simp [State.goto]
@[simp] theorem State.goto_flight (a : Word) : (s.goto a).flight = s.flight := by simp [State.goto]
@[simp] theorem State.goto_tasks (a : Word) : (s.goto a).tasks = s.tasks := by simp [State.goto]
@[simp] theorem State.goto_rmap (a : Word) : (s.goto a).rmap = s.rmap := by simp [State.goto]
@[simp] theorem State.goto_routes (a : Word) : (s.goto a).routes = s.routes := by simp [State.goto]
@[simp] theorem State.goto_rstages (a : Word) : (s.goto a).rstages = s.rstages := by simp [State.goto]
@[simp] theorem State.goto_fabric (a : Word) : (s.goto a).fabric = s.fabric := by simp [State.goto]
@[simp] theorem State.goto_sent (a : Word) : (s.goto a).sent = s.sent := by simp [State.goto]
@[simp] theorem State.goto_clusterTlb (a : Word) : (s.goto a).clusterTlb = s.clusterTlb := by simp [State.goto]
@[simp] theorem State.goto_dieTlb (a : Word) : (s.goto a).dieTlb = s.dieTlb := by simp [State.goto]
@[simp] theorem State.goto_shoots (a : Word) : (s.goto a).shoots = s.shoots := by simp [State.goto]
@[simp] theorem State.goto_farFmt (a : Word) : (s.goto a).farFmt = s.farFmt := by simp [State.goto]
@[simp] theorem State.goto_hostActhr (a : Word) : (s.goto a).hostActhr = s.hostActhr := by simp [State.goto]
@[simp] theorem State.goto_hostCounts (a : Word) : (s.goto a).hostCounts = s.hostCounts := by simp [State.goto]
@[simp] theorem State.goto_mem (a : Word) : (s.goto a).mem = s.mem := by simp [State.goto]
@[simp] theorem State.goto_tags (a : Word) : (s.goto a).tags = s.tags := by simp [State.goto]
@[simp] theorem State.goto_poison (a : Word) : (s.goto a).poison = s.poison := by simp [State.goto]
@[simp] theorem State.goto_mgmt (a : Word) : (s.goto a).mgmt = s.mgmt := by simp [State.goto]
@[simp] theorem State.goto_power (a : Word) : (s.goto a).power = s.power := by simp [State.goto]
@[simp] theorem State.goto_streams (a : Word) : (s.goto a).streams = s.streams := by simp [State.goto]
@[simp] theorem State.goto_late (a : Word) : (s.goto a).late = s.late := by simp [State.goto]
@[simp] theorem State.goto_agenda (a : Word) : (s.goto a).agenda = s.agenda := by simp [State.goto]
@[simp] theorem State.goto_freeCtr (a : Word) : (s.goto a).freeCtr = s.freeCtr := by simp [State.goto]

@[simp] theorem State.advance_cur (n : Nat) : (s.advance n).cur = s.cur := by simp [State.advance]
@[simp] theorem State.advance_auxIdle (n : Nat) : (s.advance n).auxIdle = s.auxIdle := by simp [State.advance]
@[simp] theorem State.advance_turn (n : Nat) : (s.advance n).turn = s.turn := by simp [State.advance]
@[simp] theorem State.advance_core (n : Nat) : (s.advance n).core = s.core := by simp [State.advance]
@[simp] theorem State.advance_launches (n : Nat) : (s.advance n).launches = s.launches := by simp [State.advance]
@[simp] theorem State.advance_ctxs (n : Nat) : (s.advance n).ctxs = s.ctxs := by simp [State.advance]
@[simp] theorem State.advance_ctxBase (n : Nat) : (s.advance n).ctxBase = s.ctxBase := by simp [State.advance]
@[simp] theorem State.advance_queues (n : Nat) : (s.advance n).queues = s.queues := by simp [State.advance]
@[simp] theorem State.advance_nextLaunch (n : Nat) : (s.advance n).nextLaunch = s.nextLaunch := by simp [State.advance]
@[simp] theorem State.advance_outbox (n : Nat) : (s.advance n).outbox = s.outbox := by simp [State.advance]
@[simp] theorem State.advance_lines (n : Nat) : (s.advance n).lines = s.lines := by simp [State.advance]
@[simp] theorem State.advance_flight (n : Nat) : (s.advance n).flight = s.flight := by simp [State.advance]
@[simp] theorem State.advance_tasks (n : Nat) : (s.advance n).tasks = s.tasks := by simp [State.advance]
@[simp] theorem State.advance_rmap (n : Nat) : (s.advance n).rmap = s.rmap := by simp [State.advance]
@[simp] theorem State.advance_routes (n : Nat) : (s.advance n).routes = s.routes := by simp [State.advance]
@[simp] theorem State.advance_rstages (n : Nat) : (s.advance n).rstages = s.rstages := by simp [State.advance]
@[simp] theorem State.advance_fabric (n : Nat) : (s.advance n).fabric = s.fabric := by simp [State.advance]
@[simp] theorem State.advance_sent (n : Nat) : (s.advance n).sent = s.sent := by simp [State.advance]
@[simp] theorem State.advance_clusterTlb (n : Nat) : (s.advance n).clusterTlb = s.clusterTlb := by simp [State.advance]
@[simp] theorem State.advance_dieTlb (n : Nat) : (s.advance n).dieTlb = s.dieTlb := by simp [State.advance]
@[simp] theorem State.advance_shoots (n : Nat) : (s.advance n).shoots = s.shoots := by simp [State.advance]
@[simp] theorem State.advance_farFmt (n : Nat) : (s.advance n).farFmt = s.farFmt := by simp [State.advance]
@[simp] theorem State.advance_hostActhr (n : Nat) : (s.advance n).hostActhr = s.hostActhr := by simp [State.advance]
@[simp] theorem State.advance_hostCounts (n : Nat) : (s.advance n).hostCounts = s.hostCounts := by simp [State.advance]
@[simp] theorem State.advance_mem (n : Nat) : (s.advance n).mem = s.mem := by simp [State.advance]
@[simp] theorem State.advance_tags (n : Nat) : (s.advance n).tags = s.tags := by simp [State.advance]
@[simp] theorem State.advance_poison (n : Nat) : (s.advance n).poison = s.poison := by simp [State.advance]
@[simp] theorem State.advance_mgmt (n : Nat) : (s.advance n).mgmt = s.mgmt := by simp [State.advance]
@[simp] theorem State.advance_power (n : Nat) : (s.advance n).power = s.power := by simp [State.advance]
@[simp] theorem State.advance_streams (n : Nat) : (s.advance n).streams = s.streams := by simp [State.advance]
@[simp] theorem State.advance_late (n : Nat) : (s.advance n).late = s.late := by simp [State.advance]
@[simp] theorem State.advance_agenda (n : Nat) : (s.advance n).agenda = s.agenda := by simp [State.advance]
@[simp] theorem State.advance_freeCtr (n : Nat) : (s.advance n).freeCtr = s.freeCtr := by simp [State.advance]

@[simp] theorem State.raise_cur (f : Fl) : (s.raise f).cur = s.cur := by simp [State.raise]
@[simp] theorem State.raise_auxIdle (f : Fl) : (s.raise f).auxIdle = s.auxIdle := by simp [State.raise]
@[simp] theorem State.raise_turn (f : Fl) : (s.raise f).turn = s.turn := by simp [State.raise]
@[simp] theorem State.raise_core (f : Fl) : (s.raise f).core = s.core := by simp [State.raise]
@[simp] theorem State.raise_launches (f : Fl) : (s.raise f).launches = s.launches := by simp [State.raise]
@[simp] theorem State.raise_ctxs (f : Fl) : (s.raise f).ctxs = s.ctxs := by simp [State.raise]
@[simp] theorem State.raise_ctxBase (f : Fl) : (s.raise f).ctxBase = s.ctxBase := by simp [State.raise]
@[simp] theorem State.raise_queues (f : Fl) : (s.raise f).queues = s.queues := by simp [State.raise]
@[simp] theorem State.raise_nextLaunch (f : Fl) : (s.raise f).nextLaunch = s.nextLaunch := by simp [State.raise]
@[simp] theorem State.raise_outbox (f : Fl) : (s.raise f).outbox = s.outbox := by simp [State.raise]
@[simp] theorem State.raise_lines (f : Fl) : (s.raise f).lines = s.lines := by simp [State.raise]
@[simp] theorem State.raise_flight (f : Fl) : (s.raise f).flight = s.flight := by simp [State.raise]
@[simp] theorem State.raise_tasks (f : Fl) : (s.raise f).tasks = s.tasks := by simp [State.raise]
@[simp] theorem State.raise_rmap (f : Fl) : (s.raise f).rmap = s.rmap := by simp [State.raise]
@[simp] theorem State.raise_routes (f : Fl) : (s.raise f).routes = s.routes := by simp [State.raise]
@[simp] theorem State.raise_rstages (f : Fl) : (s.raise f).rstages = s.rstages := by simp [State.raise]
@[simp] theorem State.raise_fabric (f : Fl) : (s.raise f).fabric = s.fabric := by simp [State.raise]
@[simp] theorem State.raise_sent (f : Fl) : (s.raise f).sent = s.sent := by simp [State.raise]
@[simp] theorem State.raise_clusterTlb (f : Fl) : (s.raise f).clusterTlb = s.clusterTlb := by simp [State.raise]
@[simp] theorem State.raise_dieTlb (f : Fl) : (s.raise f).dieTlb = s.dieTlb := by simp [State.raise]
@[simp] theorem State.raise_shoots (f : Fl) : (s.raise f).shoots = s.shoots := by simp [State.raise]
@[simp] theorem State.raise_farFmt (f : Fl) : (s.raise f).farFmt = s.farFmt := by simp [State.raise]
@[simp] theorem State.raise_hostActhr (f : Fl) : (s.raise f).hostActhr = s.hostActhr := by simp [State.raise]
@[simp] theorem State.raise_hostCounts (f : Fl) : (s.raise f).hostCounts = s.hostCounts := by simp [State.raise]
@[simp] theorem State.raise_mem (f : Fl) : (s.raise f).mem = s.mem := by simp [State.raise]
@[simp] theorem State.raise_tags (f : Fl) : (s.raise f).tags = s.tags := by simp [State.raise]
@[simp] theorem State.raise_poison (f : Fl) : (s.raise f).poison = s.poison := by simp [State.raise]
@[simp] theorem State.raise_mgmt (f : Fl) : (s.raise f).mgmt = s.mgmt := by simp [State.raise]
@[simp] theorem State.raise_power (f : Fl) : (s.raise f).power = s.power := by simp [State.raise]
@[simp] theorem State.raise_streams (f : Fl) : (s.raise f).streams = s.streams := by simp [State.raise]
@[simp] theorem State.raise_late (f : Fl) : (s.raise f).late = s.late := by simp [State.raise]
@[simp] theorem State.raise_agenda (f : Fl) : (s.raise f).agenda = s.agenda := by simp [State.raise]
@[simp] theorem State.raise_freeCtr (f : Fl) : (s.raise f).freeCtr = s.freeCtr := by simp [State.raise]

@[simp] theorem State.ret_cur (d : Fin 32) (v : Word) : (s.ret d v).cur = s.cur := by simp [State.ret]
@[simp] theorem State.ret_auxIdle (d : Fin 32) (v : Word) : (s.ret d v).auxIdle = s.auxIdle := by simp [State.ret]
@[simp] theorem State.ret_turn (d : Fin 32) (v : Word) : (s.ret d v).turn = s.turn := by simp [State.ret]
@[simp] theorem State.ret_core (d : Fin 32) (v : Word) : (s.ret d v).core = s.core := by simp [State.ret]
@[simp] theorem State.ret_launches (d : Fin 32) (v : Word) : (s.ret d v).launches = s.launches := by simp [State.ret]
@[simp] theorem State.ret_ctxs (d : Fin 32) (v : Word) : (s.ret d v).ctxs = s.ctxs := by simp [State.ret]
@[simp] theorem State.ret_ctxBase (d : Fin 32) (v : Word) : (s.ret d v).ctxBase = s.ctxBase := by simp [State.ret]
@[simp] theorem State.ret_queues (d : Fin 32) (v : Word) : (s.ret d v).queues = s.queues := by simp [State.ret]
@[simp] theorem State.ret_nextLaunch (d : Fin 32) (v : Word) : (s.ret d v).nextLaunch = s.nextLaunch := by simp [State.ret]
@[simp] theorem State.ret_outbox (d : Fin 32) (v : Word) : (s.ret d v).outbox = s.outbox := by simp [State.ret]
@[simp] theorem State.ret_lines (d : Fin 32) (v : Word) : (s.ret d v).lines = s.lines := by simp [State.ret]
@[simp] theorem State.ret_flight (d : Fin 32) (v : Word) : (s.ret d v).flight = s.flight := by simp [State.ret]
@[simp] theorem State.ret_tasks (d : Fin 32) (v : Word) : (s.ret d v).tasks = s.tasks := by simp [State.ret]
@[simp] theorem State.ret_rmap (d : Fin 32) (v : Word) : (s.ret d v).rmap = s.rmap := by simp [State.ret]
@[simp] theorem State.ret_routes (d : Fin 32) (v : Word) : (s.ret d v).routes = s.routes := by simp [State.ret]
@[simp] theorem State.ret_rstages (d : Fin 32) (v : Word) : (s.ret d v).rstages = s.rstages := by simp [State.ret]
@[simp] theorem State.ret_fabric (d : Fin 32) (v : Word) : (s.ret d v).fabric = s.fabric := by simp [State.ret]
@[simp] theorem State.ret_sent (d : Fin 32) (v : Word) : (s.ret d v).sent = s.sent := by simp [State.ret]
@[simp] theorem State.ret_clusterTlb (d : Fin 32) (v : Word) : (s.ret d v).clusterTlb = s.clusterTlb := by simp [State.ret]
@[simp] theorem State.ret_dieTlb (d : Fin 32) (v : Word) : (s.ret d v).dieTlb = s.dieTlb := by simp [State.ret]
@[simp] theorem State.ret_shoots (d : Fin 32) (v : Word) : (s.ret d v).shoots = s.shoots := by simp [State.ret]
@[simp] theorem State.ret_farFmt (d : Fin 32) (v : Word) : (s.ret d v).farFmt = s.farFmt := by simp [State.ret]
@[simp] theorem State.ret_hostActhr (d : Fin 32) (v : Word) : (s.ret d v).hostActhr = s.hostActhr := by simp [State.ret]
@[simp] theorem State.ret_hostCounts (d : Fin 32) (v : Word) : (s.ret d v).hostCounts = s.hostCounts := by simp [State.ret]
@[simp] theorem State.ret_mem (d : Fin 32) (v : Word) : (s.ret d v).mem = s.mem := by simp [State.ret]
@[simp] theorem State.ret_tags (d : Fin 32) (v : Word) : (s.ret d v).tags = s.tags := by simp [State.ret]
@[simp] theorem State.ret_poison (d : Fin 32) (v : Word) : (s.ret d v).poison = s.poison := by simp [State.ret]
@[simp] theorem State.ret_mgmt (d : Fin 32) (v : Word) : (s.ret d v).mgmt = s.mgmt := by simp [State.ret]
@[simp] theorem State.ret_power (d : Fin 32) (v : Word) : (s.ret d v).power = s.power := by simp [State.ret]
@[simp] theorem State.ret_streams (d : Fin 32) (v : Word) : (s.ret d v).streams = s.streams := by simp [State.ret]
@[simp] theorem State.ret_late (d : Fin 32) (v : Word) : (s.ret d v).late = s.late := by simp [State.ret]
@[simp] theorem State.ret_agenda (d : Fin 32) (v : Word) : (s.ret d v).agenda = s.agenda := by simp [State.ret]
@[simp] theorem State.ret_freeCtr (d : Fin 32) (v : Word) : (s.ret d v).freeCtr = s.freeCtr := by simp [State.ret]

/-! ## Memory, tags, poison and the counter of free values -/

@[simp] theorem State.setByte_pri (k : Nat) (b : Byte) : (s.setByte k b).pri = s.pri := rfl
@[simp] theorem State.setByte_aux (k : Nat) (b : Byte) : (s.setByte k b).aux = s.aux := rfl
@[simp] theorem State.setByte_cur (k : Nat) (b : Byte) : (s.setByte k b).cur = s.cur := rfl
@[simp] theorem State.setByte_auxIdle (k : Nat) (b : Byte) : (s.setByte k b).auxIdle = s.auxIdle := rfl
@[simp] theorem State.setByte_turn (k : Nat) (b : Byte) : (s.setByte k b).turn = s.turn := rfl
@[simp] theorem State.setByte_core (k : Nat) (b : Byte) : (s.setByte k b).core = s.core := rfl
@[simp] theorem State.setByte_launches (k : Nat) (b : Byte) : (s.setByte k b).launches = s.launches := rfl
@[simp] theorem State.setByte_ctxs (k : Nat) (b : Byte) : (s.setByte k b).ctxs = s.ctxs := rfl
@[simp] theorem State.setByte_ctxBase (k : Nat) (b : Byte) : (s.setByte k b).ctxBase = s.ctxBase := rfl
@[simp] theorem State.setByte_queues (k : Nat) (b : Byte) : (s.setByte k b).queues = s.queues := rfl
@[simp] theorem State.setByte_nextLaunch (k : Nat) (b : Byte) : (s.setByte k b).nextLaunch = s.nextLaunch := rfl
@[simp] theorem State.setByte_outbox (k : Nat) (b : Byte) : (s.setByte k b).outbox = s.outbox := rfl
@[simp] theorem State.setByte_lines (k : Nat) (b : Byte) : (s.setByte k b).lines = s.lines := rfl
@[simp] theorem State.setByte_flight (k : Nat) (b : Byte) : (s.setByte k b).flight = s.flight := rfl
@[simp] theorem State.setByte_tasks (k : Nat) (b : Byte) : (s.setByte k b).tasks = s.tasks := rfl
@[simp] theorem State.setByte_rmap (k : Nat) (b : Byte) : (s.setByte k b).rmap = s.rmap := rfl
@[simp] theorem State.setByte_routes (k : Nat) (b : Byte) : (s.setByte k b).routes = s.routes := rfl
@[simp] theorem State.setByte_rstages (k : Nat) (b : Byte) : (s.setByte k b).rstages = s.rstages := rfl
@[simp] theorem State.setByte_fabric (k : Nat) (b : Byte) : (s.setByte k b).fabric = s.fabric := rfl
@[simp] theorem State.setByte_sent (k : Nat) (b : Byte) : (s.setByte k b).sent = s.sent := rfl
@[simp] theorem State.setByte_clusterTlb (k : Nat) (b : Byte) : (s.setByte k b).clusterTlb = s.clusterTlb := rfl
@[simp] theorem State.setByte_dieTlb (k : Nat) (b : Byte) : (s.setByte k b).dieTlb = s.dieTlb := rfl
@[simp] theorem State.setByte_shoots (k : Nat) (b : Byte) : (s.setByte k b).shoots = s.shoots := rfl
@[simp] theorem State.setByte_farFmt (k : Nat) (b : Byte) : (s.setByte k b).farFmt = s.farFmt := rfl
@[simp] theorem State.setByte_hostActhr (k : Nat) (b : Byte) : (s.setByte k b).hostActhr = s.hostActhr := rfl
@[simp] theorem State.setByte_hostCounts (k : Nat) (b : Byte) : (s.setByte k b).hostCounts = s.hostCounts := rfl
@[simp] theorem State.setByte_tags (k : Nat) (b : Byte) : (s.setByte k b).tags = s.tags := rfl
@[simp] theorem State.setByte_poison (k : Nat) (b : Byte) : (s.setByte k b).poison = s.poison := rfl
@[simp] theorem State.setByte_mgmt (k : Nat) (b : Byte) : (s.setByte k b).mgmt = s.mgmt := rfl
@[simp] theorem State.setByte_power (k : Nat) (b : Byte) : (s.setByte k b).power = s.power := rfl
@[simp] theorem State.setByte_streams (k : Nat) (b : Byte) : (s.setByte k b).streams = s.streams := rfl
@[simp] theorem State.setByte_late (k : Nat) (b : Byte) : (s.setByte k b).late = s.late := rfl
@[simp] theorem State.setByte_agenda (k : Nat) (b : Byte) : (s.setByte k b).agenda = s.agenda := rfl
@[simp] theorem State.setByte_freeCtr (k : Nat) (b : Byte) : (s.setByte k b).freeCtr = s.freeCtr := rfl

@[simp] theorem State.setTag_pri (k : Nat) (b : Bool) : (s.setTag k b).pri = s.pri := rfl
@[simp] theorem State.setTag_aux (k : Nat) (b : Bool) : (s.setTag k b).aux = s.aux := rfl
@[simp] theorem State.setTag_cur (k : Nat) (b : Bool) : (s.setTag k b).cur = s.cur := rfl
@[simp] theorem State.setTag_auxIdle (k : Nat) (b : Bool) : (s.setTag k b).auxIdle = s.auxIdle := rfl
@[simp] theorem State.setTag_turn (k : Nat) (b : Bool) : (s.setTag k b).turn = s.turn := rfl
@[simp] theorem State.setTag_core (k : Nat) (b : Bool) : (s.setTag k b).core = s.core := rfl
@[simp] theorem State.setTag_launches (k : Nat) (b : Bool) : (s.setTag k b).launches = s.launches := rfl
@[simp] theorem State.setTag_ctxs (k : Nat) (b : Bool) : (s.setTag k b).ctxs = s.ctxs := rfl
@[simp] theorem State.setTag_ctxBase (k : Nat) (b : Bool) : (s.setTag k b).ctxBase = s.ctxBase := rfl
@[simp] theorem State.setTag_queues (k : Nat) (b : Bool) : (s.setTag k b).queues = s.queues := rfl
@[simp] theorem State.setTag_nextLaunch (k : Nat) (b : Bool) : (s.setTag k b).nextLaunch = s.nextLaunch := rfl
@[simp] theorem State.setTag_outbox (k : Nat) (b : Bool) : (s.setTag k b).outbox = s.outbox := rfl
@[simp] theorem State.setTag_lines (k : Nat) (b : Bool) : (s.setTag k b).lines = s.lines := rfl
@[simp] theorem State.setTag_flight (k : Nat) (b : Bool) : (s.setTag k b).flight = s.flight := rfl
@[simp] theorem State.setTag_tasks (k : Nat) (b : Bool) : (s.setTag k b).tasks = s.tasks := rfl
@[simp] theorem State.setTag_rmap (k : Nat) (b : Bool) : (s.setTag k b).rmap = s.rmap := rfl
@[simp] theorem State.setTag_routes (k : Nat) (b : Bool) : (s.setTag k b).routes = s.routes := rfl
@[simp] theorem State.setTag_rstages (k : Nat) (b : Bool) : (s.setTag k b).rstages = s.rstages := rfl
@[simp] theorem State.setTag_fabric (k : Nat) (b : Bool) : (s.setTag k b).fabric = s.fabric := rfl
@[simp] theorem State.setTag_sent (k : Nat) (b : Bool) : (s.setTag k b).sent = s.sent := rfl
@[simp] theorem State.setTag_clusterTlb (k : Nat) (b : Bool) : (s.setTag k b).clusterTlb = s.clusterTlb := rfl
@[simp] theorem State.setTag_dieTlb (k : Nat) (b : Bool) : (s.setTag k b).dieTlb = s.dieTlb := rfl
@[simp] theorem State.setTag_shoots (k : Nat) (b : Bool) : (s.setTag k b).shoots = s.shoots := rfl
@[simp] theorem State.setTag_farFmt (k : Nat) (b : Bool) : (s.setTag k b).farFmt = s.farFmt := rfl
@[simp] theorem State.setTag_hostActhr (k : Nat) (b : Bool) : (s.setTag k b).hostActhr = s.hostActhr := rfl
@[simp] theorem State.setTag_hostCounts (k : Nat) (b : Bool) : (s.setTag k b).hostCounts = s.hostCounts := rfl
@[simp] theorem State.setTag_mem (k : Nat) (b : Bool) : (s.setTag k b).mem = s.mem := rfl
@[simp] theorem State.setTag_poison (k : Nat) (b : Bool) : (s.setTag k b).poison = s.poison := rfl
@[simp] theorem State.setTag_mgmt (k : Nat) (b : Bool) : (s.setTag k b).mgmt = s.mgmt := rfl
@[simp] theorem State.setTag_power (k : Nat) (b : Bool) : (s.setTag k b).power = s.power := rfl
@[simp] theorem State.setTag_streams (k : Nat) (b : Bool) : (s.setTag k b).streams = s.streams := rfl
@[simp] theorem State.setTag_late (k : Nat) (b : Bool) : (s.setTag k b).late = s.late := rfl
@[simp] theorem State.setTag_agenda (k : Nat) (b : Bool) : (s.setTag k b).agenda = s.agenda := rfl
@[simp] theorem State.setTag_freeCtr (k : Nat) (b : Bool) : (s.setTag k b).freeCtr = s.freeCtr := rfl

@[simp] theorem State.setPoison_pri (k : Nat) (b : Bool) : (s.setPoison k b).pri = s.pri := rfl
@[simp] theorem State.setPoison_aux (k : Nat) (b : Bool) : (s.setPoison k b).aux = s.aux := rfl
@[simp] theorem State.setPoison_cur (k : Nat) (b : Bool) : (s.setPoison k b).cur = s.cur := rfl
@[simp] theorem State.setPoison_auxIdle (k : Nat) (b : Bool) : (s.setPoison k b).auxIdle = s.auxIdle := rfl
@[simp] theorem State.setPoison_turn (k : Nat) (b : Bool) : (s.setPoison k b).turn = s.turn := rfl
@[simp] theorem State.setPoison_core (k : Nat) (b : Bool) : (s.setPoison k b).core = s.core := rfl
@[simp] theorem State.setPoison_launches (k : Nat) (b : Bool) : (s.setPoison k b).launches = s.launches := rfl
@[simp] theorem State.setPoison_ctxs (k : Nat) (b : Bool) : (s.setPoison k b).ctxs = s.ctxs := rfl
@[simp] theorem State.setPoison_ctxBase (k : Nat) (b : Bool) : (s.setPoison k b).ctxBase = s.ctxBase := rfl
@[simp] theorem State.setPoison_queues (k : Nat) (b : Bool) : (s.setPoison k b).queues = s.queues := rfl
@[simp] theorem State.setPoison_nextLaunch (k : Nat) (b : Bool) : (s.setPoison k b).nextLaunch = s.nextLaunch := rfl
@[simp] theorem State.setPoison_outbox (k : Nat) (b : Bool) : (s.setPoison k b).outbox = s.outbox := rfl
@[simp] theorem State.setPoison_lines (k : Nat) (b : Bool) : (s.setPoison k b).lines = s.lines := rfl
@[simp] theorem State.setPoison_flight (k : Nat) (b : Bool) : (s.setPoison k b).flight = s.flight := rfl
@[simp] theorem State.setPoison_tasks (k : Nat) (b : Bool) : (s.setPoison k b).tasks = s.tasks := rfl
@[simp] theorem State.setPoison_rmap (k : Nat) (b : Bool) : (s.setPoison k b).rmap = s.rmap := rfl
@[simp] theorem State.setPoison_routes (k : Nat) (b : Bool) : (s.setPoison k b).routes = s.routes := rfl
@[simp] theorem State.setPoison_rstages (k : Nat) (b : Bool) : (s.setPoison k b).rstages = s.rstages := rfl
@[simp] theorem State.setPoison_fabric (k : Nat) (b : Bool) : (s.setPoison k b).fabric = s.fabric := rfl
@[simp] theorem State.setPoison_sent (k : Nat) (b : Bool) : (s.setPoison k b).sent = s.sent := rfl
@[simp] theorem State.setPoison_clusterTlb (k : Nat) (b : Bool) : (s.setPoison k b).clusterTlb = s.clusterTlb := rfl
@[simp] theorem State.setPoison_dieTlb (k : Nat) (b : Bool) : (s.setPoison k b).dieTlb = s.dieTlb := rfl
@[simp] theorem State.setPoison_shoots (k : Nat) (b : Bool) : (s.setPoison k b).shoots = s.shoots := rfl
@[simp] theorem State.setPoison_farFmt (k : Nat) (b : Bool) : (s.setPoison k b).farFmt = s.farFmt := rfl
@[simp] theorem State.setPoison_hostActhr (k : Nat) (b : Bool) : (s.setPoison k b).hostActhr = s.hostActhr := rfl
@[simp] theorem State.setPoison_hostCounts (k : Nat) (b : Bool) : (s.setPoison k b).hostCounts = s.hostCounts := rfl
@[simp] theorem State.setPoison_mem (k : Nat) (b : Bool) : (s.setPoison k b).mem = s.mem := rfl
@[simp] theorem State.setPoison_tags (k : Nat) (b : Bool) : (s.setPoison k b).tags = s.tags := rfl
@[simp] theorem State.setPoison_mgmt (k : Nat) (b : Bool) : (s.setPoison k b).mgmt = s.mgmt := rfl
@[simp] theorem State.setPoison_power (k : Nat) (b : Bool) : (s.setPoison k b).power = s.power := rfl
@[simp] theorem State.setPoison_streams (k : Nat) (b : Bool) : (s.setPoison k b).streams = s.streams := rfl
@[simp] theorem State.setPoison_late (k : Nat) (b : Bool) : (s.setPoison k b).late = s.late := rfl
@[simp] theorem State.setPoison_agenda (k : Nat) (b : Bool) : (s.setPoison k b).agenda = s.agenda := rfl
@[simp] theorem State.setPoison_freeCtr (k : Nat) (b : Bool) : (s.setPoison k b).freeCtr = s.freeCtr := rfl

@[simp] theorem State.tickFree_pri  : (s.tickFree).pri = s.pri := rfl
@[simp] theorem State.tickFree_aux  : (s.tickFree).aux = s.aux := rfl
@[simp] theorem State.tickFree_cur  : (s.tickFree).cur = s.cur := rfl
@[simp] theorem State.tickFree_auxIdle  : (s.tickFree).auxIdle = s.auxIdle := rfl
@[simp] theorem State.tickFree_turn  : (s.tickFree).turn = s.turn := rfl
@[simp] theorem State.tickFree_core  : (s.tickFree).core = s.core := rfl
@[simp] theorem State.tickFree_launches  : (s.tickFree).launches = s.launches := rfl
@[simp] theorem State.tickFree_ctxs  : (s.tickFree).ctxs = s.ctxs := rfl
@[simp] theorem State.tickFree_ctxBase  : (s.tickFree).ctxBase = s.ctxBase := rfl
@[simp] theorem State.tickFree_queues  : (s.tickFree).queues = s.queues := rfl
@[simp] theorem State.tickFree_nextLaunch  : (s.tickFree).nextLaunch = s.nextLaunch := rfl
@[simp] theorem State.tickFree_outbox  : (s.tickFree).outbox = s.outbox := rfl
@[simp] theorem State.tickFree_lines  : (s.tickFree).lines = s.lines := rfl
@[simp] theorem State.tickFree_flight  : (s.tickFree).flight = s.flight := rfl
@[simp] theorem State.tickFree_tasks  : (s.tickFree).tasks = s.tasks := rfl
@[simp] theorem State.tickFree_rmap  : (s.tickFree).rmap = s.rmap := rfl
@[simp] theorem State.tickFree_routes  : (s.tickFree).routes = s.routes := rfl
@[simp] theorem State.tickFree_rstages  : (s.tickFree).rstages = s.rstages := rfl
@[simp] theorem State.tickFree_fabric  : (s.tickFree).fabric = s.fabric := rfl
@[simp] theorem State.tickFree_sent  : (s.tickFree).sent = s.sent := rfl
@[simp] theorem State.tickFree_clusterTlb  : (s.tickFree).clusterTlb = s.clusterTlb := rfl
@[simp] theorem State.tickFree_dieTlb  : (s.tickFree).dieTlb = s.dieTlb := rfl
@[simp] theorem State.tickFree_shoots  : (s.tickFree).shoots = s.shoots := rfl
@[simp] theorem State.tickFree_farFmt  : (s.tickFree).farFmt = s.farFmt := rfl
@[simp] theorem State.tickFree_hostActhr  : (s.tickFree).hostActhr = s.hostActhr := rfl
@[simp] theorem State.tickFree_hostCounts  : (s.tickFree).hostCounts = s.hostCounts := rfl
@[simp] theorem State.tickFree_mem  : (s.tickFree).mem = s.mem := rfl
@[simp] theorem State.tickFree_tags  : (s.tickFree).tags = s.tags := rfl
@[simp] theorem State.tickFree_poison  : (s.tickFree).poison = s.poison := rfl
@[simp] theorem State.tickFree_mgmt  : (s.tickFree).mgmt = s.mgmt := rfl
@[simp] theorem State.tickFree_power  : (s.tickFree).power = s.power := rfl
@[simp] theorem State.tickFree_streams  : (s.tickFree).streams = s.streams := rfl
@[simp] theorem State.tickFree_late  : (s.tickFree).late = s.late := rfl
@[simp] theorem State.tickFree_agenda  : (s.tickFree).agenda = s.agenda := rfl

/-! ## The performing thread -/

@[simp] theorem Thread.putS_x (t : Thread) (r : Fin 32) (v : Word) : (t.putS r v).x = t.x := by unfold Thread.putS; split <;> rfl
@[simp] theorem Thread.putS_v (t : Thread) (r : Fin 32) (v : Word) : (t.putS r v).v = t.v := by unfold Thread.putS; split <;> rfl
@[simp] theorem Thread.putS_m (t : Thread) (r : Fin 32) (v : Word) : (t.putS r v).m = t.m := by unfold Thread.putS; split <;> rfl
@[simp] theorem Thread.putS_fpFlags (t : Thread) (r : Fin 32) (v : Word) : (t.putS r v).fpFlags = t.fpFlags := by unfold Thread.putS; split <;> rfl
@[simp] theorem Thread.putS_journal (t : Thread) (r : Fin 32) (v : Word) : (t.putS r v).journal = t.journal := by unfold Thread.putS; split <;> rfl
@[simp] theorem Thread.putS_pc (t : Thread) (r : Fin 32) (v : Word) : (t.putS r v).pc = t.pc := by unfold Thread.putS; split <;> rfl
@[simp] theorem Thread.putS_run (t : Thread) (r : Fin 32) (v : Word) : (t.putS r v).run = t.run := by unfold Thread.putS; split <;> rfl
@[simp] theorem Thread.putS_wake (t : Thread) (r : Fin 32) (v : Word) : (t.putS r v).wake = t.wake := by unfold Thread.putS; split <;> rfl
@[simp] theorem Thread.putS_retry (t : Thread) (r : Fin 32) (v : Word) : (t.putS r v).retry = t.retry := by unfold Thread.putS; split <;> rfl
@[simp] theorem Thread.putS_reply (t : Thread) (r : Fin 32) (v : Word) : (t.putS r v).reply = t.reply := by unfold Thread.putS; split <;> rfl
@[simp] theorem Thread.putS_nom (t : Thread) (r : Fin 32) (v : Word) : (t.putS r v).nom = t.nom := by unfold Thread.putS; split <;> rfl
@[simp] theorem Thread.putS_stq (t : Thread) (r : Fin 32) (v : Word) : (t.putS r v).stq = t.stq := by unfold Thread.putS; split <;> rfl
@[simp] theorem Thread.putS_unacked (t : Thread) (r : Fin 32) (v : Word) : (t.putS r v).unacked = t.unacked := by unfold Thread.putS; split <;> rfl
@[simp] theorem Thread.putS_refused (t : Thread) (r : Fin 32) (v : Word) : (t.putS r v).refused = t.refused := by unfold Thread.putS; split <;> rfl
@[simp] theorem Thread.putS_lastTag (t : Thread) (r : Fin 32) (v : Word) : (t.putS r v).lastTag = t.lastTag := by unfold Thread.putS; split <;> rfl
@[simp] theorem Thread.putS_window (t : Thread) (r : Fin 32) (v : Word) : (t.putS r v).window = t.window := by unfold Thread.putS; split <;> rfl
@[simp] theorem Thread.putS_fetchPc (t : Thread) (r : Fin 32) (v : Word) : (t.putS r v).fetchPc = t.fetchPc := by unfold Thread.putS; split <;> rfl
@[simp] theorem Thread.putS_hold (t : Thread) (r : Fin 32) (v : Word) : (t.putS r v).hold = t.hold := by unfold Thread.putS; split <;> rfl
@[simp] theorem Thread.putS_rebuild (t : Thread) (r : Fin 32) (v : Word) : (t.putS r v).rebuild = t.rebuild := by unfold Thread.putS; split <;> rfl
@[simp] theorem Thread.putS_raised (t : Thread) (r : Fin 32) (v : Word) : (t.putS r v).raised = t.raised := by unfold Thread.putS; split <;> rfl
@[simp] theorem Thread.putS_forkM (t : Thread) (r : Fin 32) (v : Word) : (t.putS r v).forkM = t.forkM := by unfold Thread.putS; split <;> rfl
@[simp] theorem Thread.putS_forkC (t : Thread) (r : Fin 32) (v : Word) : (t.putS r v).forkC = t.forkC := by unfold Thread.putS; split <;> rfl
@[simp] theorem Thread.putS_stopped (t : Thread) (r : Fin 32) (v : Word) : (t.putS r v).stopped = t.stopped := by unfold Thread.putS; split <;> rfl
@[simp] theorem Thread.putS_anew (t : Thread) (r : Fin 32) (v : Word) : (t.putS r v).anew = t.anew := by unfold Thread.putS; split <;> rfl
@[simp] theorem Thread.putS_settling (t : Thread) (r : Fin 32) (v : Word) : (t.putS r v).settling = t.settling := by unfold Thread.putS; split <;> rfl
@[simp] theorem Thread.putX_s (t : Thread) (n : Fin 8) (v : Word) : (t.putX n v).s = t.s := rfl
@[simp] theorem Thread.putX_v (t : Thread) (n : Fin 8) (v : Word) : (t.putX n v).v = t.v := rfl
@[simp] theorem Thread.putX_m (t : Thread) (n : Fin 8) (v : Word) : (t.putX n v).m = t.m := rfl
@[simp] theorem Thread.putX_fpFlags (t : Thread) (n : Fin 8) (v : Word) : (t.putX n v).fpFlags = t.fpFlags := rfl
@[simp] theorem Thread.putX_journal (t : Thread) (n : Fin 8) (v : Word) : (t.putX n v).journal = t.journal := rfl
@[simp] theorem Thread.putX_pc (t : Thread) (n : Fin 8) (v : Word) : (t.putX n v).pc = t.pc := rfl
@[simp] theorem Thread.putX_run (t : Thread) (n : Fin 8) (v : Word) : (t.putX n v).run = t.run := rfl
@[simp] theorem Thread.putX_wake (t : Thread) (n : Fin 8) (v : Word) : (t.putX n v).wake = t.wake := rfl
@[simp] theorem Thread.putX_retry (t : Thread) (n : Fin 8) (v : Word) : (t.putX n v).retry = t.retry := rfl
@[simp] theorem Thread.putX_reply (t : Thread) (n : Fin 8) (v : Word) : (t.putX n v).reply = t.reply := rfl
@[simp] theorem Thread.putX_nom (t : Thread) (n : Fin 8) (v : Word) : (t.putX n v).nom = t.nom := rfl
@[simp] theorem Thread.putX_stq (t : Thread) (n : Fin 8) (v : Word) : (t.putX n v).stq = t.stq := rfl
@[simp] theorem Thread.putX_unacked (t : Thread) (n : Fin 8) (v : Word) : (t.putX n v).unacked = t.unacked := rfl
@[simp] theorem Thread.putX_refused (t : Thread) (n : Fin 8) (v : Word) : (t.putX n v).refused = t.refused := rfl
@[simp] theorem Thread.putX_lastTag (t : Thread) (n : Fin 8) (v : Word) : (t.putX n v).lastTag = t.lastTag := rfl
@[simp] theorem Thread.putX_window (t : Thread) (n : Fin 8) (v : Word) : (t.putX n v).window = t.window := rfl
@[simp] theorem Thread.putX_fetchPc (t : Thread) (n : Fin 8) (v : Word) : (t.putX n v).fetchPc = t.fetchPc := rfl
@[simp] theorem Thread.putX_hold (t : Thread) (n : Fin 8) (v : Word) : (t.putX n v).hold = t.hold := rfl
@[simp] theorem Thread.putX_rebuild (t : Thread) (n : Fin 8) (v : Word) : (t.putX n v).rebuild = t.rebuild := rfl
@[simp] theorem Thread.putX_raised (t : Thread) (n : Fin 8) (v : Word) : (t.putX n v).raised = t.raised := rfl
@[simp] theorem Thread.putX_forkM (t : Thread) (n : Fin 8) (v : Word) : (t.putX n v).forkM = t.forkM := rfl
@[simp] theorem Thread.putX_forkC (t : Thread) (n : Fin 8) (v : Word) : (t.putX n v).forkC = t.forkC := rfl
@[simp] theorem Thread.putX_stopped (t : Thread) (n : Fin 8) (v : Word) : (t.putX n v).stopped = t.stopped := rfl
@[simp] theorem Thread.putX_anew (t : Thread) (n : Fin 8) (v : Word) : (t.putX n v).anew = t.anew := rfl
@[simp] theorem Thread.putX_settling (t : Thread) (n : Fin 8) (v : Word) : (t.putX n v).settling = t.settling := rfl

@[simp] theorem State.setReg_me (d : Fin 32) (v : Word) : (s.setReg d v).me = s.me.putS d v := by simp [State.setReg]
@[simp] theorem State.setXreg_me (n : Fin 8) (v : Word) : (s.setXreg n v).me = s.me.putX n v := by simp [State.setXreg]
@[simp] theorem State.goto_me (a : Word) : (s.goto a).me = { s.me with pc := a, wake := Wake.none, retry := false, reply := none } := by simp [State.goto]
@[simp] theorem State.raise_me (f : Fl) : (s.raise f).me = { s.me with fpFlags := s.me.fpFlags ||| f } := by simp [State.raise]
@[simp] theorem State.goto_pc (a : Word) : (s.goto a).pc = a := by simp [State.pc]
@[simp] theorem State.advance_pc (n : Nat) : (s.advance n).pc = s.pc + BitVec.ofNat 64 n := by simp [State.advance]
@[simp] theorem State.setReg_pc (d : Fin 32) (v : Word) : (s.setReg d v).pc = s.pc := by simp [State.pc]
@[simp] theorem State.ret_pc (d : Fin 32) (v : Word) : (s.ret d v).pc = s.pc + 4 := by simp [State.ret]

/-- A scalar register read after a write; s0 stays zero (R25, R26). -/
theorem State.reg_setReg (d r : Fin 32) (v : Word) :
    (s.setReg d v).reg r = if r = d ∧ d ≠ 0 then v else s.reg r := by
  by_cases hd : d = 0
  · simp [State.reg, Thread.putS, hd]
  · by_cases hr : r = d
    · subst hr; simp [State.reg, Thread.putS, Thread.getS, hd]
    · have : ¬ d.val = r.val := fun h => hr (Fin.ext h.symm)
      simp [State.reg, Thread.putS, Thread.getS, hd, hr, this]

@[simp] theorem State.reg_goto (a : Word) (r : Fin 32) : (s.goto a).reg r = s.reg r := by
  simp [State.reg, Thread.getS]

@[simp] theorem State.reg_advance (n : Nat) (r : Fin 32) : (s.advance n).reg r = s.reg r := by
  simp [State.advance]

/-- An extension register read after a write. -/
theorem State.xreg_setXreg (n m : Fin 8) (v : Word) : (s.setXreg n v).xreg m = if m = n then v else s.xreg m := by
  by_cases h : m = n
  · subst h; simp [State.xreg, Thread.getX, Thread.putX]
  · have : ¬ n.val = m.val := fun h' => h (Fin.ext h'.symm)
    simp [State.xreg, Thread.getX, Thread.putX, h, this]

/-- s0 reads zero (R25). -/
@[simp] theorem State.reg_zero : s.reg 0 = 0 := by simp [State.reg, Thread.getS]

end Sys2Proof.Machine
end

