-- ==== Sys2Proof/Laws/Store.lean ====
section
/-! SUPPORT. The laws of sparse storage: read after write, and that every operation keeps the canonical form. -/

set_option Elab.async false

namespace Sys2Proof.Machine

variable {α : Type} [DecidableEq α] {d : α}

theorem sget_of_lt {lo : Nat} {l : List (Nat × α)} (h : swf d lo l = true) {a : Nat} (ha : a < lo) :
    sget d l a = d := by
  cases l with
  | nil => rfl
  | cons p l =>
    obtain ⟨k, v⟩ := p
    simp only [swf, Bool.and_eq_true, decide_eq_true_eq] at h
    have h1 : ¬ a = k := by omega
    have h2 : a < k := by omega
    simp [sget, h1, h2]

theorem swf_mono {lo lo' : Nat} {l : List (Nat × α)} (h : swf d lo l = true) (hl : lo' ≤ lo) :
    swf d lo' l = true := by
  cases l with
  | nil => rfl
  | cons p l =>
    obtain ⟨k, v⟩ := p
    simp only [swf, Bool.and_eq_true, decide_eq_true_eq] at h ⊢
    exact ⟨⟨by omega, h.1.2⟩, h.2⟩

theorem sput_wf_from {lo : Nat} {l : List (Nat × α)} (h : swf d lo l = true) {a : Nat} (x : α) (ha : lo ≤ a) :
    swf d lo (sput d a x l) = true := by
  induction l generalizing lo with
  | nil =>
    by_cases hx : x = d <;> simp [sput, hx, swf, ha]
  | cons p l ih =>
    obtain ⟨k, v⟩ := p
    simp only [swf, Bool.and_eq_true, decide_eq_true_eq] at h
    obtain ⟨⟨h1, h2⟩, h3⟩ := h
    by_cases hk : a = k
    · subst hk
      by_cases hx : x = d
      · simpa [sput, hx] using swf_mono h3 (by omega)
      · simp [sput, hx, swf, ha, h3]
    · by_cases hlt : a < k
      · by_cases hx : x = d
        · simp [sput, hk, hlt, hx, swf, h1, h2, h3]
        · simp [sput, hk, hlt, hx, swf, ha, h2, h3, Nat.succ_le_of_lt hlt]
      · have := ih h3 (by omega)
        simp [sput, hk, hlt, swf, h1, h2, this]

/-- A write keeps the canonical form. -/
theorem sput_wf {l : List (Nat × α)} (h : swf d 0 l = true) (a : Nat) (x : α) : swf d 0 (sput d a x l) = true :=
  sput_wf_from h x (Nat.zero_le a)

theorem sget_sput_from {lo : Nat} {l : List (Nat × α)} (h : swf d lo l = true) (a : Nat) (x : α) (b : Nat) :
    sget d (sput d a x l) b = if b = a then x else sget d l b := by
  induction l generalizing lo with
  | nil =>
    by_cases hx : x = d <;> by_cases hb : b = a <;> by_cases hlt : b < a <;> simp [sput, sget, hx, hb, hlt]
  | cons p l ih =>
    obtain ⟨k, v⟩ := p
    simp only [swf, Bool.and_eq_true, decide_eq_true_eq] at h
    obtain ⟨⟨h1, h2⟩, h3⟩ := h
    by_cases hk : a = k
    · subst hk
      by_cases hx : x = d
      · by_cases hb : b = a
        · subst hb
          simp only [sput, hx, if_true]
          exact sget_of_lt h3 (by omega)
        · by_cases hlt : b < a
          · have := sget_of_lt h3 (a := b) (by omega)
            simp [sput, sget, hx, hb, hlt, this]
          · simp [sput, sget, hx, hb, hlt]
      · by_cases hb : b = a <;> simp [sput, sget, hx, hb]
    · by_cases hlt : a < k
      · by_cases hx : x = d
        · by_cases hb : b = a
          · subst hb
            simp [sput, sget, hk, hlt, hx]
          · simp [sput, sget, hk, hlt, hx, hb]
        · by_cases hb : b = a
          · simp [sput, sget, hk, hlt, hx, hb]
          · by_cases hba : b < a
            · have e1 : ¬ b = k := by omega
              have e2 : b < k := by omega
              simp [sput, sget, hk, hlt, hx, hb, hba, e1, e2]
            · simp [sput, sget, hk, hlt, hx, hb, hba]
      · by_cases hbk : b = k
        · have e : ¬ b = a := by omega
          have e' : ¬ k = a := by omega
          subst hbk
          simp [sput, sget, hk, hlt, e']
        · by_cases hblt : b < k
          · have e : ¬ b = a := by omega
            simp [sput, sget, hk, hlt, hbk, hblt, e]
          · simp only [sput, sget, hk, hlt, hbk, hblt, if_false]
            exact ih h3

/-- Read after write, at the key written and at every other key. -/
theorem sget_sput {l : List (Nat × α)} (h : swf d 0 l = true) (a : Nat) (x : α) (b : Nat) :
    sget d (sput d a x l) b = if b = a then x else sget d l b := sget_sput_from h a x b

theorem sclear_wf_from {lo : Nat} {l : List (Nat × α)} (h : swf d lo l = true) (a b : Nat) :
    swf d lo (sclear a b l) = true := by
  induction l generalizing lo with
  | nil => rfl
  | cons p l ih =>
    obtain ⟨k, v⟩ := p
    simp only [swf, Bool.and_eq_true, decide_eq_true_eq] at h
    obtain ⟨⟨h1, h2⟩, h3⟩ := h
    by_cases hc : a ≤ k ∧ k < b
    · simpa [sclear, hc] using swf_mono (ih h3) (by omega)
    · simp [sclear, hc, swf, h1, h2, ih h3]

/-- Clearing a range keeps the canonical form. -/
theorem sclear_wf {l : List (Nat × α)} (h : swf d 0 l = true) (a b : Nat) : swf d 0 (sclear a b l) = true :=
  sclear_wf_from h a b

end Sys2Proof.Machine
end

