-- ==== Sys2Proof/Laws/Memory.lean ====
section
/-! SUPPORT. The laws of memory, tags and poison: read after write, that every operation keeps the canonical forms, and that
taking a trap leaves all three alone. -/

set_option Elab.async false

namespace Sys2Proof.Machine

/-! ## Bytes -/

theorem State.byte_setByte {s : State} (h : Memory.wf s.mem = true) (k : Nat) (b : Byte) (j : Nat) :
    (s.setByte k b).byte j = if j = k then b else s.byte j := sget_sput h k b j

theorem State.wf_setByte {s : State} (h : Memory.wf s.mem = true) (k : Nat) (b : Byte) :
    Memory.wf (s.setByte k b).mem = true := sput_wf h k b

/-- A store of bytes changes memory alone. -/
theorem State.setBytes_eq (s : State) (k : Nat) (l : List Byte) : s.setBytes k l = { s with mem := (s.setBytes k l).mem } := by
  induction l generalizing s k with
  | nil => rfl
  | cons b l ih =>
    rw [State.setBytes, ih]
    rfl

theorem State.wf_setBytes {s : State} (h : Memory.wf s.mem = true) (k : Nat) (l : List Byte) :
    Memory.wf (s.setBytes k l).mem = true := by
  induction l generalizing s k with
  | nil => exact h
  | cons b l ih => exact ih (State.wf_setByte h k b) (k + 1)

/-- Every byte after a store of a list of bytes: the list's inside, the old one outside. -/
theorem State.byte_setBytes {s : State} (h : Memory.wf s.mem = true) (k : Nat) (l : List Byte) (j : Nat) :
    (s.setBytes k l).byte j = if hj : k ≤ j ∧ j - k < l.length then l[j - k]'hj.2 else s.byte j := by
  induction l generalizing s k with
  | nil => simp [State.setBytes]
  | cons b l ih =>
    rw [State.setBytes, ih (State.wf_setByte h k b), State.byte_setByte h]
    by_cases h1 : k ≤ j
    · by_cases h2 : j = k
      · subst h2
        rw [dif_neg (by omega), if_pos rfl, dif_pos (by simp)]
        simp
      · have e : j - k = j - (k + 1) + 1 := by omega
        by_cases h3 : j - (k + 1) < l.length
        · rw [dif_pos (by omega), dif_pos (by simp; omega)]
          simp [e]
        · rw [dif_neg (by omega), if_neg h2, dif_neg (by simp; omega)]
    · have h2 : ¬ k + 1 ≤ j := by omega
      have h3 : ¬ j = k := by omega
      simp [h1, h2, h3]

@[simp] theorem State.length_bytes (s : State) (k n : Nat) : (s.bytes k n).length = n := by
  induction n generalizing k with
  | zero => rfl
  | succ n ih => simp [State.bytes, ih]

theorem State.getElem_bytes (s : State) (k n j : Nat) (h : j < (s.bytes k n).length) :
    (s.bytes k n)[j] = s.byte (k + j) := by
  induction n generalizing k j with
  | zero => simp [State.bytes] at h
  | succ n ih =>
    cases j with
    | zero => simp [State.bytes]
    | succ j =>
      simp only [State.bytes, List.getElem_cons_succ]
      rw [ih]
      congr 1
      omega

/-! ## Little-endian numbers (R2) -/

@[simp] theorem length_leBytes (n v : Nat) : (leBytes n v).length = n := by
  induction n generalizing v with
  | zero => rfl
  | succ n ih => simp [leBytes, ih]

theorem getElem_leBytes (n v j : Nat) (h : j < (leBytes n v).length) :
    (leBytes n v)[j] = BitVec.ofNat 8 (v / 256 ^ j) := by
  induction n generalizing v j with
  | zero => simp [leBytes] at h
  | succ n ih =>
    cases j with
    | zero => simp [leBytes]
    | succ j =>
      simp only [leBytes, List.getElem_cons_succ]
      rw [ih, Nat.div_div_eq_div_mul, Nat.pow_succ, Nat.mul_comm]

theorem leNat_lt (l : List Byte) : leNat l < 256 ^ l.length := by
  induction l with
  | nil => simp [leNat]
  | cons b l ih =>
    have := b.isLt
    simp only [leNat, List.length_cons, Nat.pow_succ]
    omega

theorem leNat_leBytes (n v : Nat) : leNat (leBytes n v) = v % 256 ^ n := by
  induction n generalizing v with
  | zero => simp [leBytes, leNat, Nat.mod_one]
  | succ n ih =>
    rw [leBytes, leNat, ih, Nat.pow_succ', Nat.mod_mul]
    simp

theorem State.num_lt (s : State) (k n : Nat) : s.num k n < 256 ^ n := by
  simpa [State.num] using leNat_lt (s.bytes k n)

theorem State.bytes_setBytes {s : State} (h : Memory.wf s.mem = true) (k : Nat) (l : List Byte) :
    (s.setBytes k l).bytes k l.length = l := by
  apply List.ext_getElem
  · simp
  · intro j h1 h2
    rw [State.getElem_bytes, State.byte_setBytes h]
    simp [h2]

/-- A number read back from where it was written. -/
theorem State.num_setNum {s : State} (h : Memory.wf s.mem = true) (k n v : Nat) :
    (s.setNum k n v).num k n = v % 256 ^ n := by
  have := State.bytes_setBytes h k (leBytes n v)
  simp only [length_leBytes] at this
  rw [State.num, State.setNum, this, leNat_leBytes]

theorem State.word_setWord {s : State} (h : Memory.wf s.mem = true) (k : Nat) (v : Word) :
    (s.setWord k v).word k = v := by
  rw [State.word, State.setWord, State.num_setNum h]
  apply BitVec.eq_of_toNat_eq
  have := v.isLt
  simp only [BitVec.toNat_ofNat]
  omega

theorem State.wf_setNum {s : State} (h : Memory.wf s.mem = true) (k n v : Nat) : Memory.wf (s.setNum k n v).mem = true :=
  State.wf_setBytes h k _

theorem State.wf_setWord {s : State} (h : Memory.wf s.mem = true) (k : Nat) (v : Word) :
    Memory.wf (s.setWord k v).mem = true := State.wf_setBytes h k _

/-- A byte outside a stored number reads as before. -/
theorem State.byte_setNum_outside {s : State} (h : Memory.wf s.mem = true) (k n v j : Nat) (hj : j < k ∨ k + n ≤ j) :
    (s.setNum k n v).byte j = s.byte j := by
  rw [State.setNum, State.byte_setBytes h, dif_neg (by simp only [length_leBytes]; omega)]

/-- A byte inside a stored number is its byte of the number. -/
theorem State.byte_setNum_inside {s : State} (h : Memory.wf s.mem = true) (k n v j : Nat) (hj : j < n) :
    (s.setNum k n v).byte (k + j) = BitVec.ofNat 8 (v / 256 ^ j) := by
  rw [State.setNum, State.byte_setBytes h, dif_pos (by simp only [length_leBytes]; omega), getElem_leBytes]
  simp

@[simp] theorem State.tags_setBytes (s : State) (k : Nat) (l : List Byte) : (s.setBytes k l).tags = s.tags := by
  rw [State.setBytes_eq]
@[simp] theorem State.poison_setBytes (s : State) (k : Nat) (l : List Byte) : (s.setBytes k l).poison = s.poison := by
  rw [State.setBytes_eq]
@[simp] theorem State.core_setBytes (s : State) (k : Nat) (l : List Byte) : (s.setBytes k l).core = s.core := by
  rw [State.setBytes_eq]
@[simp] theorem State.th_setBytes (s : State) (k : Nat) (l : List Byte) (t : ThreadId) : (s.setBytes k l).th t = s.th t := by
  rw [State.setBytes_eq]; cases t <;> rfl

/-! ## Tags and poison -/

theorem State.tag_setTag {s : State} (h : swf false 0 s.tags = true) (k : Nat) (b : Bool) (j : Nat) :
    (s.setTag k b).tag j = if j / 8 = k / 8 then b else s.tag j := sget_sput h _ b _

theorem State.wf_setTag {s : State} (h : swf false 0 s.tags = true) (k : Nat) (b : Bool) :
    swf false 0 (s.setTag k b).tags = true := sput_wf h _ b

theorem State.poisoned_setPoison {s : State} (h : swf false 0 s.poison = true) (k : Nat) (b : Bool) (j : Nat) :
    (s.setPoison k b).poisoned j = if j / 8 = k / 8 then b else s.poisoned j := sget_sput h _ b _

theorem State.wf_setPoison {s : State} (h : swf false 0 s.poison = true) (k : Nat) (b : Bool) :
    swf false 0 (s.setPoison k b).poison = true := sput_wf h _ b

/-! ## The canonical forms together -/

/-- Memory, tags and poison in their canonical forms. -/
structure State.Tidy (s : State) : Prop where
  mem : Memory.wf s.mem = true
  tags : swf false 0 s.tags = true
  poison : swf false 0 s.poison = true

theorem State.tidy_reset : State.reset.Tidy := ⟨rfl, rfl, rfl⟩

variable {s : State}

theorem State.Tidy.setByte (h : s.Tidy) (k : Nat) (b : Byte) : (s.setByte k b).Tidy :=
  ⟨State.wf_setByte h.mem k b, h.tags, h.poison⟩

theorem State.Tidy.setBytes (h : s.Tidy) (k : Nat) (l : List Byte) : (s.setBytes k l).Tidy :=
  ⟨State.wf_setBytes h.mem k l, by simpa using h.tags, by simpa using h.poison⟩

theorem State.Tidy.setNum (h : s.Tidy) (k n v : Nat) : (s.setNum k n v).Tidy := h.setBytes k _

theorem State.Tidy.setWord (h : s.Tidy) (k : Nat) (v : Word) : (s.setWord k v).Tidy := h.setBytes k _

theorem State.Tidy.setTag (h : s.Tidy) (k : Nat) (b : Bool) : (s.setTag k b).Tidy :=
  ⟨h.mem, State.wf_setTag h.tags k b, h.poison⟩

theorem State.Tidy.setPoison (h : s.Tidy) (k : Nat) (b : Bool) : (s.setPoison k b).Tidy :=
  ⟨h.mem, h.tags, State.wf_setPoison h.poison k b⟩

theorem State.Tidy.setL1 (h : s.Tidy) (k : Nat) (b : Option L1Byte) : (s.setL1 k b).Tidy := ⟨h.mem, h.tags, h.poison⟩

theorem State.Tidy.dropLine (h : s.Tidy) (k : Nat) : (s.dropLine k).Tidy := ⟨h.mem, h.tags, h.poison⟩

theorem State.Tidy.dropClean (h : s.Tidy) : s.dropClean.Tidy := ⟨h.mem, h.tags, h.poison⟩

theorem State.Tidy.writeBackBytes (h : s.Tidy) (k n : Nat) : (Machine.writeBackBytes s k n).Tidy := by
  induction n generalizing s k with
  | zero => exact h
  | succ n ih =>
    rw [Machine.writeBackBytes]
    apply ih
    split
    · split
      · dsimp only
        split
        · exact State.Tidy.setPoison (State.Tidy.setL1 (State.Tidy.setByte h k _) k _) k true
        · exact State.Tidy.setL1 (State.Tidy.setByte h k _) k _
      · exact h
    · exact h

theorem State.Tidy.cleanWords (h : s.Tidy) (k n : Nat) : (Machine.cleanWords s k n).Tidy := by
  induction n generalizing s k with
  | zero => exact h
  | succ n ih =>
    rw [Machine.cleanWords]
    apply ih
    split
    · exact h.setPoison k false
    · exact h

theorem State.Tidy.noteFar (h : s.Tidy) (b : Bool) : (s.noteFar b).Tidy := by
  unfold State.noteFar
  split <;> exact ⟨h.mem, h.tags, h.poison⟩

theorem State.Tidy.postRecord (h : s.Tidy) (q slot a b c d : Nat) : (s.postRecord q slot a b c d).Tidy :=
  State.Tidy.setNum (State.Tidy.setTag (State.Tidy.setNum (State.Tidy.setTag (State.Tidy.setNum (State.Tidy.setNum
    (State.Tidy.setNum h _ _ _) _ _ _) _ _ _) _ _) _ _ _) _ _) _ _ _

theorem State.Tidy.hostCounts (h : s.Tidy) (l : List (Nat × Nat)) : { s with hostCounts := l }.Tidy :=
  ⟨h.mem, h.tags, h.poison⟩

theorem State.Tidy.countHost (h : s.Tidy) (l : Loc) : (s.countHost l).Tidy := by
  unfold State.countHost
  split
  · dsimp only
    split
    · split
      · exact State.Tidy.hostCounts (State.Tidy.postRecord h _ _ _ _ _ _) _
      · exact h.hostCounts _
    · exact h.hostCounts _
  · exact h

theorem State.Tidy.payload (h : s.Tidy) (w n : Nat) : (s.payload w n).Tidy := by
  unfold State.payload
  split
  · exact h
  · exact ⟨h.mem, h.tags, h.poison⟩

theorem State.Tidy.cross (h : s.Tidy) (n : Nat) (l : Loc) : (s.cross n l).Tidy := by
  unfold State.cross State.linkBytes
  apply State.Tidy.countHost
  split
  · exact h.payload _ _
  · exact h.payload _ _
  · exact h

theorem State.Tidy.countBack (h : s.Tidy) (k : Nat) : (s.countBack k).Tidy := by
  unfold State.countBack
  split
  · dsimp only
    split
    · exact State.Tidy.countHost (State.Tidy.payload h _ _) _
    · exact h.payload _ _
  · exact h

theorem State.Tidy.writeBackLine (h : s.Tidy) (k : Nat) : (s.writeBackLine k).Tidy := by
  rw [State.writeBackLine]
  exact (((h.countBack k).noteFar _).cleanWords _ _).writeBackBytes _ _

theorem State.Tidy.fillLine (h : s.Tidy) (k n : Nat) : (Machine.fillLine s k n).Tidy := by
  induction n generalizing s k with
  | zero => exact h
  | succ n ih =>
    rw [Machine.fillLine]
    apply ih
    split
    · exact h
    · exact h.setL1 _ _

theorem State.Tidy.foldl {α : Type} (f : State → α → State) (hf : ∀ s : State, s.Tidy → ∀ a, (f s a).Tidy) (l : List α)
    (h : s.Tidy) : (l.foldl f s).Tidy := by
  induction l generalizing s with
  | nil => exact h
  | cons a l ih => exact ih (hf s h a)

theorem State.Tidy.writeBackLines (h : s.Tidy) (l : List Nat) : (Machine.writeBackLines s l).Tidy :=
  State.Tidy.foldl _ (fun _ ht k => State.Tidy.writeBackLine ht k) l h

theorem State.Tidy.writeBackAll (h : s.Tidy) : s.writeBackAll.Tidy := h.writeBackLines _

theorem State.Tidy.flushLoc (h : s.Tidy) (l : Loc) : (s.flushLoc l).Tidy := by
  rw [State.flushLoc]
  split
  · exact h
  · exact State.Tidy.dropLine (State.Tidy.writeBackLine h _) _

theorem State.Tidy.noteAce (h : s.Tidy) (l : Loc) : (s.noteAce l).Tidy := by
  unfold State.noteAce
  split
  · exact ⟨h.mem, h.tags, h.poison⟩
  · exact h

theorem State.Tidy.writeSite (h : s.Tidy) (b : Byte) (x : Site) : (Machine.writeSite s b x).Tidy := by
  unfold Machine.writeSite
  split
  · split
    · exact h.setByte _ b
    · exact (h.noteAce _).setL1 _ _
  · exact h

theorem State.Tidy.writeSites (h : s.Tidy) (l : List Site) (r : List Byte) : (Machine.writeSites s l r).Tidy := by
  induction l generalizing s r with
  | nil => exact h
  | cons x l ih =>
    cases r with
    | nil => exact h
    | cons b r => exact ih (h.writeSite b x) r

theorem State.Tidy.putSites (h : s.Tidy) (l : List Site) (r : List Byte) : (Machine.putSites s l r).Tidy := by
  induction l generalizing s r with
  | nil => exact h
  | cons x l ih =>
    cases r with
    | nil => exact h
    | cons b r =>
      apply ih
      unfold State.putSite
      split
      · exact h.setByte _ b
      · exact h

theorem State.Tidy.cleanRun (h : s.Tidy) (l : List Site) : (Machine.cleanRun s l).Tidy :=
  State.Tidy.foldl _ (fun _ ht k => ht.setPoison k false) _ h

theorem State.Tidy.tagRun (h : s.Tidy) (b : Bool) (l : List Site) : (Machine.tagRun b s l).Tidy :=
  State.Tidy.foldl _ (fun _ ht k => ht.setTag k b) _ h

/-! ## What leaves memory alone -/

/-- Memory, tags and poison of two states are the same data. -/
structure State.SameMem (s t : State) : Prop where
  mem : t.mem = s.mem
  tags : t.tags = s.tags
  poison : t.poison = s.poison

theorem State.SameMem.refl (s : State) : State.SameMem s s := ⟨rfl, rfl, rfl⟩

theorem State.SameMem.trans {s t u : State} (h : State.SameMem s t) (k : State.SameMem t u) : State.SameMem s u :=
  ⟨k.mem.trans h.mem, k.tags.trans h.tags, k.poison.trans h.poison⟩

theorem State.SameMem.tidy {s t : State} (h : State.SameMem s t) (k : s.Tidy) : t.Tidy :=
  ⟨by rw [h.mem]; exact k.mem, by rw [h.tags]; exact k.tags, by rw [h.poison]; exact k.poison⟩

theorem State.SameMem.foldl {α : Type} (f : State → α → State) (hf : ∀ (s : State) (a : α), State.SameMem s (f s a))
    (l : List α) (s : State) : State.SameMem s (l.foldl f s) := by
  induction l generalizing s with
  | nil => exact .refl s
  | cons a l ih => exact (hf s a).trans (ih (f s a))

theorem State.sameMem_setMe (s : State) (x : Thread) : State.SameMem s (s.setMe x) := ⟨by simp, by simp, by simp⟩

theorem State.sameMem_setTh (s : State) (t : ThreadId) (x : Thread) : State.SameMem s (s.setTh t x) :=
  ⟨by simp, by simp, by simp⟩

theorem State.sameMem_post (s : State) (h : Nat × Nat × Nat) (m : Msg) : State.SameMem s (s.post h m) := by
  unfold State.post
  split <;> exact ⟨rfl, rfl, rfl⟩

theorem State.sameMem_countHy (s : State) (i : Fin 6) (n : Nat) : State.SameMem s (s.countHy i n) := ⟨rfl, rfl, rfl⟩

theorem sameMem_meet (t : ThreadId) (tag : BitVec 7) (b : Bool) (s : State) : State.SameMem s (meet t tag b s) := by
  unfold meet
  split
  · split
    · dsimp only
      split
      · exact (s.sameMem_setTh t _).trans (State.sameMem_countHy _ 2 1)
      · exact s.sameMem_setTh t _
    · exact .refl s
  · exact .refl s

theorem sameMem_drain (p : Nat) (s : State) : State.SameMem s (drain p s) := by
  unfold drain
  split
  · split
    · exact .refl s
    · exact (s.sameMem_setTh _ _).trans (sameMem_meet _ _ _ _)
  · exact .refl s

theorem sameMem_startAt (p : Nat) (s : State) : State.SameMem s (startAt p s) := by
  unfold startAt
  split
  · exact .refl s
  · split
    · dsimp only
      exact (s.sameMem_setTh _ _).trans ⟨rfl, rfl, rfl⟩
    · exact .refl s

/-- The end of a cycle changes no byte, tag or poison mark. -/
theorem sameMem_closeCycle (s : State) : State.SameMem s (closeCycle s) := by
  unfold closeCycle
  split
  · exact .refl s
  · dsimp only
    have h1 (f : ThreadId → WEntry → WEntry) : State.SameMem s (s.mapEntries f) := ⟨rfl, rfl, rfl⟩
    have h2 (u : State) : State.SameMem u (startingSidings.foldl (fun a p => startAt p a) u) :=
      State.SameMem.foldl _ (fun a p => sameMem_startAt p a) _ u
    have h3 (u : State) : State.SameMem u ((List.range 9).foldl (fun a p => drain p a) u) :=
      State.SameMem.foldl _ (fun a p => sameMem_drain p a) _ u
    have h4 (u : State) (c : Core) : State.SameMem u { u with core := c } := ⟨rfl, rfl, rfl⟩
    exact .trans (.trans (.trans (h1 _) (h2 _)) (h3 _)) (h4 _ _)

theorem State.sameMem_killRunning (t : ThreadId) (s : State) : State.SameMem s (s.killRunning t) := by
  unfold State.killRunning
  split
  · exact .refl s
  · exact (sameMem_closeCycle s).trans ((State.sameMem_countHy _ 3 1).trans (State.sameMem_countHy _ 4 _))

theorem State.sameMem_killLaunchThreads (s : State) : State.SameMem s s.killLaunchThreads := by
  unfold State.killLaunchThreads
  dsimp only
  split
  · exact s.sameMem_killRunning .pri
  · exact (s.sameMem_killRunning .pri).trans (State.sameMem_killRunning .aux _)

theorem State.sameMem_stopLaunchHere (s : State) (id : Nat) : State.SameMem s (s.stopLaunchHere id) :=
  s.sameMem_killLaunchThreads.trans ⟨rfl, rfl, rfl⟩

theorem State.sameMem_failLaunch (s : State) (id : Nat) (f : Nat × Nat × Nat) : State.SameMem s (s.failLaunch id f) := by
  unfold State.failLaunch
  have h : State.SameMem s (s.markFailed id f) := ⟨rfl, rfl, rfl⟩
  split
  · exact h.trans (State.sameMem_stopLaunchHere _ _)
  · exact h

theorem State.sameMem_killLaunch (s : State) (id c i : Nat) : State.SameMem s (s.killLaunch id c i) :=
  s.sameMem_failLaunch id _

theorem State.sameMem_haltCtx (s : State) (c k : Nat) : State.SameMem s (s.haltCtx c k) := by
  unfold State.haltCtx
  refine .trans ?_ (State.SameMem.foldl _ (fun a l => a.sameMem_killLaunch _ _ _) _ _)
  split <;> exact ⟨rfl, rfl, rfl⟩

theorem State.sameMem_sendFor (s : State) (c : Nat) (m : Msg) : State.SameMem s (s.sendFor c m) := by
  unfold State.sendFor
  split
  · split
    · exact s.sameMem_post _ m
    · exact ⟨rfl, rfl, rfl⟩
  · exact ⟨rfl, rfl, rfl⟩

theorem State.sameMem_sendTerminal (s : State) (m : Msg) : State.SameMem s (s.sendTerminal m) := s.sameMem_sendFor _ m

theorem State.sameMem_popFwd (s : State) : State.SameMem s s.popFwd := by
  unfold State.popFwd
  split <;> exact ⟨rfl, rfl, rfl⟩

theorem State.sameMem_logPoison (s : State) (c k : Nat) : State.SameMem s (s.logPoison c k) := by
  unfold State.logPoison
  split <;> exact ⟨rfl, rfl, rfl⟩

theorem State.sameMem_takeTerminal (c : Nat) (a : Word) (s : State) : State.SameMem s (takeTerminal c a s) := by
  unfold takeTerminal
  refine .trans (s.sameMem_sendTerminal (s.threadMsg c true a 0)) ?_
  dsimp only
  split
  · exact (State.sameMem_setMe _ _).trans (State.sameMem_killLaunch _ _ _ _)
  · exact State.sameMem_setMe _ _

theorem State.sameMem_takeService (m : Msg) (c : Nat) (t : ThreadId) (s : State) : State.SameMem s (takeService m c t s) := by
  unfold takeService
  split
  · exact (s.sameMem_setTh t _).trans (State.sameMem_post _ _ m)
  · dsimp only
    split
    · exact (s.sameMem_setTh t _).trans (State.sameMem_killLaunch _ _ _ _)
    · exact s.sameMem_setTh t _

theorem State.sameMem_handlerFault (c : Nat) (a : Word) (s : State) : State.SameMem s (handlerFault c a s) := by
  unfold handlerFault
  dsimp only
  split
  · refine .trans ?_ (State.sameMem_post _ _ _)
    split
    · exact ⟨rfl, rfl, rfl⟩
    · split
      · refine State.SameMem.trans ?_ (State.sameMem_killLaunch _ _ _ _)
        exact ⟨rfl, rfl, rfl⟩
      · exact ⟨rfl, rfl, rfl⟩
  · refine .trans ?_ (State.sameMem_haltCtx _ _ _)
    split
    · exact ⟨rfl, rfl, rfl⟩
    · split
      · refine State.SameMem.trans ?_ (State.sameMem_killLaunch _ _ _ _)
        exact ⟨rfl, rfl, rfl⟩
      · exact ⟨rfl, rfl, rfl⟩

theorem State.sameMem_enterLoader (s : State) : State.SameMem s (enterLoader s) := ⟨rfl, rfl, rfl⟩

theorem State.sameMem_enterLoader' (s : State) (m : Word) :
    State.SameMem s (enterLoader { s with core := { s.core with cxMiss := m } }) :=
  State.SameMem.trans (t := { s with core := { s.core with cxMiss := m } }) ⟨rfl, rfl, rfl⟩ (State.sameMem_enterLoader _)

theorem State.sameMem_takeMiss (n : Nat) (s : State) : State.SameMem s (takeMiss n s) := by
  unfold takeMiss
  split
  · exact State.sameMem_takeTerminal _ _ _
  · split
    · exact State.sameMem_takeTerminal _ _ _
    · split
      · exact State.sameMem_setMe _ _
      · split
        · exact State.sameMem_enterLoader' s _
        · exact ⟨rfl, rfl, rfl⟩

/-- Delivering a trap changes no byte, tag or poison mark. -/
theorem State.sameMem_deliverTrap (c : Nat) (a i : Word) (s : State) : State.SameMem s (deliverTrap c a i s) := by
  have h1 : State.SameMem s (((s.setMe { s.me.killed with wake := s.me.wake }).countHy 3 1).logPoison c i.toNat) :=
    .trans (.trans (s.sameMem_setMe _) (State.sameMem_countHy _ 3 1)) (State.sameMem_logPoison _ c _)
  unfold deliverTrap
  dsimp only
  split
  · exact .trans (.trans h1 (State.sameMem_setMe _ _)) (State.sameMem_setTh _ _ _)
  · split
    · exact .trans (.trans h1 (State.sameMem_handlerFault _ _ _)) (State.sameMem_setTh _ _ _)
    · split
      · exact .trans (.trans h1 (State.sameMem_takeMiss _ _)) (State.sameMem_setTh _ _ _)
      · split
        · exact .trans (.trans (.trans h1 (State.sameMem_popFwd _)) (State.sameMem_takeService _ _ _ _))
            (State.sameMem_setTh _ _ _)
        · exact .trans (.trans h1 (State.sameMem_takeTerminal _ _ _)) (State.sameMem_setTh _ _ _)

/-- Taking a trap changes no byte, tag or poison mark. -/
theorem State.sameMem_takeTrap (c : Nat) (a i : Word) (s : State) : State.SameMem s (takeTrap c a i s) := by
  unfold takeTrap
  split
  · exact s.sameMem_deliverTrap c a i
  · exact s.sameMem_setMe _

theorem State.sameMem_parkThread (w : Wake) (s : State) : State.SameMem s (parkThread w s) := s.sameMem_setMe _

/-- What a meaning's computation comes to: a computation that keeps memory, whether it completes, traps or waits, keeps it
in its outcome. -/
theorem State.sameMem_finish {r : Res State} {t : State}
    (hok : ∀ u, r = .ok u → State.SameMem s u) (htrap : ∀ c a i u, r = .error (.trap c a i u) → State.SameMem s u)
    (hpark : ∀ w u, r = .error (.park w u) → State.SameMem s u) (h : finish r = .next t) : State.SameMem s t := by
  unfold finish at h
  split at h
  · cases h; exact hok _ rfl
  · cases h; exact (htrap _ _ _ _ rfl).trans (State.sameMem_takeTrap _ _ _ _)
  · cases h; exact (hpark _ _ rfl).trans (State.sameMem_parkThread _ _)
  · cases h

/-- A meaning that answers a refusal never comes from `finish`. -/
theorem finish_not_refused (r : Res State) (x : Refusal) : finish r ≠ .refused x := by
  unfold finish
  split <;> simp

end Sys2Proof.Machine
end

