-- ==== Sys2Proof/Laws/PerInstr.lean ====
section
/-! SUPPORT. What every encoding shows of its length (R87): one lemma for each constructor. -/

set_option Elab.async false

namespace Sys2Proof.Laws.EncodedLength

/-- R87: the words of a four-byte instruction lie from 0xC0000000 on, and the parcels of a compact one below 0xC000, so the
first parcel alone tells the length. -/
def Statement (i : Instr) : Prop :=
  ∀ w, encode i = some w → (size i = 4 ∧ 0xC0000000 ≤ w ∧ w < 2 ^ 32) ∨ (size i = 2 ∧ w < 0xC000)

theorem of_long {i : Instr} {x : Nat} (e : encode i = some x) (n : size i = 4) (r : 0xC0000000 ≤ x ∧ x < 2 ^ 32) : Statement i :=
  fun _ h => .inl ⟨n, Option.some.inj (e.symm.trans h) ▸ r⟩

theorem of_short {i : Instr} {x : Nat} (e : encode i = some x) (n : size i = 2) (r : x < 0xC000) : Statement i :=
  fun _ h => .inr ⟨n, Option.some.inj (e.symm.trans h) ▸ r⟩

theorem of_none {i : Instr} (e : encode i = Option.none) : Statement i := fun _ h => nomatch e.symm.trans h

end Sys2Proof.Laws.EncodedLength

namespace Sys2Proof.Laws

theorem EncodedLength.add (w : Bool) (d : Fin 32) (a b : Src) : Statement (.add w d a b) := of_long rfl rfl (FmtA.word_range _ _)
theorem EncodedLength.sub (w : Bool) (d : Fin 32) (a b : Src) : Statement (.sub w d a b) := of_long rfl rfl (FmtA.word_range _ _)
theorem EncodedLength.and (w : Bool) (d : Fin 32) (a b : Src) : Statement (.and w d a b) := of_long rfl rfl (FmtA.word_range _ _)
theorem EncodedLength.or (w : Bool) (d : Fin 32) (a b : Src) : Statement (.or w d a b) := of_long rfl rfl (FmtA.word_range _ _)
theorem EncodedLength.xor (w : Bool) (d : Fin 32) (a b : Src) : Statement (.xor w d a b) := of_long rfl rfl (FmtA.word_range _ _)
theorem EncodedLength.andn (w : Bool) (d : Fin 32) (a b : Src) : Statement (.andn w d a b) := of_long rfl rfl (FmtA.word_range _ _)
theorem EncodedLength.shl (w : Bool) (d : Fin 32) (a b : Src) : Statement (.shl w d a b) := of_long rfl rfl (FmtA.word_range _ _)
theorem EncodedLength.shr (w : Bool) (d : Fin 32) (a b : Src) : Statement (.shr w d a b) := of_long rfl rfl (FmtA.word_range _ _)
theorem EncodedLength.sar (w : Bool) (d : Fin 32) (a b : Src) : Statement (.sar w d a b) := of_long rfl rfl (FmtA.word_range _ _)
theorem EncodedLength.min (w : Bool) (d : Fin 32) (a b : Src) : Statement (.min w d a b) := of_long rfl rfl (FmtA.word_range _ _)
theorem EncodedLength.max (w : Bool) (d : Fin 32) (a b : Src) : Statement (.max w d a b) := of_long rfl rfl (FmtA.word_range _ _)
theorem EncodedLength.minu (w : Bool) (d : Fin 32) (a b : Src) : Statement (.minu w d a b) := of_long rfl rfl (FmtA.word_range _ _)
theorem EncodedLength.maxu (w : Bool) (d : Fin 32) (a b : Src) : Statement (.maxu w d a b) := of_long rfl rfl (FmtA.word_range _ _)
theorem EncodedLength.slt (w : Bool) (d : Fin 32) (a b : Src) : Statement (.slt w d a b) := of_long rfl rfl (FmtA.word_range _ _)
theorem EncodedLength.sltu (w : Bool) (d : Fin 32) (a b : Src) : Statement (.sltu w d a b) := of_long rfl rfl (FmtA.word_range _ _)
theorem EncodedLength.seq (w : Bool) (d : Fin 32) (a b : Src) : Statement (.seq w d a b) := of_long rfl rfl (FmtA.word_range _ _)
theorem EncodedLength.clz (w : Bool) (d : Fin 32) (a : Src) : Statement (.clz w d a) := of_long rfl rfl (FmtA.word_range _ _)
theorem EncodedLength.ctz (w : Bool) (d : Fin 32) (a : Src) : Statement (.ctz w d a) := of_long rfl rfl (FmtA.word_range _ _)
theorem EncodedLength.popc (w : Bool) (d : Fin 32) (a : Src) : Statement (.popc w d a) := of_long rfl rfl (FmtA.word_range _ _)
theorem EncodedLength.sext (w : Bool) (d : Fin 32) (a p : Src) : Statement (.sext w d a p) := of_long rfl rfl (FmtA.word_range _ _)
theorem EncodedLength.zext (w : Bool) (d : Fin 32) (a p : Src) : Statement (.zext w d a p) := of_long rfl rfl (FmtA.word_range _ _)
theorem EncodedLength.sel (w : Bool) (d : Fin 32) (a b : Src) : Statement (.sel w d a b) := of_long rfl rfl (FmtA.word_range _ _)
theorem EncodedLength.mov (d : Fin 32) (a : Src) : Statement (.mov d a) := of_long rfl rfl (FmtA.word_range _ _)
theorem EncodedLength.mul (w : Bool) (d : Fin 32) (a b : Src) : Statement (.mul w d a b) := of_long rfl rfl (FmtA.word_range _ _)
theorem EncodedLength.mulh (w : Bool) (d : Fin 32) (a b : Src) : Statement (.mulh w d a b) := of_long rfl rfl (FmtA.word_range _ _)
theorem EncodedLength.mulhu (w : Bool) (d : Fin 32) (a b : Src) : Statement (.mulhu w d a b) := of_long rfl rfl (FmtA.word_range _ _)
theorem EncodedLength.div (w : Bool) (d : Fin 32) (a b : Src) : Statement (.div w d a b) := of_long rfl rfl (FmtA.word_range _ _)
theorem EncodedLength.divu (w : Bool) (d : Fin 32) (a b : Src) : Statement (.divu w d a b) := of_long rfl rfl (FmtA.word_range _ _)
theorem EncodedLength.rem (w : Bool) (d : Fin 32) (a b : Src) : Statement (.rem w d a b) := of_long rfl rfl (FmtA.word_range _ _)
theorem EncodedLength.remu (w : Bool) (d : Fin 32) (a b : Src) : Statement (.remu w d a b) := of_long rfl rfl (FmtA.word_range _ _)
theorem EncodedLength.li (d : Fin 32) (imm : BitVec 16) : Statement (.li d imm) := of_long rfl rfl (FmtI.word_range _ _)
theorem EncodedLength.lix (n : Fin 8) (imm : BitVec 16) : Statement (.lix n imm) := of_long rfl rfl (FmtI.word_range _ _)
theorem EncodedLength.lxh (n : Fin 8) (imm : BitVec 16) : Statement (.lxh n imm) := of_long rfl rfl (FmtI.word_range _ _)
theorem EncodedLength.movxFromX (d : Fin 32) (n : Fin 8) : Statement (.movxFromX d n) := of_long rfl rfl (FmtA.word_range _ _)
theorem EncodedLength.movxToX (n : Fin 8) (a : Src) : Statement (.movxToX n a) := of_long rfl rfl (FmtA.word_range _ _)
theorem EncodedLength.saddr (d : Fin 32) (a b : Src) : Statement (.saddr d a b) := of_long rfl rfl (FmtA.word_range _ _)
theorem EncodedLength.lea (d b : Fin 32) (off : BitVec 11) (scale : Fin 4) : Statement (.lea d b off scale) := of_long rfl rfl (FmtM.word_range _ _)
theorem EncodedLength.b (c : Cond) (s1 s2 : Fin 32) (hint : Bool) (off : BitVec 10) : Statement (.b c s1 s2 hint off) := of_long rfl rfl (FmtB.word_range _ _)
theorem EncodedLength.loop (c : Fin 32) (off : BitVec 10) : Statement (.loop c off) := of_long rfl rfl (FmtB.word_range _ _)
theorem EncodedLength.bsplit (c : Cond) (s1 s2 : Fin 32) (hint : Bool) (off : BitVec 10) : Statement (.bsplit c s1 s2 hint off) := of_long rfl rfl (FmtB.word_range _ _)
theorem EncodedLength.j (off : BitVec 24) : Statement (.j off) := of_long rfl rfl (by simp only [majorWord]; omega)
theorem EncodedLength.jal (off : BitVec 24) : Statement (.jal off) := of_long rfl rfl (by simp only [majorWord]; omega)
theorem EncodedLength.jr (d a : Fin 32) : Statement (.jr d a) := of_long rfl rfl (FmtA.word_range _ _)
theorem EncodedLength.cMov (d s : Fin 16) : Statement (.cMov d s) := of_short rfl rfl (FmtCR.parcel_lt _ _)
theorem EncodedLength.cAdd (d s : Fin 16) : Statement (.cAdd d s) := of_short rfl rfl (FmtCR.parcel_lt _ _)
theorem EncodedLength.cSub (d s : Fin 16) : Statement (.cSub d s) := of_short rfl rfl (FmtCR.parcel_lt _ _)
theorem EncodedLength.cAnd (d s : Fin 16) : Statement (.cAnd d s) := of_short rfl rfl (FmtCR.parcel_lt _ _)
theorem EncodedLength.cAddi (d : Fin 16) (i : BitVec 7) : Statement (.cAddi d i) := of_short rfl rfl (FmtCI.parcel_lt _ _)
theorem EncodedLength.cLi (d : Fin 16) (i : BitVec 7) : Statement (.cLi d i) := of_short rfl rfl (FmtCI.parcel_lt _ _)
theorem EncodedLength.cShli (d : Fin 16) (i : BitVec 7) : Statement (.cShli d i) := of_short rfl rfl (FmtCI.parcel_lt _ _)
theorem EncodedLength.cShri (d : Fin 16) (i : BitVec 7) : Statement (.cShri d i) := of_short rfl rfl (FmtCI.parcel_lt _ _)
theorem EncodedLength.cLdw (d b : Fin 16) (o : Fin 8) : Statement (.cLdw d b o) := of_short rfl rfl (FmtCR.parcel_lt _ _)
theorem EncodedLength.cStw (d b : Fin 16) (o : Fin 8) : Statement (.cStw d b o) := of_short rfl rfl (FmtCR.parcel_lt _ _)
theorem EncodedLength.cBeqz (s : Fin 16) (off : BitVec 7) : Statement (.cBeqz s off) := of_short rfl rfl (FmtCI.parcel_lt _ _)
theorem EncodedLength.cBnez (s : Fin 16) (off : BitVec 7) : Statement (.cBnez s off) := of_short rfl rfl (FmtCI.parcel_lt _ _)
theorem EncodedLength.cJ (off : BitVec 11) : Statement (.cJ off) := of_short rfl rfl (by omega)
theorem EncodedLength.cJr (s : Fin 16) : Statement (.cJr s) := of_short rfl rfl (FmtCI.parcel_lt _ _)
theorem EncodedLength.ld (d b : Fin 32) (off : BitVec 11) (sz : LdSize) : Statement (.ld d b off sz) := of_long rfl rfl (FmtM.word_range _ _)
theorem EncodedLength.ldIndexed (d b i : Fin 32) (sh : Fin 4) (sz : LdSize) : Statement (.ldIndexed d b i sh sz) := of_long rfl rfl (FmtX.word_range _ _)
theorem EncodedLength.st (d b : Fin 32) (off : BitVec 11) (sz : StSize) : Statement (.st d b off sz) := of_long rfl rfl (FmtM.word_range _ _)
theorem EncodedLength.stIndexed (d b i : Fin 32) (sh : Fin 4) (sz : StSize) : Statement (.stIndexed d b i sh sz) := of_long rfl rfl (FmtX.word_range _ _)
theorem EncodedLength.ldr (d b : Fin 32) (off : BitVec 11) : Statement (.ldr d b off) := of_long rfl rfl (FmtM.word_range _ _)
theorem EncodedLength.stp (d b : Fin 32) (off : BitVec 11) : Statement (.stp d b off) := of_long rfl rfl (FmtM.word_range _ _)
theorem EncodedLength.pref (llc : Bool) (b : Fin 32) (off : BitVec 11) : Statement (.pref llc b off) := of_long rfl rfl (FmtM.word_range _ _)
theorem EncodedLength.kld (d b : Fin 32) (off : BitVec 11) : Statement (.kld d b off) := of_long rfl rfl (FmtM.word_range _ _)
theorem EncodedLength.ldf (d b : Fin 32) (off : BitVec 11) : Statement (.ldf d b off) := of_long rfl rfl (FmtM.word_range _ _)
theorem EncodedLength.ldfe (d b : Fin 32) (off : BitVec 11) : Statement (.ldfe d b off) := of_long rfl rfl (FmtM.word_range _ _)
theorem EncodedLength.stf (d b : Fin 32) (off : BitVec 11) : Statement (.stf d b off) := of_long rfl rfl (FmtM.word_range _ _)
theorem EncodedLength.stef (d b : Fin 32) (off : BitVec 11) : Statement (.stef d b off) := of_long rfl rfl (FmtM.word_range _ _)
theorem EncodedLength.tagset (b : Fin 32) (off : BitVec 11) : Statement (.tagset b off) := of_long rfl rfl (FmtM.word_range _ _)
theorem EncodedLength.tagclr (b : Fin 32) (off : BitVec 11) : Statement (.tagclr b off) := of_long rfl rfl (FmtM.word_range _ _)
theorem EncodedLength.tagtst (d b : Fin 32) (off : BitVec 11) : Statement (.tagtst d b off) := of_long rfl rfl (FmtM.word_range _ _)
theorem EncodedLength.vld (v : Fin 16) (ty : MemTy) (b : Fin 32) (off : BitVec 10) : Statement (.vld v ty b off) := of_long rfl rfl (FmtVM.word_range _ _)
theorem EncodedLength.vlds (v : Fin 16) (ty : MemTy) (b : Fin 32) (off : BitVec 10) : Statement (.vlds v ty b off) := of_long rfl rfl (FmtVM.word_range _ _)
theorem EncodedLength.vldx (v : Fin 16) (ty : MemTy) (b : Fin 32) (x : Fin 16) : Statement (.vldx v ty b x) := of_long rfl rfl (FmtVX.word_range _ _)
theorem EncodedLength.vldb (v : Fin 16) (ty : MemTy) (b : Fin 32) (off : BitVec 10) : Statement (.vldb v ty b off) := of_long rfl rfl (FmtVM.word_range _ _)
theorem EncodedLength.vst (v : Fin 16) (ty : MemTy) (b : Fin 32) (off : BitVec 10) : Statement (.vst v ty b off) := of_long rfl rfl (FmtVM.word_range _ _)
theorem EncodedLength.vsts (v : Fin 16) (ty : MemTy) (b : Fin 32) (off : BitVec 10) : Statement (.vsts v ty b off) := of_long rfl rfl (FmtVM.word_range _ _)
theorem EncodedLength.vstx (v : Fin 16) (ty : MemTy) (b : Fin 32) (x : Fin 16) : Statement (.vstx v ty b x) := of_long rfl rfl (FmtVX.word_range _ _)
theorem EncodedLength.vstxAdd (v : Fin 16) (ty : MemTy) (b : Fin 32) (x : Fin 16) : Statement (.vstxAdd v ty b x) := of_long rfl rfl (FmtVX.word_range _ _)
theorem EncodedLength.amoW (d b v : Fin 32) (op : AmoOp) (o : Order) (sc : Scope) : Statement (.amoW d b v op o sc) := of_long rfl rfl (FmtAt.word_range _ _)
theorem EncodedLength.amoD (d b v : Fin 32) (op : AmoOp) (o : Order) (sc : Scope) : Statement (.amoD d b v op o sc) := of_long rfl rfl (FmtAt.word_range _ _)
theorem EncodedLength.fence (o : Order) (sc : Scope) : Statement (.fence o sc) := of_long rfl rfl (FmtAt.word_range _ _)
theorem EncodedLength.vaddI (v : Fin 16) (a b : VSrc) (t : IntTy) (dl : Fin 8) : Statement (.vaddI v a b t dl) := of_long rfl rfl (FmtV.word_range _ _)
theorem EncodedLength.vsubI (v : Fin 16) (a b : VSrc) (t : IntTy) (dl : Fin 8) : Statement (.vsubI v a b t dl) := of_long rfl rfl (FmtV.word_range _ _)
theorem EncodedLength.vmulI (v : Fin 16) (a b : VSrc) (t : IntTy) (dl : Fin 8) : Statement (.vmulI v a b t dl) := of_long rfl rfl (FmtV.word_range _ _)
theorem EncodedLength.vminI (v : Fin 16) (a b : VSrc) (t : IntTy) (dl : Fin 8) : Statement (.vminI v a b t dl) := of_long rfl rfl (FmtV.word_range _ _)
theorem EncodedLength.vmaxI (v : Fin 16) (a b : VSrc) (t : IntTy) (dl : Fin 8) : Statement (.vmaxI v a b t dl) := of_long rfl rfl (FmtV.word_range _ _)
theorem EncodedLength.vabsI (v : Fin 16) (a : VSrc) (dl : Fin 8) : Statement (.vabsI v a dl) := of_long rfl rfl (FmtV.word_range _ _)
theorem EncodedLength.vnegI (v : Fin 16) (a : VSrc) (dl : Fin 8) : Statement (.vnegI v a dl) := of_long rfl rfl (FmtV.word_range _ _)
theorem EncodedLength.vclampI (v : Fin 16) (a b : VSrc) (t : IntTy) (dl : Fin 8) : Statement (.vclampI v a b t dl) := of_long rfl rfl (FmtV.word_range _ _)
theorem EncodedLength.vaddF (v : Fin 16) (a b : VSrc) (t : FltTy) (dl : Fin 8) : Statement (.vaddF v a b t dl) := of_long rfl rfl (FmtV.word_range _ _)
theorem EncodedLength.vsubF (v : Fin 16) (a b : VSrc) (t : FltTy) (dl : Fin 8) : Statement (.vsubF v a b t dl) := of_long rfl rfl (FmtV.word_range _ _)
theorem EncodedLength.vmulF (v : Fin 16) (a b : VSrc) (t : FltTy) (dl : Fin 8) : Statement (.vmulF v a b t dl) := of_long rfl rfl (FmtV.word_range _ _)
theorem EncodedLength.vfma (v : Fin 16) (a b : VSrc) (t : FltTy) (dl : Fin 8) : Statement (.vfma v a b t dl) := of_long rfl rfl (FmtV.word_range _ _)
theorem EncodedLength.vfms (v : Fin 16) (a b : VSrc) (t : FltTy) (dl : Fin 8) : Statement (.vfms v a b t dl) := of_long rfl rfl (FmtV.word_range _ _)
theorem EncodedLength.vfnma (v : Fin 16) (a b : VSrc) (t : FltTy) (dl : Fin 8) : Statement (.vfnma v a b t dl) := of_long rfl rfl (FmtV.word_range _ _)
theorem EncodedLength.vminF (v : Fin 16) (a b : VSrc) (t : FltTy) (dl : Fin 8) : Statement (.vminF v a b t dl) := of_long rfl rfl (FmtV.word_range _ _)
theorem EncodedLength.vmaxF (v : Fin 16) (a b : VSrc) (t : FltTy) (dl : Fin 8) : Statement (.vmaxF v a b t dl) := of_long rfl rfl (FmtV.word_range _ _)
theorem EncodedLength.vabsF (v : Fin 16) (a : VSrc) (t : FltTy) (dl : Fin 8) : Statement (.vabsF v a t dl) := of_long rfl rfl (FmtV.word_range _ _)
theorem EncodedLength.vnegF (v : Fin 16) (a : VSrc) (t : FltTy) (dl : Fin 8) : Statement (.vnegF v a t dl) := of_long rfl rfl (FmtV.word_range _ _)
theorem EncodedLength.vclampF (v : Fin 16) (a b : VSrc) (t : FltTy) (dl : Fin 8) : Statement (.vclampF v a b t dl) := of_long rfl rfl (FmtV.word_range _ _)
theorem EncodedLength.vrcp (v : Fin 16) (a : VSrc) (t : FltTy) (dl : Fin 8) : Statement (.vrcp v a t dl) := of_long rfl rfl (FmtV.word_range _ _)
theorem EncodedLength.vrsq (v : Fin 16) (a : VSrc) (t : FltTy) (dl : Fin 8) : Statement (.vrsq v a t dl) := of_long rfl rfl (FmtV.word_range _ _)
theorem EncodedLength.vexp2 (v : Fin 16) (a : VSrc) (t : FltTy) (dl : Fin 8) : Statement (.vexp2 v a t dl) := of_long rfl rfl (FmtV.word_range _ _)
theorem EncodedLength.vlog2 (v : Fin 16) (a : VSrc) (t : FltTy) (dl : Fin 8) : Statement (.vlog2 v a t dl) := of_long rfl rfl (FmtV.word_range _ _)
theorem EncodedLength.vand (v : Fin 16) (a b : VSrc) (dl : Fin 8) : Statement (.vand v a b dl) := of_long rfl rfl (FmtV.word_range _ _)
theorem EncodedLength.vor (v : Fin 16) (a b : VSrc) (dl : Fin 8) : Statement (.vor v a b dl) := of_long rfl rfl (FmtV.word_range _ _)
theorem EncodedLength.vxor (v : Fin 16) (a b : VSrc) (dl : Fin 8) : Statement (.vxor v a b dl) := of_long rfl rfl (FmtV.word_range _ _)
theorem EncodedLength.vandn (v : Fin 16) (a b : VSrc) (dl : Fin 8) : Statement (.vandn v a b dl) := of_long rfl rfl (FmtV.word_range _ _)
theorem EncodedLength.vshl (v : Fin 16) (a b : VSrc) (dl : Fin 8) : Statement (.vshl v a b dl) := of_long rfl rfl (FmtV.word_range _ _)
theorem EncodedLength.vshr (v : Fin 16) (a b : VSrc) (dl : Fin 8) : Statement (.vshr v a b dl) := of_long rfl rfl (FmtV.word_range _ _)
theorem EncodedLength.vsar (v : Fin 16) (a b : VSrc) (dl : Fin 8) : Statement (.vsar v a b dl) := of_long rfl rfl (FmtV.word_range _ _)
theorem EncodedLength.vmov (v : Fin 16) (a : VSrc) (dl : Fin 8) : Statement (.vmov v a dl) := of_long rfl rfl (FmtV.word_range _ _)
theorem EncodedLength.vcmp (m : Fin 8) (a b : VSrc) (c : VCond) (t : CmpTy) (dl : Fin 8) : Statement (.vcmp m a b c t dl) := of_long rfl rfl (FmtV.word_range _ _)
theorem EncodedLength.vsel (v : Fin 16) (m : Fin 4) (a b : VSrc) (dl : Fin 8) : Statement (.vsel v m a b dl) := of_long rfl rfl (FmtV.word_range _ _)
theorem EncodedLength.vperm (v : Fin 16) (a b : VSrc) (dl : Fin 8) : Statement (.vperm v a b dl) := of_long rfl rfl (FmtV.word_range _ _)
theorem EncodedLength.vbcast (v : Fin 16) (a b : VSrc) (dl : Fin 8) : Statement (.vbcast v a b dl) := of_long rfl rfl (FmtV.word_range _ _)
theorem EncodedLength.vslide (v : Fin 16) (a b : VSrc) (dl : Fin 8) : Statement (.vslide v a b dl) := of_long rfl rfl (FmtV.word_range _ _)
theorem EncodedLength.viota (v : Fin 16) (a : VSrc) (dl : Fin 8) : Statement (.viota v a dl) := of_long rfl rfl (FmtV.word_range _ _)
theorem EncodedLength.vlut (v : Fin 16) (a : VSrc) (dl : Fin 8) : Statement (.vlut v a dl) := of_long rfl rfl (FmtV.word_range _ _)
theorem EncodedLength.vext (d : Fin 16) (a b : VSrc) (dl : Fin 8) : Statement (.vext d a b dl) := of_long rfl rfl (FmtV.word_range _ _)
theorem EncodedLength.vins (v : Fin 16) (a b : VSrc) : Statement (.vins v a b) := of_long rfl rfl (FmtV.word_range _ _)
theorem EncodedLength.vredAdd (v : Fin 16) (a : VSrc) (t : CmpTy) (dl : Fin 8) : Statement (.vredAdd v a t dl) := of_long rfl rfl (FmtV.word_range _ _)
theorem EncodedLength.vredMin (v : Fin 16) (a : VSrc) (t : CmpTy) (dl : Fin 8) : Statement (.vredMin v a t dl) := of_long rfl rfl (FmtV.word_range _ _)
theorem EncodedLength.vredMax (v : Fin 16) (a : VSrc) (t : CmpTy) (dl : Fin 8) : Statement (.vredMax v a t dl) := of_long rfl rfl (FmtV.word_range _ _)
theorem EncodedLength.vscanAdd (v : Fin 16) (a : VSrc) (t : CmpTy) (dl : Fin 8) : Statement (.vscanAdd v a t dl) := of_long rfl rfl (FmtV.word_range _ _)
theorem EncodedLength.vscanMin (v : Fin 16) (a : VSrc) (t : CmpTy) (dl : Fin 8) : Statement (.vscanMin v a t dl) := of_long rfl rfl (FmtV.word_range _ _)
theorem EncodedLength.vscanMax (v : Fin 16) (a : VSrc) (t : CmpTy) (dl : Fin 8) : Statement (.vscanMax v a t dl) := of_long rfl rfl (FmtV.word_range _ _)
theorem EncodedLength.vdot4 (v : Fin 16) (a b : VSrc) (t : DotTy) (dl : Fin 8) : Statement (.vdot4 v a b t dl) := of_long rfl rfl (FmtV.word_range _ _)
theorem EncodedLength.vcvt (v : Fin 16) (a : VSrc) (src dst : VFmt) (dl : Fin 8) : Statement (.vcvt v a src dst dl) := of_long rfl rfl (FmtV.word_range _ _)
theorem EncodedLength.mand (m a b : Fin 8) (dl : Fin 8) : Statement (.mand m a b dl) := of_long rfl rfl (FmtV.word_range _ _)
theorem EncodedLength.mor (m a b : Fin 8) (dl : Fin 8) : Statement (.mor m a b dl) := of_long rfl rfl (FmtV.word_range _ _)
theorem EncodedLength.mxor (m a b : Fin 8) (dl : Fin 8) : Statement (.mxor m a b dl) := of_long rfl rfl (FmtV.word_range _ _)
theorem EncodedLength.mnot (m a : Fin 8) (dl : Fin 8) : Statement (.mnot m a dl) := of_long rfl rfl (FmtV.word_range _ _)
theorem EncodedLength.mpop (d : Fin 16) (a : Fin 8) (dl : Fin 8) : Statement (.mpop d a dl) := of_long rfl rfl (FmtV.word_range _ _)
theorem EncodedLength.mfirst (d : Fin 16) (a : Fin 8) (dl : Fin 8) : Statement (.mfirst d a dl) := of_long rfl rfl (FmtV.word_range _ _)
theorem EncodedLength.mset (m : Fin 8) (a : VSrc) (dl : Fin 8) : Statement (.mset m a dl) := of_long rfl rfl (FmtV.word_range _ _)
theorem EncodedLength.cx (n : Fin 64) (v : Fin 16) (a b : VSrc) (dl : Fin 8) : Statement (.cx n v a b dl) := of_long rfl rfl (FmtV.word_range _ _)
theorem EncodedLength.cxload (n : Fin 64) (a : Fin 32) : Statement (.cxload n a) := of_long rfl rfl (FmtS.word_range _ _)
theorem EncodedLength.cxevict (n : Fin 64) : Statement (.cxevict n) := of_long rfl rfl (FmtS.word_range _ _)
theorem EncodedLength.cxqry (d : Fin 32) (n : Fin 64) : Statement (.cxqry d n) := of_long rfl rfl (FmtS.word_range _ _)
theorem EncodedLength.cxldr (a : Fin 32) : Statement (.cxldr a) := of_long rfl rfl (FmtS.word_range _ _)
theorem EncodedLength.mma (m : MSize) (nf : Fin 64) (t : Fin 8) (b : Fin 32) (p : Pair) (col mc : Bool) (dl : Fin 8) : Statement (.mma m nf t b p col mc dl) := of_long rfl rfl (FmtE.word_range _ _)
theorem EncodedLength.mmas (m : MSize) (nf : Fin 64) (t : Fin 8) (b : Fin 32) (col mc : Bool) (dl : Fin 8) : Statement (.mmas m nf t b col mc dl) := of_long rfl rfl (FmtE.word_range _ _)
theorem EncodedLength.tld (p : Port) (t : Fin 8) (a b : Fin 32) (dl : Fin 8) : Statement (.tld p t a b dl) := of_long rfl rfl (FmtT.word_range _ _)
theorem EncodedLength.tst (p : Port) (t : Fin 8) (a b : Fin 32) (dl : Fin 8) : Statement (.tst p t a b dl) := of_long rfl rfl (FmtT.word_range _ _)
theorem EncodedLength.tmov (p : Port) (t u : Fin 8) (dl : Fin 8) : Statement (.tmov p t u dl) := of_long rfl rfl (FmtT.word_range _ _)
theorem EncodedLength.accZero (a b : Fin 32) (dl : Fin 8) : Statement (.accZero a b dl) := of_long rfl rfl (FmtT.word_range _ _)
theorem EncodedLength.accLd (a b : Fin 32) (dl : Fin 8) : Statement (.accLd a b dl) := of_long rfl rfl (FmtT.word_range _ _)
theorem EncodedLength.accSt (a b : Fin 32) (dl : Fin 8) : Statement (.accSt a b dl) := of_long rfl rfl (FmtT.word_range _ _)
theorem EncodedLength.accTov (t : AccTy) (v : Fin 16) (a : Fin 32) (dl : Fin 8) : Statement (.accTov t v a dl) := of_long rfl rfl (FmtT.word_range _ _)
theorem EncodedLength.accAddv (t : AccTy) (a : Fin 32) (v : Fin 16) (dl : Fin 8) : Statement (.accAddv t a v dl) := of_long rfl rfl (FmtT.word_range _ _)
theorem EncodedLength.accMode (dst : AccMode) (a b : Fin 32) (dl : Fin 8) : Statement (.accMode dst a b dl) := of_long rfl rfl (FmtT.word_range _ _)
theorem EncodedLength.accRaw (d a : Fin 32) (dl : Fin 8) : Statement (.accRaw d a dl) := of_long rfl rfl (FmtT.word_range _ _)
theorem EncodedLength.accRawWr (a b : Fin 32) (dl : Fin 8) : Statement (.accRawWr a b dl) := of_long rfl rfl (FmtT.word_range _ _)
theorem EncodedLength.fork (q : ForkSel) : Statement (.fork q) := of_long rfl rfl (FmtS.word_range _ _)
theorem EncodedLength.ttEnq (d a : Fin 32) : Statement (.ttEnq d a) := of_long rfl rfl (FmtS.word_range _ _)
theorem EncodedLength.cpy (a b : Fin 32) : Statement (.cpy a b) := of_long rfl rfl (FmtS.word_range _ _)
theorem EncodedLength.cpy2d (a b : Fin 32) : Statement (.cpy2d a b) := of_long rfl rfl (FmtS.word_range _ _)
theorem EncodedLength.ccWait (i : Fin 16) (b : Fin 32) : Statement (.ccWait i b) := of_long rfl rfl (FmtS.word_range _ _)
theorem EncodedLength.ccRead (d : Fin 32) (i : Fin 16) : Statement (.ccRead d i) := of_long rfl rfl (FmtS.word_range _ _)
theorem EncodedLength.rlQry (d a : Fin 32) : Statement (.rlQry d a) := of_long rfl rfl (FmtS.word_range _ _)
theorem EncodedLength.subOpen (d a : Fin 32) : Statement (.subOpen d a) := of_long rfl rfl (FmtS.word_range _ _)
theorem EncodedLength.subClose (a : Fin 32) : Statement (.subClose a) := of_long rfl rfl (FmtS.word_range _ _)
theorem EncodedLength.slotTake (d a : Fin 32) : Statement (.slotTake d a) := of_long rfl rfl (FmtS.word_range _ _)
theorem EncodedLength.slotGive (a b : Fin 32) : Statement (.slotGive a b) := of_long rfl rfl (FmtS.word_range _ _)
theorem EncodedLength.taskNext (d : Fin 32) : Statement (.taskNext d) := of_long rfl rfl (FmtS.word_range _ _)
theorem EncodedLength.coverClaim (d a : Fin 32) : Statement (.coverClaim d a) := of_long rfl rfl (FmtS.word_range _ _)
theorem EncodedLength.coverDone (a b : Fin 32) : Statement (.coverDone a b) := of_long rfl rfl (FmtS.word_range _ _)
theorem EncodedLength.coverYield (a b : Fin 32) : Statement (.coverYield a b) := of_long rfl rfl (FmtS.word_range _ _)
theorem EncodedLength.hrd (d : Fin 32) (i : Fin 16) : Statement (.hrd d i) := of_long rfl rfl (FmtS.word_range _ _)
theorem EncodedLength.hwr (i : Fin 16) (a : Fin 32) : Statement (.hwr i a) := of_long rfl rfl (FmtS.word_range _ _)
theorem EncodedLength.hcommit (d : Fin 32) : Statement (.hcommit d) := of_long rfl rfl (FmtS.word_range _ _)
theorem EncodedLength.chSend (c : Fin 64) (a : Fin 32) : Statement (.chSend c a) := of_long rfl rfl (FmtS.word_range _ _)
theorem EncodedLength.chRecv (d : Fin 32) (c : Fin 64) : Statement (.chRecv d c) := of_long rfl rfl (FmtS.word_range _ _)
theorem EncodedLength.chProbe (d : Fin 32) (c : Fin 64) : Statement (.chProbe d c) := of_long rfl rfl (FmtS.word_range _ _)
theorem EncodedLength.rsend (a b : Fin 32) : Statement (.rsend a b) := of_long rfl rfl (FmtS.word_range _ _)
theorem EncodedLength.xwin (w : Fin 64) (a b : Fin 32) : Statement (.xwin w a b) := of_long rfl rfl (FmtS.word_range _ _)
theorem EncodedLength.qLaunch (d a b : Fin 32) : Statement (.qLaunch d a b) := of_long rfl rfl (FmtS.word_range _ _)
theorem EncodedLength.trap (n : Fin 64) : Statement (.trap n) := of_long rfl rfl (FmtS.word_range _ _)
theorem EncodedLength.pwrHint (n : Fin 64) : Statement (.pwrHint n) := of_long rfl rfl (FmtS.word_range _ _)
theorem EncodedLength.jnlRd (d : Fin 32) (j : Fin 16) : Statement (.jnlRd d j) := of_long rfl rfl (FmtS.word_range _ _)
theorem EncodedLength.jnlRetry (j : Fin 16) : Statement (.jnlRetry j) := of_long rfl rfl (FmtS.word_range _ _)
theorem EncodedLength.jnlDrop (j : Fin 16) : Statement (.jnlDrop j) := of_long rfl rfl (FmtS.word_range _ _)
theorem EncodedLength.tlbInv (a b : Fin 32) : Statement (.tlbInv a b) := of_long rfl rfl (FmtS.word_range _ _)
theorem EncodedLength.tlbShoot (a b : Fin 32) : Statement (.tlbShoot a b) := of_long rfl rfl (FmtS.word_range _ _)
theorem EncodedLength.csrr (d : Fin 32) (c : BitVec 12) : Statement (.csrr d c) := of_long rfl rfl (FmtC.word_range _ _)
theorem EncodedLength.csrw (d a : Fin 32) (c : BitVec 12) : Statement (.csrw d a c) := of_long rfl rfl (FmtC.word_range _ _)
theorem EncodedLength.csrset (d a : Fin 32) (c : BitVec 12) : Statement (.csrset d a c) := of_long rfl rfl (FmtC.word_range _ _)
theorem EncodedLength.csrclr (d a : Fin 32) (c : BitVec 12) : Statement (.csrclr d a c) := of_long rfl rfl (FmtC.word_range _ _)
theorem EncodedLength.dispatch (t : ThreadId) (tag : BitVec 7) : Statement (.dispatch t tag) := of_none rfl
theorem EncodedLength.completionInject (t : ThreadId) (tag : BitVec 7) : Statement (.completionInject t tag) := of_none rfl
theorem EncodedLength.completionAccept (t : ThreadId) (tag : BitVec 7) : Statement (.completionAccept t tag) := of_none rfl
theorem EncodedLength.trapDelivery (t : ThreadId) : Statement (.trapDelivery t) := of_none rfl
theorem EncodedLength.kill (t : ThreadId) (boundary : BitVec 7) : Statement (.kill t boundary) := of_none rfl
theorem EncodedLength.storePerformed (t : ThreadId) : Statement (.storePerformed t) := of_none rfl
theorem EncodedLength.tagWaiterWake (t : ThreadId) : Statement (.tagWaiterWake t) := of_none rfl
theorem EncodedLength.pageWaitPark (t : ThreadId) : Statement (.pageWaitPark t) := of_none rfl
theorem EncodedLength.faultReply (t : ThreadId) : Statement (.faultReply t) := of_none rfl
theorem EncodedLength.postedStoreAck (t : ThreadId) (j : Fin 16) : Statement (.postedStoreAck t j) := of_none rfl
theorem EncodedLength.postedStoreRefusal (t : ThreadId) (j : Fin 16) : Statement (.postedStoreRefusal t j) := of_none rfl
theorem EncodedLength.eventLineService (line : Nat) : Statement (.eventLineService line) := of_none rfl
theorem EncodedLength.chainedArrival (parent child : Nat) (drop : Bool) : Statement (.chainedArrival parent child drop) := of_none rfl
theorem EncodedLength.chainCompletionMessage (child : Nat) : Statement (.chainCompletionMessage child) := of_none rfl
theorem EncodedLength.eventOpReturn (t : ThreadId) : Statement (.eventOpReturn t) := of_none rfl
theorem EncodedLength.sequencerStep (q : SeqId) : Statement (.sequencerStep q) := of_none rfl
theorem EncodedLength.rangeLockReissue (t : ThreadId) : Statement (.rangeLockReissue t) := of_none rfl
theorem EncodedLength.taskRecordDispatch (r : Fin 64) : Statement (.taskRecordDispatch r) := of_none rfl
theorem EncodedLength.slotFillStart (e : Fin 8) (k : Fin 64) : Statement (.slotFillStart e k) := of_none rfl
theorem EncodedLength.slotFilled (e : Fin 8) (k : Fin 64) : Statement (.slotFilled e k) := of_none rfl
theorem EncodedLength.slotWriteoutDone (e : Fin 8) (k : Fin 64) : Statement (.slotWriteoutDone e k) := of_none rfl
theorem EncodedLength.exchangeTransferBegin (i : Nat) : Statement (.exchangeTransferBegin i) := of_none rfl
theorem EncodedLength.routerPacket (x y : Fin 32) (port : Fin 5) (p : Packet) : Statement (.routerPacket x y port p) := of_none rfl
theorem EncodedLength.channelDelivery (c : Fin 64) (payload : BitVec 64) : Statement (.channelDelivery c payload) := of_none rfl
theorem EncodedLength.shootdownBlocked (i : Fin 4) : Statement (.shootdownBlocked i) := of_none rfl
theorem EncodedLength.shootdownConfirmed (i : Fin 4) : Statement (.shootdownConfirmed i) := of_none rfl
theorem EncodedLength.stopPoint (t : ThreadId) : Statement (.stopPoint t) := of_none rfl
theorem EncodedLength.queueLaunchPacket (c : Fin 4096) (q : Fin 64) : Statement (.queueLaunchPacket c q) := of_none rfl
theorem EncodedLength.queueLoadPacket (c : Fin 4096) (q : Fin 64) : Statement (.queueLoadPacket c q) := of_none rfl
theorem EncodedLength.queueUnloadPacket (c : Fin 4096) (q : Fin 64) : Statement (.queueUnloadPacket c q) := of_none rfl
theorem EncodedLength.queueWaitPacket (c : Fin 4096) (q : Fin 64) : Statement (.queueWaitPacket c q) := of_none rfl
theorem EncodedLength.waitPacketEnd (c : Fin 4096) (q : Fin 64) : Statement (.waitPacketEnd c q) := of_none rfl
theorem EncodedLength.queueFillPacket (c : Fin 4096) (q : Fin 64) : Statement (.queueFillPacket c q) := of_none rfl
theorem EncodedLength.queueBarrierPacket (c : Fin 4096) (q : Fin 64) : Statement (.queueBarrierPacket c q) := of_none rfl
theorem EncodedLength.launchStart (id : Nat) : Statement (.launchStart id) := of_none rfl
theorem EncodedLength.launchEnd (id : Nat) : Statement (.launchEnd id) := of_none rfl
theorem EncodedLength.linkAck (t : ThreadId) : Statement (.linkAck t) := of_none rfl
theorem EncodedLength.class0PreemptRequest (c : Fin 4096) : Statement (.class0PreemptRequest c) := of_none rfl
theorem EncodedLength.threadStop (t : ThreadId) : Statement (.threadStop t) := of_none rfl
theorem EncodedLength.saveComplete (c : Fin 4096) : Statement (.saveComplete c) := of_none rfl
theorem EncodedLength.clockRestart (cluster : Fin 256) : Statement (.clockRestart cluster) := of_none rfl
theorem EncodedLength.join : Statement .join := of_long rfl rfl (FmtA.word_range _ _)
theorem EncodedLength.nop : Statement .nop := of_long rfl rfl (FmtA.word_range _ _)
theorem EncodedLength.exit : Statement .exit := of_long rfl rfl (FmtA.word_range _ _)
theorem EncodedLength.cNop : Statement .cNop := of_short rfl rfl (by omega)
theorem EncodedLength.rdv : Statement .rdv := of_long rfl rfl (FmtS.word_range _ _)
theorem EncodedLength.sstep : Statement .sstep := of_long rfl rfl (FmtS.word_range _ _)
theorem EncodedLength.hintSucc : Statement .hintSucc := of_long rfl rfl (FmtS.word_range _ _)
theorem EncodedLength.waitpred : Statement .waitpred := of_long rfl rfl (FmtS.word_range _ _)
theorem EncodedLength.tret : Statement .tret := of_long rfl rfl (FmtS.word_range _ _)
theorem EncodedLength.yield : Statement .yield := of_long rfl rfl (FmtS.word_range _ _)
theorem EncodedLength.evArrive (d b : Fin 32) (off : BitVec 11) : Statement (.evArrive d b off) := of_long rfl rfl (FmtM.word_range _ _)
theorem EncodedLength.evDrop (d b : Fin 32) (off : BitVec 11) : Statement (.evDrop d b off) := of_long rfl rfl (FmtM.word_range _ _)
theorem EncodedLength.evWait (d b : Fin 32) (off : BitVec 11) : Statement (.evWait d b off) := of_long rfl rfl (FmtM.word_range _ _)
theorem EncodedLength.evSync (d b : Fin 32) (off : BitVec 11) : Statement (.evSync d b off) := of_long rfl rfl (FmtM.word_range _ _)
theorem EncodedLength.evLock (d b : Fin 32) (off : BitVec 11) : Statement (.evLock d b off) := of_long rfl rfl (FmtM.word_range _ _)
theorem EncodedLength.evUnlock (b : Fin 32) (off : BitVec 11) : Statement (.evUnlock b off) := of_long rfl rfl (FmtM.word_range _ _)
theorem EncodedLength.evSignal (b : Fin 32) (off : BitVec 11) : Statement (.evSignal b off) := of_long rfl rfl (FmtM.word_range _ _)
theorem EncodedLength.evClear (b : Fin 32) (off : BitVec 11) : Statement (.evClear b off) := of_long rfl rfl (FmtM.word_range _ _)
theorem EncodedLength.evInit (d b : Fin 32) (off : BitVec 11) : Statement (.evInit d b off) := of_long rfl rfl (FmtM.word_range _ _)
theorem EncodedLength.issue : Statement .issue := of_none rfl
theorem EncodedLength.commit : Statement .commit := of_none rfl
theorem EncodedLength.outcomeRecordArrival (taken redirect : Bool) : Statement (.outcomeRecordArrival taken redirect) := of_none rfl
theorem EncodedLength.performMarkArrival : Statement .performMarkArrival := of_none rfl
theorem EncodedLength.parityError : Statement .parityError := of_none rfl
theorem EncodedLength.instructionFetch (t : ThreadId) : Statement (.instructionFetch t) := of_none rfl
theorem EncodedLength.l1Eviction (line : Nat) : Statement (.l1Eviction line) := of_none rfl
theorem EncodedLength.matrixCommandStart : Statement .matrixCommandStart := of_none rfl
theorem EncodedLength.matrixCommandComplete : Statement .matrixCommandComplete := of_none rfl
theorem EncodedLength.copyCommandStart : Statement .copyCommandStart := of_none rfl
theorem EncodedLength.copyCommandComplete : Statement .copyCommandComplete := of_none rfl
theorem EncodedLength.datapathErrorReplay (r : Fin 64) : Statement (.datapathErrorReplay r) := of_none rfl
theorem EncodedLength.taskRequestReserve : Statement .taskRequestReserve := of_none rfl
theorem EncodedLength.barrierTreeComplete : Statement .barrierTreeComplete := of_none rfl
theorem EncodedLength.exchangeStepEnd : Statement .exchangeStepEnd := of_none rfl
theorem EncodedLength.coreWakeTlbFlush : Statement .coreWakeTlbFlush := of_none rfl
theorem EncodedLength.handlerEntry : Statement .handlerEntry := of_none rfl
theorem EncodedLength.handlerFault (cause : Fin 32) : Statement (.handlerFault cause) := of_none rfl
theorem EncodedLength.linkTaggedWrite (pa : Nat) (data : BitVec 64) : Statement (.linkTaggedWrite pa data) := of_none rfl
theorem EncodedLength.linkAccess (from_ : Link) (write : Bool) (pa : Nat) (data : List Byte) : Statement (.linkAccess from_ write pa data) := of_none rfl
theorem EncodedLength.peerAmo (op : AmoOp) (wide : Bool) (pa : Nat) (v cmp : BitVec 64) : Statement (.peerAmo op wide pa v cmp) := of_none rfl
theorem EncodedLength.saveWatchdogExpiry (c : Fin 4096) : Statement (.saveWatchdogExpiry c) := of_none rfl
theorem EncodedLength.attach : Statement .attach := of_none rfl
theorem EncodedLength.run : Statement .run := of_none rfl
theorem EncodedLength.preempt : Statement .preempt := of_none rfl
theorem EncodedLength.resume : Statement .resume := of_none rfl
theorem EncodedLength.detach : Statement .detach := of_none rfl
theorem EncodedLength.warm : Statement .warm := of_none rfl
theorem EncodedLength.cold : Statement .cold := of_none rfl
theorem EncodedLength.updOpen : Statement .updOpen := of_none rfl
theorem EncodedLength.updWrite : Statement .updWrite := of_none rfl
theorem EncodedLength.updActivate : Statement .updActivate := of_none rfl
theorem EncodedLength.svnCommit : Statement .svnCommit := of_none rfl
theorem EncodedLength.logRead : Statement .logRead := of_none rfl
theorem EncodedLength.repairList : Statement .repairList := of_none rfl
theorem EncodedLength.measExtend : Statement .measExtend := of_none rfl
theorem EncodedLength.mgCtxbaseWrite (v : BitVec 64) : Statement (.mgCtxbaseWrite v) := of_none rfl
theorem EncodedLength.rsvLendWrite (lend : Bool) (k : Fin 4) (v : BitVec 64) : Statement (.rsvLendWrite lend k v) := of_none rfl
theorem EncodedLength.shareWrite (v : BitVec 64) : Statement (.shareWrite v) := of_none rfl
theorem EncodedLength.rampWrite (v : BitVec 64) : Statement (.rampWrite v) := of_none rfl
theorem EncodedLength.acctClr (v : BitVec 64) : Statement (.acctClr v) := of_none rfl
theorem EncodedLength.registerWrite (off : Nat) (v : BitVec 64) : Statement (.registerWrite off v) := of_none rfl
theorem EncodedLength.getVersion : Statement .getVersion := of_none rfl
theorem EncodedLength.getCapabilities : Statement .getCapabilities := of_none rfl
theorem EncodedLength.negotiateAlgorithms (sha3 mldsa : Bool) : Statement (.negotiateAlgorithms sha3 mldsa) := of_none rfl
theorem EncodedLength.getCertificate (slot off len : Nat) : Statement (.getCertificate slot off len) := of_none rfl
theorem EncodedLength.challenge (nonce : List Byte) : Statement (.challenge nonce) := of_none rfl
theorem EncodedLength.getMeasurements (index : Nat) : Statement (.getMeasurements index) := of_none rfl
theorem EncodedLength.chunkGet (n : Nat) : Statement (.chunkGet n) := of_none rfl
theorem EncodedLength.powerOn : Statement .powerOn := of_none rfl
theorem EncodedLength.kararlinkHotReset : Statement .kararlinkHotReset := of_none rfl
theorem EncodedLength.startStepComplete : Statement .startStepComplete := of_none rfl
theorem EncodedLength.startStepTimeout : Statement .startStepTimeout := of_none rfl
theorem EncodedLength.standbyPowerLoss : Statement .standbyPowerLoss := of_none rfl
theorem EncodedLength.correctedError (site : ErrorSite) : Statement (.correctedError site) := of_none rfl
theorem EncodedLength.uncorrectableError (site : ErrorSite) : Statement (.uncorrectableError site) := of_none rfl
theorem EncodedLength.codeLineError (line : Nat) : Statement (.codeLineError line) := of_none rfl
theorem EncodedLength.patrolScrub (pa : Nat) : Statement (.patrolScrub pa) := of_none rfl
theorem EncodedLength.railChange (cluster : Fin 256) (high : Bool) : Statement (.railChange cluster high) := of_none rfl
theorem EncodedLength.droopDetect (cluster : Fin 256) : Statement (.droopDetect cluster) := of_none rfl
theorem EncodedLength.droopPass (cluster : Fin 256) : Statement (.droopPass cluster) := of_none rfl
theorem EncodedLength.rampMicrosecond (cluster : Fin 256) : Statement (.rampMicrosecond cluster) := of_none rfl
theorem EncodedLength.energyAttribution (cluster : List (Nat × Nat)) (shared : Nat) (traffic : List (Nat × Nat)) : Statement (.energyAttribution cluster shared traffic) := of_none rfl
theorem EncodedLength.leaseReceipt (seq : BitVec 32) (watts ms : Nat) : Statement (.leaseReceipt seq watts ms) := of_none rfl
theorem EncodedLength.leaseExpiry : Statement .leaseExpiry := of_none rfl
theorem EncodedLength.powerCapControl (above : Bool) : Statement (.powerCapControl above) := of_none rfl
theorem EncodedLength.stackDerateEnter (s : Fin 8) : Statement (.stackDerateEnter s) := of_none rfl
theorem EncodedLength.stackDerateExit (s : Fin 8) : Statement (.stackDerateExit s) := of_none rfl
theorem EncodedLength.linkLevelRetry : Statement .linkLevelRetry := of_none rfl
theorem EncodedLength.linkDown (kararlink : Bool) (link : Nat) : Statement (.linkDown kararlink link) := of_none rfl

end Sys2Proof.Laws
end

