-- ==== Sys2Proof/Laws/Units.lean ====
section
/-! SUPPORT. What the shared operations of the units leave alone: event lines, range locks of other cores, saves, halts and
rails. -/

set_option Elab.async false

namespace Sys2Proof.Machine

variable (s : State)

theorem State.sameMem_setLine (k : Nat) (l : ELine) : State.SameMem s (s.setLine k l) := ⟨rfl, rfl, rfl⟩

theorem State.line_setLine (h : swf ELine.fresh 0 s.lines = true) (k j : Nat) (l : ELine) :
    (s.setLine k l).line j = if j = k then l else s.line j := by
  simp only [State.line, State.setLine, sget_sput h]

/-- What a halted or failed core has under way is dropped; memory stays. -/
theorem State.sameMem_stopUnits : State.SameMem s s.stopUnits := ⟨rfl, rfl, rfl⟩

/-- An operation of another core on an event line touches that line alone. -/
theorem takeLine_frame (k : Nat) (a : EAgent) (op : LineOp) :
    ∃ l, takeLine k a op s = s ∨ takeLine k a op s = s.setLine k l := by
  unfold takeLine
  split
  · exact ⟨s.line k, .inl rfl⟩
  · split <;> exact ⟨_, .inr rfl⟩

/-- A lock of another core's command changes nothing but the list of locks. -/
theorem takeLock_frame (k : Lock) : ∃ l, takeLock k s = { s with core := { s.core with locks := l } } := by
  unfold takeLock
  split
  · exact ⟨_, rfl⟩
  · exact ⟨s.core.locks, rfl⟩

/-- The records of a save are bytes of memory: tags and poison stay, and the canonical forms with them. -/
theorem State.Tidy.putSave {s : State} (h : s.Tidy) (c : Nat) : (Machine.putSave c s).Tidy :=
  State.Tidy.setBytes (s := { s with freeCtr := s.freeCtr + s.saveBytes c }) ⟨h.mem, h.tags, h.poison⟩ _ _

theorem State.Tidy.putWake {s : State} (h : s.Tidy) (k : Nat) (t : Thread) : (Machine.putWake k t s).Tidy :=
  State.Tidy.foldl _ (fun _ ht p => ht.setNum (k + 8 * p.2) 8 p.1) _ h

/-- A rail change is the power block's own. -/
theorem execRailChange_frame (k : Fin 256) (up : Bool) : ∃ p, execRailChange k up s = .next { s with power := p } := by
  unfold execRailChange
  simp only
  repeat' split
  all_goals exact ⟨_, rfl⟩

end Sys2Proof.Machine
end

