-- ==== Sys2Proof/Tests/Slice0.lean ====
section
/-! SUPPORT. Tests of the model, each a named theorem. Expected values come from the spec: its worked words and examples, its
encoding tables (every encoding is written out bit by bit from chapter 04), or hand calculation from its rules. The
theorems `witness_…` show states and operands that meet the hypotheses of the obligation they name. -/

set_option Elab.async false

namespace Sys2Proof.Tests

open Sys2Proof Sys2Proof.Machine Sys2Proof.Spec

/-! ## Small states -/

/-- What an instruction leaves satisfies a check. -/
def after (i : Instr) (s : State) (p : State → Bool) : Bool :=
  match exec i s with
  | .next t => p t
  | _ => false

/-- A started device whose primary thread runs at address 0x1000. -/
def run0 : State :=
  { State.reset with
    pri := { Thread.reset with run := .running, pc := 0x1000 }
    mgmt := { Mgmt.reset with starting := false, last := 11, ready := true } }

/-- Scalar registers set by number. -/
def withS (l : List (Nat × Word)) (s : State) : State := l.foldl (fun u p => u.setReg (Fin.ofNat 32 p.1) p.2) s

/-- Extension registers set by number. -/
def withX (l : List (Nat × Word)) (s : State) : State := l.foldl (fun u p => u.setXreg (Fin.ofNat 8 p.1) p.2) s

/-- A vector register set, by its first lanes. -/
def withV (r : Nat) (l : List Lane) (s : State) : State := s.putV (Fin.ofNat 16 r) (lanesOf l)

/-- The key of a byte of the scratchpad of context 0's core at the origin. -/
def sp (off : Nat) : Nat := 2 ^ 62 + off

/-! ## Well-formedness: an ill-formed term for each check -/

theorem test_wf_natural_literals :
    [Instr.vaddI 1 (.lit 15) (.v 2) .n32 0, .vaddI 1 (.v 2) (.lit 8) .n32 0, .vsubI 1 (.lit 15) (.v 2) .n32 0,
      .vmulI 1 (.lit 15) (.v 2) .n32 0, .vminI 1 (.lit 15) (.v 2) .n32 0, .vmaxI 1 (.lit 15) (.v 2) .n32 0,
      .vclampI 1 (.lit 15) (.v 2) .n32 0, .vcmp 1 (.v 1) (.lit 9) .lt .n32 0, .vredAdd 1 (.lit 15) .n32 0,
      .vredMin 1 (.lit 15) .n32 0, .vredMax 1 (.lit 15) .n32 0, .vscanAdd 1 (.lit 15) .n32 0,
      .vscanMin 1 (.lit 15) .n32 0, .vscanMax 1 (.lit 15) .n32 0, .vdot4 1 (.v 1) (.lit 15) .n8 0,
      .vcvt 1 (.lit 15) .n32 .f32 0, .vcvt 1 (.lit 15) .n8 .f32 0].map Instr.wf = List.replicate 17 false := by decide

theorem test_wf_vectors :
    [Instr.vcmp 1 (.v 1) (.v 2) .un .i32 0, .vcmp 1 (.v 1) (.v 2) .un .n32 0, .vcvt 1 (.v 1) .f32 .f32 0,
      .vcvt 1 (.lit 1) .lg6 .f32 0, .mset 1 (.v 1) 0, .vstxAdd 1 .raw 2 3].map Instr.wf = List.replicate 6 false := by decide

theorem test_wf_scalar :
    [Instr.loop 0 0, .cMov 0 1, .cMov 1 0, .cAdd 0 1, .cSub 1 0, .cAnd 0 0, .cAddi 0 1, .cAddi 1 16, .cAddi 1 111, .cLi 0 1,
      .cShli 1 0, .cShli 1 16, .cShri 0 1, .cShri 1 127, .cLdw 0 1 0, .cLdw 1 0 0, .cStw 1 0 0, .cBeqz 0 1, .cBnez 0 1,
      .cJr 0].map Instr.wf = List.replicate 20 false := by decide

theorem test_wf_others :
    [Instr.amoW 1 2 3 .inc .rlx .core, .amoD 1 2 3 .inc .rlx .core, .amoD 1 2 3 .fadd .rlx .core, .fence .rlx .dev,
      .hwr 14 1, .hwr 15 1, .pwrHint 3, .csrr 1 0xFFF, .csrw 1 1 0xFFF, .csrset 1 1 0xFFF, .csrclr 1 1 0xFFF].map
      Instr.wf = List.replicate 11 false := by decide

theorem test_wf_accepts :
    [Instr.vaddI 1 (.lit 7) (.v 2) .n32 0, .vaddI 1 (.lit 15) (.v 2) .i32 0, .vcmp 1 (.v 1) (.v 2) .un .f32 0,
      .vcvt 1 (.v 1) .lg6 .f32 0, .mset 1 (.lit 15) 0, .vstxAdd 1 .i32 2 3, .loop 1 0, .cAddi 1 15, .cAddi 1 112, .cShli 1 1,
      .cShli 1 15, .amoW 1 2 0 .inc .rlx .core, .amoW 1 2 3 .fadd .rlx .core, .fence .acq .core, .hwr 13 1, .pwrHint 2,
      .csrr 1 0x0B0].map Instr.wf = List.replicate 17 true := by decide

/-- The decoder refuses the words that the layouts would give to ill-formed terms. -/
theorem test_wf_not_decoded :
    decodeTableWord 32 0b11_100000_0001_11_1111_00_0010_000_01_000 = none ∧
    decodeTableWord 32 0b11_001000_110_00000_00000_0_0000000000 = none ∧
    decodeTableWord 32 0b11_110010_00000_00001_00000_00_1110_110 = none ∧
    decodeTableWord 32 0b11_100111_0010_00_0001_00_0010_010_00_001 = none := by decide

/-! ## Decoding

The words are written out from the layouts of R91 to R107 with the function codes of R100, R103, R104 and R108. -/

theorem test_decode_alu_1 :
    decodeTableWord 32 0b11_000000_11100_01_00001_10_00001_000_1_0 = some (.add true 28 (.s 1) (.k 1)) ∧
    decodeTableWord 32 0b11_000000_10010_11_00001_01_10001_001_1_0 = some (.sub true 18 (.lit 1) (.s 17)) ∧
    decodeTableWord 32 0b11_000000_00100_10_01111_11_11010_010_0_0 = some (.and false 4 (.k 15) (.lit 26)) ∧
    decodeTableWord 32 0b11_000000_01101_01_01101_10_11110_011_1_0 = some (.or true 13 (.s 13) (.k 30)) ∧
    decodeTableWord 32 0b11_000000_11100_11_10101_01_00001_100_1_0 = some (.xor true 28 (.lit 21) (.s 1)) ∧
    decodeTableWord 32 0b11_000000_10101_10_01111_11_00110_101_0_0 = some (.andn false 21 (.k 15) (.lit 6)) ∧
    decodeTableWord 32 0b11_000000_11110_01_01011_10_00011_110_1_0 = some (.shl true 30 (.s 11) (.k 3)) ∧
    decodeTableWord 32 0b11_000000_01001_11_11100_01_11110_111_1_0 = some (.shr true 9 (.lit 28) (.s 30)) ∧
    decodeTableWord 32 0b11_000001_00010_10_00101_11_11101_000_0_0 = some (.sar false 2 (.k 5) (.lit 29)) ∧
    decodeTableWord 32 0b11_000001_00011_01_10101_10_11111_001_1_0 = some (.min true 3 (.s 21) (.k 31)) ∧
    decodeTableWord 32 0b11_000001_01100_11_01001_01_11111_010_1_0 = some (.max true 12 (.lit 9) (.s 31)) ∧
    decodeTableWord 32 0b11_000001_11101_10_11111_11_00010_011_0_0 = some (.minu false 29 (.k 31) (.lit 2)) := by decide

theorem test_decode_alu_2 :
    decodeTableWord 32 0b11_000001_10000_01_01011_10_01100_100_1_0 = some (.maxu true 16 (.s 11) (.k 12)) ∧
    decodeTableWord 32 0b11_000001_01001_11_01010_01_10010_101_1_0 = some (.slt true 9 (.lit 10) (.s 18)) ∧
    decodeTableWord 32 0b11_000001_11101_10_01011_11_10001_110_0_0 = some (.sltu false 29 (.k 11) (.lit 17)) ∧
    decodeTableWord 32 0b11_000001_01100_01_11111_10_11110_111_1_0 = some (.seq true 12 (.s 31) (.k 30)) := by decide

theorem test_decode_bits_and_products_1 :
    decodeTableWord 32 0b11_000010_00101_11_11100_0000000000_1_0 = some (.clz true 5 (.lit 28)) ∧
    decodeTableWord 32 0b11_000010_11110_01_10111_0000000001_0_0 = some (.ctz false 30 (.s 23)) ∧
    decodeTableWord 32 0b11_000010_00100_10_10100_0000000010_1_0 = some (.popc true 4 (.k 20)) ∧
    decodeTableWord 32 0b11_000010_00110_11_11110_01_10111_011_1_0 = some (.sext true 6 (.lit 30) (.s 23)) ∧
    decodeTableWord 32 0b11_000010_01011_10_10010_11_01001_100_0_0 = some (.zext false 11 (.k 18) (.lit 9)) ∧
    decodeTableWord 32 0b11_000010_01100_01_10111_10_00111_101_1_0 = some (.sel true 12 (.s 23) (.k 7)) ∧
    decodeTableWord 32 0b11_000010_01101_11_11111_000000011000 = some (.mov 13 (.lit 31)) ∧
    decodeTableWord 32 0b11_000011_10011_01_10010_10_01001_000_1_0 = some (.mul true 19 (.s 18) (.k 9)) ∧
    decodeTableWord 32 0b11_000011_10010_11_01111_01_10101_001_0_0 = some (.mulh false 18 (.lit 15) (.s 21)) ∧
    decodeTableWord 32 0b11_000011_10100_10_01110_11_11010_010_1_0 = some (.mulhu true 20 (.k 14) (.lit 26)) ∧
    decodeTableWord 32 0b11_000011_01000_01_10111_10_11101_011_1_0 = some (.div true 8 (.s 23) (.k 29)) ∧
    decodeTableWord 32 0b11_000011_00110_11_01101_01_10011_100_0_0 = some (.divu false 6 (.lit 13) (.s 19)) := by decide

theorem test_decode_bits_and_products_2 :
    decodeTableWord 32 0b11_000011_10010_10_10111_11_11110_101_1_0 = some (.rem true 18 (.k 23) (.lit 30)) ∧
    decodeTableWord 32 0b11_000011_10011_01_11101_10_00010_110_1_0 = some (.remu true 19 (.s 29) (.k 2)) := by decide

theorem test_decode_constants :
    decodeTableWord 32 0b11_000100_01011_0100000101100101_000 = some (.li 11 16741) ∧
    decodeTableWord 32 0b11_000100_00_111_0001100000010001_001 = some (.lix 7 6161) ∧
    decodeTableWord 32 0b11_000100_00_101_0000100110010111_010 = some (.lxh 5 2455) ∧
    decodeTableWord 32 0b11_000101_00100_0000_111_000000000000 = some (.movxFromX 4 7) ∧
    decodeTableWord 32 0b11_000101_00_101_11_10000_000000000100 = some (.movxToX 5 (.lit 16)) ∧
    decodeTableWord 32 0b11_000101_01100_01_11001_10_01011_01000 = some (.saddr 12 (.s 25) (.k 11)) ∧
    decodeTableWord 32 0b11_000110_10001_11010_00001101011_0_01 = some (.lea 17 26 107 1) := by decide

theorem test_decode_control :
    decodeTableWord 32 0b11_001000_000_01011_11001_0_1001100101 = some (.b .eq 11 25 false 613) ∧
    decodeTableWord 32 0b11_001000_110_11101_000000_0011110111 = some (.loop 29 247) ∧
    decodeTableWord 32 0b11_001001_001_11011_11010_1_0110100110 = some (.bsplit .ne 27 26 true 422) ∧
    decodeTableWord 32 0b11_001010_100101110001100111111000 = some (.j 9902584) ∧
    decodeTableWord 32 0b11_001011_111000010011100001100010 = some (.jal 14760034) ∧
    decodeTableWord 32 0b11_001100_01111_01_11001_000000000000 = some (.jr 15 25) ∧
    decodeTableWord 32 0b11_001100_000000000000000000000100 = some .join ∧
    decodeTableWord 32 0b11_001100_000000000000000000001000 = some .nop ∧
    decodeTableWord 32 0b11_001100_000000000000000000001100 = some .exit := by decide

theorem test_decode_compact_1 :
    decodeTableWord 16 0b00001_1101_0111_000 = some (.cMov 13 7) ∧
    decodeTableWord 16 0b00010_1101_1100_000 = some (.cAdd 13 12) ∧
    decodeTableWord 16 0b00011_0001_1100_000 = some (.cSub 1 12) ∧
    decodeTableWord 16 0b00100_1010_0111_000 = some (.cAnd 10 7) ∧
    decodeTableWord 16 0b00101_1011_1110111 = some (.cAddi 11 119) ∧
    decodeTableWord 16 0b00110_0001_1111000 = some (.cLi 1 120) ∧
    decodeTableWord 16 0b00111_0110_0001011 = some (.cShli 6 11) ∧
    decodeTableWord 16 0b01000_1000_0001011 = some (.cShri 8 11) ∧
    decodeTableWord 16 0b01001_1111_1110_100 = some (.cLdw 15 14 4) ∧
    decodeTableWord 16 0b01010_1111_0100_110 = some (.cStw 15 4 6) ∧
    decodeTableWord 16 0b01011_1100_0000111 = some (.cBeqz 12 7) ∧
    decodeTableWord 16 0b01100_1000_0101100 = some (.cBnez 8 44) := by decide

theorem test_decode_compact_2 :
    decodeTableWord 16 0b01101_10100100100 = some (.cJ 1316) ∧
    decodeTableWord 16 0b01110_1100_0000000 = some (.cJr 12) ∧
    decodeTableWord 16 0b01111_00000000000 = some .cNop := by decide

theorem test_decode_loads_and_stores_1 :
    decodeTableWord 32 0b11_010000_11100_11101_01110001000_000 = some (.ld 28 29 904 .b) ∧
    decodeTableWord 32 0b11_010001_10100_10101_00001_01_0000_001 = some (.ldIndexed 20 21 1 1 .bu) ∧
    decodeTableWord 32 0b11_010010_01010_11111_00100011110_01_0 = some (.st 10 31 286 .h) ∧
    decodeTableWord 32 0b11_010011_11000_01100_11000_10_0000_10_0 = some (.stIndexed 24 12 24 2 .w) ∧
    decodeTableWord 32 0b11_010100_00011_01111_01001111111_000 = some (.ldr 3 15 639) ∧
    decodeTableWord 32 0b11_010100_10000_01011_11000001110_001 = some (.stp 16 11 1550) ∧
    decodeTableWord 32 0b11_010100_0000_1_00001_00111000111_010 = some (.pref true 1 455) ∧
    decodeTableWord 32 0b11_010100_11101_00100_10011001101_011 = some (.kld 29 4 1229) ∧
    decodeTableWord 32 0b11_010000_11010_10001_01111001100_110 = some (.ld 26 17 972 .d) ∧
    decodeTableWord 32 0b11_010000_11000_01111_10011101101_110 = some (.ld 24 15 1261 .d) ∧
    decodeTableWord 32 0b11_010000_10000_10110_10011011000_110 = some (.ld 16 22 1240 .d) ∧
    decodeTableWord 32 0b11_010000_11111_00101_00101111000_110 = some (.ld 31 5 376 .d) := by decide

theorem test_decode_loads_and_stores_2 :
    decodeTableWord 32 0b11_010000_11110_01100_10100001011_110 = some (.ld 30 12 1291 .d) ∧
    decodeTableWord 32 0b11_010010_00000_11110_00101000011_110 = some (.st 0 30 323 .d) ∧
    decodeTableWord 32 0b11_010010_00000_00010_00100101101_110 = some (.st 0 2 301 .d) ∧
    decodeTableWord 32 0b11_010010_00000_01101_11011000011_110 = some (.st 0 13 1731 .d) ∧
    decodeTableWord 32 0b11_010010_00101_11100_11000011111_110 = some (.st 5 28 1567 .d) := by decide

theorem test_decode_tags :
    decodeTableWord 32 0b11_010101_10011_01010_01001011111_000 = some (.ldf 19 10 607) ∧
    decodeTableWord 32 0b11_010101_01011_10100_10101100001_001 = some (.ldfe 11 20 1377) ∧
    decodeTableWord 32 0b11_010101_10011_01001_00101001010_010 = some (.stf 19 9 330) ∧
    decodeTableWord 32 0b11_010101_01101_01111_10011100110_011 = some (.stef 13 15 1254) ∧
    decodeTableWord 32 0b11_010101_00000_11001_11110110111_100 = some (.tagset 25 1975) ∧
    decodeTableWord 32 0b11_010101_00000_10010_00100101011_101 = some (.tagclr 18 299) ∧
    decodeTableWord 32 0b11_010101_11010_01110_01100111110_110 = some (.tagtst 26 14 830) := by decide

theorem test_decode_vector_memory :
    decodeTableWord 32 0b11_010110_0111_00_00011_1111111100_000 = some (.vld 7 .raw 3 1020) ∧
    decodeTableWord 32 0b11_010110_1011_01_00111_0011110111_001 = some (.vlds 11 .i32 7 247) ∧
    decodeTableWord 32 0b11_010110_1001_10_11000_1010_000000010 = some (.vldx 9 .n32 24 10) ∧
    decodeTableWord 32 0b11_010110_0110_11_01100_1011110001_011 = some (.vldb 6 .f32 12 753) ∧
    decodeTableWord 32 0b11_010110_0011_00_01111_0100010010_100 = some (.vst 3 .raw 15 274) ∧
    decodeTableWord 32 0b11_010110_0001_01_00001_0001101011_101 = some (.vsts 1 .i32 1 107) ∧
    decodeTableWord 32 0b11_010110_1000_10_01011_0110_000000110 = some (.vstx 8 .n32 11 6) ∧
    decodeTableWord 32 0b11_010110_1110_01_11011_1101_000000111 = some (.vstxAdd 14 .i32 27 13) := by decide

theorem test_decode_atomics :
    decodeTableWord 32 0b11_011000_11011_10100_00101_1010_000_00 = some (.amoW 27 20 5 .fadd .rlx .core) ∧
    decodeTableWord 32 0b11_011001_00100_11000_10000_1001_000_00 = some (.amoD 4 24 16 .cas .rlx .core) ∧
    decodeTableWord 32 0b11_011000_0000000000000001111_001_00 = some (.fence .acq .core) := by decide

theorem test_decode_vector_integer :
    decodeTableWord 32 0b11_100000_1001_00_1101_11_0100_000_00_111 = some (.vaddI 9 (.v 13) (.lit 4) .i32 7) ∧
    decodeTableWord 32 0b11_100000_1100_01_1100_10_0111_001_01_011 = some (.vsubI 12 (.s 12) (.k 7) .n32 3) ∧
    decodeTableWord 32 0b11_100000_1110_00_1010_00_0101_010_00_111 = some (.vmulI 14 (.v 10) (.v 5) .i32 7) ∧
    decodeTableWord 32 0b11_100000_0100_11_0110_01_1110_011_01_001 = some (.vminI 4 (.lit 6) (.s 14) .n32 1) ∧
    decodeTableWord 32 0b11_100000_1010_10_0100_00_0010_100_00_010 = some (.vmaxI 10 (.k 4) (.v 2) .i32 2) ∧
    decodeTableWord 32 0b11_100000_0110_00_1010_00000010100_001 = some (.vabsI 6 (.v 10) 1) ∧
    decodeTableWord 32 0b11_100000_1010_11_0111_00000011000_100 = some (.vnegI 10 (.lit 7) 4) ∧
    decodeTableWord 32 0b11_100000_1000_01_1011_10_0010_111_01_001 = some (.vclampI 8 (.s 11) (.k 2) .n32 1) := by decide

theorem test_decode_vector_float_1 :
    decodeTableWord 32 0b11_100001_0100_00_0101_00_1100_000_00_101 = some (.vaddF 4 (.v 5) (.v 12) .f32 5) ∧
    decodeTableWord 32 0b11_100001_0111_11_0100_01_1000_001_01_101 = some (.vsubF 7 (.lit 4) (.s 8) .bf16 5) ∧
    decodeTableWord 32 0b11_100001_0001_10_0010_00_1110_010_10_110 = some (.vmulF 1 (.k 2) (.v 14) .f16 6) ∧
    decodeTableWord 32 0b11_100001_0101_00_0010_11_0011_011_00_101 = some (.vfma 5 (.v 2) (.lit 3) .f32 5) ∧
    decodeTableWord 32 0b11_100001_1011_01_1000_10_0010_100_01_101 = some (.vfms 11 (.s 8) (.k 2) .bf16 5) ∧
    decodeTableWord 32 0b11_100001_0110_00_1111_00_1101_101_10_001 = some (.vfnma 6 (.v 15) (.v 13) .f16 1) ∧
    decodeTableWord 32 0b11_100001_0101_11_0010_01_1010_110_00_010 = some (.vminF 5 (.lit 2) (.s 10) .f32 2) ∧
    decodeTableWord 32 0b11_100001_0110_10_1100_00_0001_111_01_111 = some (.vmaxF 6 (.k 12) (.v 1) .bf16 7) ∧
    decodeTableWord 32 0b11_100010_1101_00_1101_000000000_10_010 = some (.vabsF 13 (.v 13) .f16 2) ∧
    decodeTableWord 32 0b11_100010_1000_11_0111_000000001_00_011 = some (.vnegF 8 (.lit 7) .f32 3) ∧
    decodeTableWord 32 0b11_100010_1100_01_0010_10_0001_010_01_101 = some (.vclampF 12 (.s 2) (.k 1) .bf16 5) ∧
    decodeTableWord 32 0b11_100010_1001_00_1010_000000011_10_101 = some (.vrcp 9 (.v 10) .f16 5) := by decide

theorem test_decode_vector_float_2 :
    decodeTableWord 32 0b11_100010_1011_00_0111_000000100_00_101 = some (.vrsq 11 (.v 7) .f32 5) ∧
    decodeTableWord 32 0b11_100010_0011_11_0111_000000101_01_011 = some (.vexp2 3 (.lit 7) .bf16 3) ∧
    decodeTableWord 32 0b11_100010_0001_01_1101_000000110_10_001 = some (.vlog2 1 (.s 13) .f16 1) := by decide

theorem test_decode_vector_logic :
    decodeTableWord 32 0b11_100011_1100_10_1111_00_0010_00000_001 = some (.vand 12 (.k 15) (.v 2) 1) ∧
    decodeTableWord 32 0b11_100011_0110_00_1001_11_0111_00100_101 = some (.vor 6 (.v 9) (.lit 7) 5) ∧
    decodeTableWord 32 0b11_100011_0110_01_0100_10_1010_01000_110 = some (.vxor 6 (.s 4) (.k 10) 6) ∧
    decodeTableWord 32 0b11_100011_1000_00_0100_00_1010_01100_101 = some (.vandn 8 (.v 4) (.v 10) 5) ∧
    decodeTableWord 32 0b11_100011_0100_11_0010_01_1111_10000_011 = some (.vshl 4 (.lit 2) (.s 15) 3) ∧
    decodeTableWord 32 0b11_100011_1110_10_1101_00_1001_10100_010 = some (.vshr 14 (.k 13) (.v 9) 2) ∧
    decodeTableWord 32 0b11_100011_0111_00_1110_11_0100_11000_101 = some (.vsar 7 (.v 14) (.lit 4) 5) ∧
    decodeTableWord 32 0b11_100011_1011_01_1001_00000011100_011 = some (.vmov 11 (.s 9) 3) ∧
    decodeTableWord 32 0b11_100100_0_101_10_1000_00_0010_000_10_001 = some (.vcmp 5 (.k 8) (.v 2) .eq .f32 1) := by decide

theorem test_decode_vector_permute :
    decodeTableWord 32 0b11_100101_1100_00_0010_11_0111_000_10_101 = some (.vsel 12 2 (.v 2) (.lit 7) 5) ∧
    decodeTableWord 32 0b11_100101_1110_01_1101_10_0011_00100_110 = some (.vperm 14 (.s 13) (.k 3) 6) ∧
    decodeTableWord 32 0b11_100101_0001_00_0110_00_1001_01000_010 = some (.vbcast 1 (.v 6) (.v 9) 2) ∧
    decodeTableWord 32 0b11_100101_1000_11_0001_01_1110_01100_101 = some (.vslide 8 (.lit 1) (.s 14) 5) ∧
    decodeTableWord 32 0b11_100101_1001_10_0100_00000010000_100 = some (.viota 9 (.k 4) 4) ∧
    decodeTableWord 32 0b11_100101_1010_00_0110_00000010100_101 = some (.vlut 10 (.v 6) 5) ∧
    decodeTableWord 32 0b11_100101_0110_00_0100_11_0100_11000_011 = some (.vext 6 (.v 4) (.lit 4) 3) ∧
    decodeTableWord 32 0b11_100101_1011_01_1010_10_1110_11100000 = some (.vins 11 (.s 10) (.k 14)) := by decide

theorem test_decode_vector_reduce :
    decodeTableWord 32 0b11_100110_1000_00_0100_000000000_01_100 = some (.vredAdd 8 (.v 4) .n32 4) ∧
    decodeTableWord 32 0b11_100110_1110_00_0011_000000001_10_100 = some (.vredMin 14 (.v 3) .f32 4) ∧
    decodeTableWord 32 0b11_100110_0100_11_0010_000000010_00_011 = some (.vredMax 4 (.lit 2) .i32 3) ∧
    decodeTableWord 32 0b11_100110_1011_01_1001_000000011_01_100 = some (.vscanAdd 11 (.s 9) .n32 4) ∧
    decodeTableWord 32 0b11_100110_1100_10_1101_000000100_10_110 = some (.vscanMin 12 (.k 13) .f32 6) ∧
    decodeTableWord 32 0b11_100110_1000_00_0100_000000101_00_100 = some (.vscanMax 8 (.v 4) .i32 4) ∧
    decodeTableWord 32 0b11_100110_0110_00_1111_11_0101_1100_0_011 = some (.vdot4 6 (.v 15) (.lit 5) .i8 3) ∧
    decodeTableWord 32 0b11_100111_0011_01_1001_000_010_111_00_111 = some (.vcvt 3 (.s 9) .f32 .lg6 7) := by decide

theorem test_decode_masks :
    decodeTableWord 32 0b11_101000_0_110_000_001_000_110_00000_011 = some (.mand 6 1 6 3) ∧
    decodeTableWord 32 0b11_101000_0_101_000_110_000_111_00100_001 = some (.mor 5 6 7 1) ∧
    decodeTableWord 32 0b11_101000_0_001_000_110_000_111_01000_100 = some (.mxor 1 6 7 4) ∧
    decodeTableWord 32 0b11_101000_0_011_000_001_00000001100_010 = some (.mnot 3 1 2) ∧
    decodeTableWord 32 0b11_101000_1010_000_001_00000010000_111 = some (.mpop 10 1 7) ∧
    decodeTableWord 32 0b11_101000_1010_000_101_00000010100_001 = some (.mfirst 10 5 1) ∧
    decodeTableWord 32 0b11_101000_0_111_10_0110_00000011000_011 = some (.mset 7 (.k 6) 3) := by decide

theorem test_decode_burgee :
    decodeTableWord 32 0b11_10101_1_1010_00_1100_00_1010_011_01_111 = some (.cx 45 10 (.v 12) (.v 10) 7) ∧
    decodeTableWord 32 0b11_101001_00000_01000_00000_111010_000 = some (.cxload 58 8) ∧
    decodeTableWord 32 0b11_101001_000000000000000_111111_001 = some (.cxevict 63) ∧
    decodeTableWord 32 0b11_101001_11010_0000000000_000100_010 = some (.cxqry 26 4) ∧
    decodeTableWord 32 0b11_101001_00000_00100_00000000000011 = some (.cxldr 4) := by decide

theorem test_decode_matrix_1 :
    decodeTableWord 32 0b11_101100_00_100100_111_01011_000_0_1_011 = some (.mma .m16 36 7 11 .i8 false true 3) ∧
    decodeTableWord 32 0b11_101101_01_001001_001_01111_100_1_0_101 = some (.mmas .m32 9 1 15 true false 5) ∧
    decodeTableWord 32 0b11_101110_000_10010_011_00100_0000_0_111 = some (.tld .row 3 18 4 7) ∧
    decodeTableWord 32 0b11_101110_001_00001_011_10100_0000_1_111 = some (.tst .col 3 1 20 7) ∧
    decodeTableWord 32 0b11_101110_01000_011_011_000000000_0_011 = some (.tmov .row 3 3 3) ∧
    decodeTableWord 32 0b11_101111_000_01001_000_10011_00000_111 = some (.accZero 9 19 7) ∧
    decodeTableWord 32 0b11_101111_001_00111_000_00100_00000_111 = some (.accLd 7 4 7) ∧
    decodeTableWord 32 0b11_101111_010_11110_000_10100_00000_101 = some (.accSt 30 20 5) ∧
    decodeTableWord 32 0b11_101111_011_01110_000_00000_0100_0_110 = some (.accTov .i32 4 14 6) ∧
    decodeTableWord 32 0b11_101111_100_01111_001_00000_0110_0_001 = some (.accAddv .n32 15 6 1) ∧
    decodeTableWord 32 0b11_101111_101_00010_0_00_01110_00000_010 = some (.accMode .int40 2 14 2) ∧
    decodeTableWord 32 0b11_101111_110_10110_000_01011_00000_110 = some (.accRaw 11 22 6) := by decide

theorem test_decode_matrix_2 :
    decodeTableWord 32 0b11_101111_110_00101_000_01110_00001_100 = some (.accRawWr 5 14 4) := by decide

theorem test_decode_engines :
    decodeTableWord 32 0b11_110000_0000000000000000000_10_000 = some (.fork .copy) ∧
    decodeTableWord 32 0b11_110000_000000000000000000000001 = some .rdv ∧
    decodeTableWord 32 0b11_110000_00011_01000_00000000000010 = some (.ttEnq 3 8) ∧
    decodeTableWord 32 0b11_110000_00000_11110_10001_000000011 = some (.cpy 30 17) ∧
    decodeTableWord 32 0b11_110000_00000_01111_10000_000000100 = some (.cpy2d 15 16) ∧
    decodeTableWord 32 0b11_110000_0000000000_00001_00_1100_101 = some (.ccWait 12 1) ∧
    decodeTableWord 32 0b11_110000_11001_000000000000_0011_110 = some (.ccRead 25 3) ∧
    decodeTableWord 32 0b11_110000_11101_01010_00000000000111 = some (.rlQry 29 10) ∧
    decodeTableWord 32 0b11_110001_00011_11011_00000000000000 = some (.subOpen 3 27) ∧
    decodeTableWord 32 0b11_110001_00000_01111_00000000000001 = some (.subClose 15) ∧
    decodeTableWord 32 0b11_110001_11011_00001_00000000000010 = some (.slotTake 27 1) ∧
    decodeTableWord 32 0b11_110001_00000_11100_00111_000000011 = some (.slotGive 28 7) := by decide

theorem test_decode_kernel :
    decodeTableWord 32 0b11_110010_000000000000000000000000 = some .sstep ∧
    decodeTableWord 32 0b11_110010_01100_0000000000000000001 = some (.taskNext 12) ∧
    decodeTableWord 32 0b11_110010_10100_00111_00000000000010 = some (.coverClaim 20 7) ∧
    decodeTableWord 32 0b11_110010_00000_10011_01110_000000011 = some (.coverDone 19 14) ∧
    decodeTableWord 32 0b11_110010_00000_11001_10000_000000100 = some (.coverYield 25 16) ∧
    decodeTableWord 32 0b11_110010_11000_000000000000_0101_101 = some (.hrd 24 5) ∧
    decodeTableWord 32 0b11_110010_00000_11100_0000000_1101_110 = some (.hwr 13 28) ∧
    decodeTableWord 32 0b11_110010_11011_0000000000000000111 = some (.hcommit 27) := by decide

theorem test_decode_channels :
    decodeTableWord 32 0b11_110011_00000_00100_00000_110001_000 = some (.chSend 49 4) ∧
    decodeTableWord 32 0b11_110011_01110_0000000000_100001_001 = some (.chRecv 14 33) ∧
    decodeTableWord 32 0b11_110011_01110_0000000000_100111_010 = some (.chProbe 14 39) ∧
    decodeTableWord 32 0b11_110011_00000_00111_01101_000000011 = some (.rsend 7 13) ∧
    decodeTableWord 32 0b11_110011_00000_11011_00010_000001_100 = some (.xwin 1 27 2) ∧
    decodeTableWord 32 0b11_110011_10011_11000_10010_000000101 = some (.qLaunch 19 24 18) ∧
    decodeTableWord 32 0b11_110011_000000000000000000000110 = some .hintSucc ∧
    decodeTableWord 32 0b11_110011_000000000000000000000111 = some .waitpred := by decide

theorem test_decode_system_1 :
    decodeTableWord 32 0b11_111000_000000000000000_101100_000 = some (.trap 44) ∧
    decodeTableWord 32 0b11_111000_000000000000000000000001 = some .tret ∧
    decodeTableWord 32 0b11_111000_000000000000000000000010 = some .yield ∧
    decodeTableWord 32 0b11_111000_000000000000000_000010_011 = some (.pwrHint 2) ∧
    decodeTableWord 32 0b11_111000_01101_000000000000_0001_100 = some (.jnlRd 13 1) ∧
    decodeTableWord 32 0b11_111000_00000000000000000_1100_101 = some (.jnlRetry 12) ∧
    decodeTableWord 32 0b11_111000_00000000000000000_1100_110 = some (.jnlDrop 12) ∧
    decodeTableWord 32 0b11_111001_00000_00001_00011_000000000 = some (.tlbInv 1 3) ∧
    decodeTableWord 32 0b11_111001_00000_10001_01011_000000001 = some (.tlbShoot 17 11) ∧
    decodeTableWord 32 0b11_111010_01000_00000_000010110000_00 = some (.csrr 8 176) ∧
    decodeTableWord 32 0b11_111010_01101_01000_000010110000_01 = some (.csrw 13 8 176) ∧
    decodeTableWord 32 0b11_111010_01110_00011_000010110000_10 = some (.csrset 14 3 176) := by decide

theorem test_decode_system_2 :
    decodeTableWord 32 0b11_111010_11000_10101_000010110000_11 = some (.csrclr 24 21 176) := by decide

/-- Words that the spec itself works out (chapters 02, 04, 05, 07, 08). -/
theorem test_decode_worked_words :
    decodeTableWord 32 0xC02A6866 = some (.sub true 5 (.s 6) (.k 3)) ∧
    decodeTableWord 32 0xC0122C80 = some (.add false 2 (.s 2) (.lit 4)) ∧
    decodeTableWord 32 0xC0223C20 = some (.add false 4 (.s 3) (.lit 1)) ∧
    decodeTableWord 32 0xD0188006 = some (.ld 3 2 0 .d) ∧ decodeTableWord 32 0xCC000008 = some .nop ∧
    decodeTableWord 16 0x2904 = some (.cAddi 2 4) ∧ decodeTableWord 16 0x7800 = some .cNop ∧
    decodeTableWord 32 0xD80001EE = some (.fence .ar .dev) ∧ decodeTableWord 32 0xD80001EA = some (.fence .rel .dev) ∧
    decodeTableWord 32 0xD029BFF3 = some (.ld 5 6 0x7FE .hu) ∧
    decodeTableWord 32 0xD33A1386 = some (.stIndexed 7 8 9 3 .d) ∧ decodeTableWord 32 0xD61C6000 = some (.vld 1 .f32 3 0) := by
  decide

theorem test_decode_worked_vectors :
    decodeTableWord 32 0xE1304264 = some (.vfma 3 (.v 1) (.v 2) .f32 4) ∧
    decodeTableWord 32 0xE0517100 = some (.vaddI 5 (.v 5) (.lit 1) .i32 0) ∧
    decodeTableWord 32 0xE4210652 = some (.vcmp 2 (.v 4) (.v 6) .lt .f32 2) ∧
    decodeTableWord 32 0xE5404208 = some (.vsel 4 1 (.v 1) (.v 2) 0) ∧
    decodeTableWord 32 0xE550F7C0 = some (.vext 5 (.v 3) (.lit 7) 0) ∧
    decodeTableWord 32 0xE6704010 = some (.vredAdd 7 (.v 1) .f32 0) ∧
    decodeTableWord 32 0xE72042E1 = some (.vcvt 2 (.v 1) .f32 .lg6 1) ∧
    decodeTableWord 32 0xE860C080 = some (.mpop 6 3 0) := by decide

/-- Reserved encodings are refused by name: a compact parcel of zeros (R108), a format A source of kind 00 (R92), the
function code 111 of major 0x02 (R100), w on MOV, condition 111 (R96), scope of a relaxed fence (R104), Mc 11 (R98), and a
compact register 0 (R107). -/
theorem test_decode_reserved :
    decodeTableWord 16 0 = none ∧ decodeTableWord 16 0x8000 = none ∧
    decodeTableWord 32 0b11_000000_00001_00_00010_01_00011_000_0_0 = none ∧
    decodeTableWord 32 0b11_000010_00001_01_00010_01_00011_111_0_0 = none ∧
    decodeTableWord 32 0b11_000010_00001_01_00010_00_00000_110_1_0 = none ∧
    decodeTableWord 32 0b11_001000_111_00001_00010_0_0000000001 = none ∧
    decodeTableWord 32 0b11_011000_00000_00000_00000_1111_000_10 = none ∧
    decodeTableWord 32 0b11_101100_11_000001_010_00011_000_0_0_000 = none ∧
    decodeTableWord 16 0b00001_0000_0001_000 = none ∧ decodeTableWord 16 0b00001_0001_0001_001 = none := by decide

/-! ## Scalar and control instructions -/

def sA : State := withS [(1, 0x7FFFFFFF), (2, 1), (3, 0xFFFFFFFFFFFFFFF8), (4, 0x8000000000000000), (5, 3), (6, 0x100)] run0

theorem test_add_sub_wrap :
    after (.add true 7 (.s 1) (.s 2)) sA (fun t => t.reg 7 == 0xFFFFFFFF80000000) = true ∧
    after (.add false 7 (.s 1) (.s 2)) sA (fun t => t.reg 7 == 0x80000000) = true ∧
    after (.sub false 7 (.s 0) (.s 2)) sA (fun t => t.reg 7 == 0xFFFFFFFFFFFFFFFF && t.pc == 0x1004) = true ∧
    after (.add false 0 (.s 1) (.s 2)) sA (fun t => t.reg 0 == 0) = true := by decide +kernel

theorem test_logic :
    after (.and false 3 (.s 3) (.lit 31)) sA (fun t => t.reg 3 == 0xFFFFFFFFFFFFFFF8) = true ∧
    after (.or false 7 (.s 6) (.s 2)) sA (fun t => t.reg 7 == 0x101) = true ∧
    after (.xor true 7 (.s 3) (.s 3)) sA (fun t => t.reg 7 == 0) = true ∧
    after (.andn false 7 (.s 1) (.s 5)) sA (fun t => t.reg 7 == 0x7FFFFFFC) = true := by decide +kernel

theorem test_shifts :
    after (.shl false 7 (.s 2) (.s 6)) sA (fun t => t.reg 7 == 0) = true ∧
    after (.shr true 7 (.s 3) (.lit 4)) sA (fun t => t.reg 7 == 0x0FFFFFFF) = true ∧
    after (.sar false 7 (.s 4) (.s 6)) sA (fun t => t.reg 7 == 0xFFFFFFFFFFFFFFFF) = true ∧
    after (.sar true 7 (.s 3) (.lit 2)) sA (fun t => t.reg 7 == 0xFFFFFFFFFFFFFFFE) = true := by decide +kernel

theorem test_compares :
    after (.min false 7 (.s 3) (.s 2)) sA (fun t => t.reg 7 == 0xFFFFFFFFFFFFFFF8) = true ∧
    after (.max false 7 (.s 3) (.s 2)) sA (fun t => t.reg 7 == 1) = true ∧
    after (.minu false 7 (.s 3) (.s 2)) sA (fun t => t.reg 7 == 1) = true ∧
    after (.maxu true 7 (.s 3) (.s 2)) sA (fun t => t.reg 7 == 0xFFFFFFFFFFFFFFF8) = true ∧
    after (.slt false 7 (.s 4) (.s 0)) sA (fun t => t.reg 7 == 1) = true ∧
    after (.sltu false 7 (.s 4) (.s 0)) sA (fun t => t.reg 7 == 0) = true ∧
    after (.seq true 7 (.s 4) (.s 0)) sA (fun t => t.reg 7 == 1) = true := by decide +kernel

theorem test_bits :
    after (.clz true 7 (.s 2)) sA (fun t => t.reg 7 == 31) = true ∧ after (.clz false 7 (.s 0)) sA (fun t => t.reg 7 == 64) = true ∧
    after (.ctz false 7 (.s 6)) sA (fun t => t.reg 7 == 8) = true ∧ after (.ctz true 7 (.s 4)) sA (fun t => t.reg 7 == 32) = true ∧
    after (.popc true 7 (.s 3)) sA (fun t => t.reg 7 == 29) = true ∧
    after (.sext false 7 (.s 6) (.lit 8)) sA (fun t => t.reg 7 == 0xFFFFFFFFFFFFFF00) = true ∧
    after (.zext false 7 (.s 3) (.lit 7)) sA (fun t => t.reg 7 == 0xF8) = true ∧
    after (.sel false 7 (.s 1) (.s 2)) (withX [(4, 8)] sA) (fun t => t.reg 7 == 0x7FFFFFFF) = true ∧
    after (.sel true 7 (.s 1) (.s 2)) (withX [(4, 0x100000000)] sA) (fun t => t.reg 7 == 1) = true ∧
    after (.mov 7 (.k 3)) { sA with core := { sA.core with k := [(3, 0x80000000)] } }
      (fun t => t.reg 7 == 0xFFFFFFFF80000000) = true := by decide +kernel

theorem test_products :
    after (.mul true 7 (.s 1) (.s 1)) sA (fun t => t.reg 7 == 1) = true ∧
    after (.mulh false 7 (.s 4) (.s 4)) sA (fun t => t.reg 7 == 0x4000000000000000) = true ∧
    after (.mulhu false 7 (.s 3) (.s 6)) sA (fun t => t.reg 7 == 0xFF) = true ∧
    after (.div false 7 (.s 3) (.s 5)) sA (fun t => t.reg 7 == 0xFFFFFFFFFFFFFFFE) = true ∧
    after (.rem false 7 (.s 3) (.s 5)) sA (fun t => t.reg 7 == 0xFFFFFFFFFFFFFFFE) = true ∧
    after (.div false 7 (.s 1) (.s 0)) sA (fun t => t.reg 7 == 0xFFFFFFFFFFFFFFFF) = true ∧
    after (.rem false 7 (.s 1) (.s 0)) sA (fun t => t.reg 7 == 0x7FFFFFFF) = true ∧
    after (.divu true 7 (.s 3) (.s 5)) sA (fun t => t.reg 7 == 0x55555552) = true ∧
    after (.remu true 7 (.s 3) (.s 5)) sA (fun t => t.reg 7 == 2) = true := by decide +kernel

/-- The quotient that does not fit (R123): the most negative number by −1. -/
theorem test_division_overflow :
    after (.div false 7 (.s 4) (.s 8)) (withS [(8, -1)] sA) (fun t => t.reg 7 == 0x8000000000000000) = true ∧
    after (.rem false 7 (.s 4) (.s 8)) (withS [(8, -1)] sA) (fun t => t.reg 7 == 0) = true := by decide +kernel

theorem test_constants :
    after (.li 7 0x8000) sA (fun t => t.reg 7 == 0xFFFFFFFFFFFF8000) = true ∧
    after (.lix 4 0x8000) sA (fun t => t.xreg 4 == 0xFFFFFFFFFFFF8000) = true ∧
    after (.lxh 4 0x1234) (withX [(4, 0xABCD)] sA) (fun t => t.xreg 4 == 0xABCD1234) = true ∧
    after (.movxFromX 7 4) (withX [(4, 9)] sA) (fun t => t.reg 7 == 9) = true ∧
    after (.movxToX 5 (.s 1)) sA (fun t => t.xreg 5 == 0x7FFFFFFF) = true ∧
    after (.saddr 7 (.s 8) (.s 9)) (withS [(8, 0x0203), (9, 0x12345)] sA) (fun t => t.reg 7 == 0x00F0000002192345) = true ∧
    after (.lea 7 6 0x7FF 3) sA (fun t => t.reg 7 == 0xF8) = true := by decide +kernel

theorem test_branches :
    after (.b .lt 3 2 true 0x3FF) sA (fun t => t.pc == 0xFFE) = true ∧
    after (.b .ltu 3 2 false 4) sA (fun t => t.pc == 0x1004) = true ∧
    after (.bsplit .ge 2 3 false 4) sA (fun t => t.pc == 0x1008) = true ∧
    after (.loop 2 4) sA (fun t => t.pc == 0x1004 && t.reg 2 == 0) = true ∧
    after (.loop 5 0x3FE) sA (fun t => t.pc == 0xFFC && t.reg 5 == 2) = true := by decide +kernel

theorem test_jumps :
    after (.j 0xFFFFFF) sA (fun t => t.pc == 0xFFE) = true ∧
    after (.jal 8) sA (fun t => t.pc == 0x1010 && t.reg 31 == 0x1004) = true ∧
    after (.jr 31 6) sA (fun t => t.pc == 0x100 && t.reg 31 == 0x1004) = true ∧
    after (.jr 0 5) sA (fun t => t.pc == 2) = true ∧ after .join sA (fun t => t.pc == 0x1004) = true ∧
    after .nop sA (fun t => t.pc == 0x1004) = true ∧ after .exit sA (fun t => t.pri.run == .ended) = true := by decide +kernel

theorem test_compact :
    after (.cAddi 2 0x70) sA (fun t => t.reg 2 == 0xFFFFFFFFFFFFFFF1 && t.pc == 0x1002) = true ∧
    after (.cShri 3 15) sA (fun t => t.reg 3 == 0x1FFFFFFFFFFFF) = true ∧ after (.cShli 2 15) sA (fun t => t.reg 2 == 0x8000) = true ∧
    after (.cLi 7 0x7F) sA (fun t => t.reg 7 == 0xFFFFFFFFFFFFFFFF) = true ∧ after (.cMov 7 1) sA (fun t => t.reg 7 == 0x7FFFFFFF) = true ∧
    after (.cSub 2 5) sA (fun t => t.reg 2 == 0xFFFFFFFFFFFFFFFE) = true ∧ after (.cAdd 2 5) sA (fun t => t.reg 2 == 4) = true ∧
    after (.cAnd 1 5) sA (fun t => t.reg 1 == 3) = true ∧
    after (.cBeqz 2 4) sA (fun t => t.pc == 0x1002) = true ∧ after (.cBnez 2 0x7F) sA (fun t => t.pc == 0xFFE) = true ∧
    after (.cJ 0x7FF) sA (fun t => t.pc == 0xFFE) = true ∧ after (.cJr 6) sA (fun t => t.pc == 0x100) = true ∧
    after .cNop sA (fun t => t.pc == 0x1002) = true := by decide +kernel

/-- The cases of R123 that ScalarMultiplyDivide tells apart: a zero divisor, the overflowing quotient, neither. -/
theorem witness_ScalarMultiplyDivide : zx false (sA.reg 0) = 0 ∧ zx false (sA.reg 5) ≠ 0 ∧
    sx false (sA.reg 4) = -(1 <<< (width false - 1)) ∧ sx true 0x80000000 = -(1 <<< (width true - 1)) := by decide +kernel

theorem witness_ControlFlow_branches : sA.attached = false ∧ sA.leads = false ∧ taken .lt (sA.reg 3) (sA.reg 2) ∧
    ¬ taken .ltu (sA.reg 3) (sA.reg 2) ∧ taken .ge (sA.reg 2) (sA.reg 2) ∧ sA.reg 2 - 1 = 0 ∧ sA.reg 5 - 1 ≠ 0 := by
  unfold taken; decide +kernel

theorem witness_ControlFlow_exit : (∀ j : Fin 16, sA.me.journal[j].state = .free) ∧
    (∃ j : Fin 16, { sA with pri := { sA.pri with journal := sA.pri.journal.set 15 ⟨.posted, 0, 0, 0, .work, 0⟩ } }.me.journal[j].state ≠
      .free) ∧ (sA.leads = false ∧ (sA.cur = .pri → sA.core.slave.role ≠ .detached)) := by decide +kernel

/-- Both sides of C.BEQZ and the shift counts 1 and 15. -/
theorem witness_CompactForms : sA.attached = false ∧ sA.reg (low32 0) = 0 ∧ sA.reg (low32 1) ≠ 0 ∧ 1 ≤ (1 : BitVec 7).toInt ∧
    1 ≤ (15 : BitVec 7).toInt := by decide +kernel

theorem witness_ScalarFrame : scalarWrites (.add true 7 (.s 1) (.s 2)) = some (some 7, none) ∧
    scalarWrites (.cShri 0 1) = some (some 0, none) ∧ scalarWrites (.lxh 7 1) = some (none, some 7) := by decide

/-! ## Memory -/

/-- Words stored at keys, full width. -/
def withW (l : List (Nat × Word)) (s : State) : State := l.foldl (fun u p => u.setWord p.1 p.2) s

/-- Context 0 runs on this core: a torus of one cluster with its remap entry, accounting domain 5, handler core (0, 0) at
entry 0x1000100, a fault queue of 16 records at 0x300000, and one leaf of 2 MiB at 0x1000000, writable and executable. -/
def ctx0 : State :=
  (withW [(0x80000, 0x100001), (0x80008, 0x21050000), (0x80010, 0x200000), (0x80018, 0x210000), (0x80020, 0x300000),
      (0x80028, 0x310000), (0x80030, 0x400), (0x80038, 0x1000100), (0x100000, 0x110001), (0x110000, 0x120001),
      (0x120040, 0x40001F), (0x300010, 4)]
    { run0 with
      ctxBase := 0x80000
      ctxs := [(0, ⟨.running, false, 0, false, none, []⟩)]
      rmap := [(0, 0x8000)]
      core := { run0.core with ctx := some 0 } }).setNum 0x200000 2 0x8000

/-- s2 holds an address of the own scratchpad whose bytes are 0x88 0x99 0xAA 0xBB …; s3 an index; s4 data. -/
def sM : State := withW [(sp 0x40, 0xFFEEDDCCBBAA9988)] (withS [(2, 0x40), (3, 8), (4, 0x1122334455667788)] ctx0)

theorem test_loads :
    after (.ld 7 2 0 .b) sM (fun t => t.reg 7 == 0xFFFFFFFFFFFFFF88) = true ∧ after (.ld 7 2 1 .bu) sM (fun t => t.reg 7 == 0x99) = true ∧
    after (.ld 7 2 1 .h) sM (fun t => t.reg 7 == 0xFFFFFFFFFFFFBBAA) = true ∧ after (.ld 7 2 1 .hu) sM (fun t => t.reg 7 == 0xBBAA) = true ∧
    after (.ld 7 2 1 .w) sM (fun t => t.reg 7 == 0xFFFFFFFFFFEEDDCC) = true ∧ after (.ld 7 2 0 .wu) sM (fun t => t.reg 7 == 0xBBAA9988) = true ∧
    after (.ldIndexed 7 0 3 3 .d) sM (fun t => t.reg 7 == 0xFFEEDDCCBBAA9988 && t.pc == 0x1004) = true ∧
    after (.cLdw 7 2 1) sM (fun t => t.reg 7 == 0xFFFFFFFFFFEEDDCC && t.pc == 0x1002) = true := by decide +kernel

theorem test_stores :
    after (.st 4 2 0x7FF .w) sM (fun t => t.num (sp 0x3C) 4 == 0x55667788 && t.word (sp 0x40) == 0xFFEEDDCCBBAA9988) = true ∧
    after (.stIndexed 4 2 3 0 .b) sM (fun t => t.num (sp 0x48) 2 == 0x88) = true ∧
    after (.cStw 4 2 7) sM (fun t => t.num (sp 0x5C) 4 == 0x55667788 && t.pc == 0x1002) = true := by decide +kernel

/-- An unaligned load across bytes (R149), a load beyond the allotment (R141), and a protected address (R140). -/
theorem test_load_corners :
    after (.ld 7 2 0 .h) (withS [(2, 0x41)] sM) (fun t => t.reg 7 == 0xFFFFFFFFFFFFAA99) = true ∧
    after (.ld 7 2 0 .w) (withS [(2, 0x7FFFE)] sM) (fun t => t.reg 7 == 0 && t.core.scrErr == 0x8000000000080000) = true ∧
    after (.ld 7 2 0 .w) (withS [(2, 0x00F2000000000000)] sM)
      (fun t => t.pri.run == .stopped && (t.core.hq.map fun m => m[2]) == [0x00F2000000000000]) = true := by decide +kernel

theorem test_paged :
    after (.st 4 2 0 .d) (withS [(2, 0x1000008)] sM) (fun t => t.word 0x400008 == 0 && (t.l1 0x400008).isSome) = true ∧
    after (.ldr 7 2 0) (withS [(2, 0x1000008)] (withW [(0x400008, 5)] sM)) (fun t => t.reg 7 == 5) = true ∧
    after (.ld 7 2 0 .d) (withS [(2, 0x2000000)] sM) (fun t => t.pri.wake.kind == 12 && t.num 0x300000 8 == 1 &&
      t.num 0x300048 8 == 0x2000000 && t.tag 0x300040) = true := by decide +kernel

theorem test_memx :
    after (.ldr 7 2 0) sM (fun t => t.reg 7 == 0xFFEEDDCCBBAA9988) = true ∧
    after (.kld 7 3 0x7FF) { sM with core := { sM.core with k := [(7, 0x80000001)] } } (fun t => t.reg 7 == 0xFFFFFFFF80000001) = true ∧
    after (.pref true 2 0) sM (fun t => t.pc == 0x1004) = true ∧
    after (.stp 4 5 1) (withS [(5, 0x00F0000000000040)] sM)
      (fun t => t.me.journal[0] == ⟨.posted, 0x00F0000000000048, 0x1122334455667788, 127, .work, 0⟩) = true := by decide +kernel

theorem test_tags :
    after (.stf 4 2 0) sM (fun t => t.tag (sp 0x40) && t.word (sp 0x40) == 0x1122334455667788) = true ∧
    after (.ldfe 7 2 0) (sM.setTag (sp 0x40) true) (fun t => !t.tag (sp 0x40) && t.reg 7 == 0xFFEEDDCCBBAA9988) = true ∧
    after (.ldf 7 2 0) (sM.setTag (sp 0x40) true) (fun t => t.tag (sp 0x40) && t.reg 7 == 0xFFEEDDCCBBAA9988) = true ∧
    after (.ldf 7 2 0) sM (fun t => t.pc == 0x1000 && t.pri.wake.kind == 4) = true ∧
    after (.stef 4 2 0) (sM.setTag (sp 0x40) true) (fun t => t.pri.wake.kind == 6) = true ∧
    after (.tagset 2 1) sM (fun t => t.tag (sp 0x48) && !t.tag (sp 0x40)) = true ∧
    after (.tagtst 7 2 0) (sM.setTag (sp 0x40) true) (fun t => t.reg 7 == 1) = true ∧
    after (.tagclr 2 0) (sM.setTag (sp 0x40) true) (fun t => !t.tag (sp 0x40)) = true := by decide +kernel

theorem test_atomics :
    after (.amoW 7 2 4 .add .rlx .core) sM (fun t => t.reg 7 == 0xFFFFFFFFBBAA9988 && t.num (sp 0x40) 4 == 0x11111110) = true ∧
    after (.amoW 7 2 4 .minu .sc .dev) sM (fun t => t.num (sp 0x40) 8 == 0xFFEEDDCC55667788) = true ∧
    after (.amoD 7 2 4 .max .rlx .sys) sM (fun t => t.word (sp 0x40) == 0x1122334455667788) = true ∧
    after (.amoD 7 2 4 .cas .ar .clu) (withX [(4, 0xFFEEDDCCBBAA9988)] sM) (fun t => t.word (sp 0x40) == 0x1122334455667788) = true ∧
    after (.amoD 7 2 0 .inc .rlx .core) sM (fun t => t.word (sp 0x40) == 0xFFEEDDCCBBAA9989) = true ∧
    after (.amoW 7 2 4 .fadd .rlx .core) (withW [(sp 0x40, 0x3F800000)] (withS [(4, 0x40000000)] sM))
      (fun t => t.num (sp 0x40) 4 == 0x40400000) = true := by decide +kernel

/-- A line of HBM at 0x400000 with a dirty and a clean byte in the L1. -/
def sL : State := { sM with core := { sM.core with l1 := [(0x400000, some ⟨7, true, false⟩), (0x400001, some ⟨9, false, false⟩)] } }

theorem test_fences :
    after (.fence .rel .dev) sL (fun t => t.byte 0x400000 == 7 && (t.l1 0x400001).isSome) = true ∧
    after (.fence .acq .dev) sL (fun t => t.byte 0x400000 == 0 && t.l1 0x400001 == none && (t.l1 0x400000).isSome) = true ∧
    after (.fence .ar .core) sL (fun t => t.core.l1 == sL.core.l1) = true := by decide +kernel

theorem witness_LoadFromScratchpad : OwnScratch sM (sM.reg 2 + BitVec.ofInt 64 ((0x7FF : BitVec 11).toInt * loadSize .d)) 8 false ∧
    Clean sM (sM.reg 2 + BitVec.ofInt 64 ((0x7FF : BitVec 11).toInt * loadSize .d)) 8 ∧
    OwnScratch sM (sM.reg 2 + sM.reg 3 <<< (3 : Fin 4).val) 8 false ∧ Clean sM (sM.reg 2 + sM.reg 3 <<< (3 : Fin 4).val) 8 ∧
    OwnScratch sM 0x7FFF8 8 false ∧ Clean sM 0x7FFF8 8 ∧ OwnScratch sM (sM.reg (low32 2) + BitVec.ofNat 64 (4 * 7)) 4 false := by
  unfold OwnScratch Clean; decide +kernel

theorem witness_StoreToScratchpad : Memory.wf sM.mem = true ∧
    OwnScratch sM (sM.reg 2 + BitVec.ofInt 64 ((0x400 : BitVec 11).toInt * 0)) 8 true ∧
    OwnScratch sM (sM.reg 2 + sM.reg 3 <<< (0 : Fin 4).val) 1 true ∧ OwnScratch sM (sM.reg (low32 2) + BitVec.ofNat 64 (4 * 7)) 4 true ∧
    OwnScratch sM 0x7FFFF 1 true := by
  unfold OwnScratch; decide +kernel

/-- `fetched` as a test. -/
def fetchedB (s : State) (l : List Site) (k : Nat) : Bool :=
  l.any fun x => match x with
    | .loc m => !m.isScratch && decide (m.key / 64 = k / 64) && decide (s.l1 m.key = none)
    | _ => false

theorem fetched_iff (s : State) (l : List Site) (k : Nat) : fetched s l k ↔ fetchedB s l k = true := by
  simp only [fetched, fetchedB, List.any_eq_true]
  constructor
  · rintro ⟨m, h, a, b, c⟩; exact ⟨_, h, by simp [a, b, c]⟩
  · rintro ⟨x, h, g⟩
    cases x with
    | loc m => simp at g; exact ⟨m, h, g.1.1, g.1.2, g.2⟩
    | _ => simp at g

/-- `Seen` as a test. -/
def seenB (s : State) (l : List Site) (b : Byte) : Site → Bool
  | .loc m =>
    if m.isScratch then decide (b = s.byte m.key ∧ false = s.poisoned m.key)
    else ((s.l1 m.key).all fun e => !(e.dirty || !fetchedB s l m.key) || decide (b = e.b ∧ false = e.bad)) &&
      (!fetchedB s l m.key || s.dirty m.key || decide (b = s.byte m.key ∧ false = s.poisoned m.key))
  | _ => decide (b = 0)

theorem seen_of_seenB {s : State} {l : List Site} {b : Byte} {x : Site} (h : seenB s l b x = true) : Seen s l b false x := by
  cases x with
  | loc m =>
    simp only [Seen, fetched_iff]
    by_cases hs : m.isScratch = true
    · simp [seenB, hs] at h; simp [hs, h]
    · simp only [Bool.not_eq_true] at hs
      simp [seenB, hs] at h
      refine ⟨by simp [hs], fun _ e he hd => ?_, fun _ hf hn => ?_⟩
      · have := h.1; rw [he] at this; simp at this; rcases hd with hd | hd
        · simpa [hd] using this
        · simpa [hd] using this
      · simpa [hf, hn] using h.2
  | _ => simpa [Seen, seenB] using h

/-- The conditions of LoadSeesL1 on the eight bytes at an address, which are to be read as f says. -/
def Sees (va : Word) (s : State) (f : Site → Byte) : Prop :=
  ∃ l s1, sites Need.load va 8 s = .ok (l, s1) ∧ Site.event ∉ l ∧ (∀ p, .loc (.host p true) ∉ l) ∧
    (∀ x ∈ l, s1.siteLocked false false x = false) ∧ (∀ x ∈ l, s1.siteStopped x = false) ∧ s1.behindStp l = false ∧ ∀ x ∈ l, Seen s1 l (f x) false x

def seesB (va : Word) (s : State) (f : Site → Byte) : Bool :=
  match sites Need.load va 8 s with
  | .ok (l, s1) => (l.all fun x => decide (x ≠ Site.event) && !s1.siteLocked false false x && !s1.siteStopped x && seenB s1 l (f x) x &&
      match x with
      | .loc (.host _ c) => !c
      | _ => true) && !s1.behindStp l
  | .error _ => false

theorem sees_of_seesB {va : Word} {s : State} {f : Site → Byte} (h : seesB va s f = true) : Sees va s f := by
  unfold seesB at h
  split at h
  · next l s1 he =>
    simp only [Bool.and_eq_true, List.all_eq_true, Bool.not_eq_true', decide_eq_true_eq] at h
    refine ⟨l, s1, he, fun hm => ((h.1 _ hm).1.1.1.1 rfl), fun p hm => ?_, fun x hx => (h.1 x hx).1.1.1.2, fun x hx => (h.1 x hx).1.1.2, h.2,
      fun x hx => seen_of_seenB (h.1 x hx).1.2⟩
    simpa using (h.1 _ hm).2
  · exact absurd h (by simp)

/-- Memory's bytes, but a dirty byte of the L1. -/
def dirtyOrMemory (s : State) (x : Site) : Byte :=
  match x with
  | .loc m => ((s.l1 m.key).filter L1Byte.dirty).elim (s.byte m.key) L1Byte.b
  | _ => 0

/-- A fetched line with a dirty and a clean byte, scratchpad bytes, out-of-range bytes, and bytes of both classes. -/
theorem witness_LoadSeesL1 : swf none 0 sL.core.l1 = true ∧
    ∀ va ∈ ([0x1000000, 0x40, 0x7FFFC, 0x80000] : List Word), Sees va sL (dirtyOrMemory sL) :=
  ⟨by decide +kernel, fun va h => sees_of_seesB (by
    have : ([0x1000000, 0x40, 0x7FFFC, 0x80000] : List Word).all fun va => seesB va sL (dirtyOrMemory sL) := by decide +kernel
    exact List.all_eq_true.mp this va h)⟩

theorem witness_UncachedAndConstantLoads : (sM.reg 2 + BitVec.ofInt 64 ((1 : BitVec 11).toInt * 8)).toNat % 8 = 0 ∧
    OwnScratch sM (sM.reg 2 + BitVec.ofInt 64 ((1 : BitVec 11).toInt * 8)) 8 false ∧
    Clean sM (sM.reg 2 + BitVec.ofInt 64 ((1 : BitVec 11).toInt * 8)) 8 ∧
    (sM.reg 0 + (0x0FF : BitVec 11).signExtend 64).toNat < 256 ∧ 256 ≤ (sM.reg 0 + (0x100 : BitVec 11).signExtend 64).toNat := by
  unfold OwnScratch Clean; decide +kernel

/-- The window's first and last words; the target takes the first, and refuses the other: the context lacks core (31, 31). -/
theorem witness_PostedStore :
    0x00F0000000000000 ≤ (0x00F0000000000000 : Word).toNat ∧ (0x00F000001FFFFFF8 : Word).toNat < 0x00F0000020000000 ∧
    (0x00F000001FFFFFF8 : Word).toNat % 8 = 0 ∧ sM.core.locks = [] ∧ sM.me.journal[(0 : Fin 16)].state = .free ∧
    (∀ k < (0 : Fin 16), sM.me.journal[k].state ≠ .free) ∧ Memory.wf sM.mem = true ∧
    sM.entryRefused 0x00F0000000000000 = false ∧ sM.entryRefused 0x00F000001FFFFFF8 = true ∧
    0x00F0000000000000 % 2 ^ 19 < sM.allotment := by decide +kernel

/-- A lock of another core's bank holds bytes 0x48 to 0x4F of core (1, 0), where the thread's entry 0 waits (R151, R294). -/
def sPort : State :=
  { withS [(5, 0x00F0000000080040), (6, 0x00F00000000FFFF0)] sM with
    core := { sM.core with locks := [⟨0, 1, 0, 0, 0, 0x48, 0x4F, true, none, true⟩] }
    pri := { (withS [(5, 0x00F0000000080040), (6, 0x00F00000000FFFF0)] sM).pri with
      journal := sM.pri.journal.set 0 ⟨.posted, 0x00F0000000080048, 7, 0, .work, 1⟩ } }

/-- A store behind the lock waits at its port; so does a later one to another word of that core, in its place. -/
theorem test_port :
    after (.stp 4 5 1) sPort (fun t => t.me.journal[1].port == 2 && t.word (Loc.scratch 0 1 0 0x48).key == 0 && t.pc == 0x1004) = true ∧
    after (.stp 4 6 1) sPort (fun t => t.me.journal[1].port == 2) = true := by decide +kernel

theorem witness_PostedStore_port :
    (∀ x ∈ sPort.postSites 0x00F0000000080048, sPort.siteLocked true true x = false) ∧ sPort.me.journal[(1 : Fin 16)].state = .free ∧
    (∀ k < (1 : Fin 16), sPort.me.journal[k].state ≠ .free) ∧ sPort.postLocked 0x00F0000000080048 = true ∧
    sPort.postLocked 0x00F00000000FFFF8 = false ∧ sPort.me.journal[(0 : Fin 16)].waits = true ∧
    bits sPort.me.journal[(0 : Fin 16)].addr 19 10 = bits 0x00F00000000FFFF8 19 10 ∧
    bits sPort.me.journal[(0 : Fin 16)].addr 19 10 ≠ bits 0x00F0000000000040 19 10 := by decide +kernel

theorem witness_TaggedWords : OwnWord sM 0x40 ∧ sM.tag (sp 0x40) = false ∧ OwnWord (sM.setTag (sp 0x40) true) 0x40 ∧
    (sM.setTag (sp 0x40) true).tag (sp 0x40) = true ∧ OwnWord sM 0x7FFF8 := by
  unfold OwnWord OwnScratch Clean; decide +kernel

theorem witness_Atomics : (∀ j : Fin 16, sM.me.journal[j].state = .free) ∧ sM.me.unacked = 0 ∧ dirtyLines sM.core.l1 = [] ∧
    (sM.reg 2).toNat % 8 = 0 ∧ (0x7FFFC : Word).toNat % 4 = 0 ∧ OwnScratch sM (sM.reg 2) 8 true ∧ OwnScratch sM 0x7FFFC 4 true ∧
    sM.poisoned (ownKey sM (sM.reg 2).toNat) = false := by
  unfold OwnScratch; decide +kernel

/-- Lines of the L1 that are no host or peer lines hold nothing that a far side would have to acknowledge. -/
theorem witness_Fences : swf none 0 sL.core.l1 = true ∧ (∀ j : Fin 16, sL.me.journal[j].state = .free) ∧ sL.me.unacked = 0 ∧
    ∀ k, sL.farDirty k = false := by
  refine ⟨by decide +kernel, by decide +kernel, by decide +kernel, fun k => ?_⟩
  have far : ∀ n : Nat, 2 ^ 59 ≤ n → sL.dirty n = false := fun n hn => by
    have e : sL.core.l1 = [(0x400000, some ⟨7, true, false⟩), (0x400001, some ⟨9, false, false⟩)] := rfl
    have a : n ≠ 0x400000 := by omega
    have b : n ≠ 0x400001 := by omega
    have c : ¬ n < 0x400000 := by omega
    have d : ¬ n < 0x400001 := by omega
    simp [State.dirty, State.l1, e, sget, a, b, c, d]
  by_cases h : 2 ^ 60 ≤ k
  · have : ∀ j, sL.dirty (k / 64 * 64 + j) = false := fun j => far _ (by omega)
    simp [State.farDirty, this]
  · simp only [State.farDirty, decide_eq_false h, Bool.false_and]
/-! ## Vectors -/

/-- Lane j of a vector register. -/
def lane (t : State) (r : Fin 16) (j : Nat) : Lane := laneAt t.me.v[r].val j

/-- v1 and v2 hold integers, v3 and v4 binary32 numbers: 1.5, −2.0, +∞ and a signalling NaN; 0.5, 3.0, 0 and 1.0. -/
def sV : State :=
  withV 4 [0x3F000000, 0x40400000, 0, 0x3F800000] (withV 3 [0x3FC00000, 0xC0000000, 0x7F800000, 0x7F800001]
    (withV 2 [2, 0xFFFFFFFF, 33, 0x80000000] (withV 1 [0xFFFFFFFE, 0x7FFFFFFF, 1, 0x80000000] sM)))

theorem test_vector_integer :
    after (.vaddI 5 (.v 1) (.v 2) .i32 0) sV (fun t => (List.range 5).map (lane t 5) == [0, 0x7FFFFFFE, 34, 0, 0]) = true ∧
    after (.vsubI 5 (.v 1) (.lit 15) .i32 0) sV (fun t => lane t 5 0 == 0xFFFFFFFF && lane t 5 9 == 1) = true ∧
    after (.vmulI 5 (.v 1) (.v 2) .i32 0) sV (fun t => (List.range 4).map (lane t 5) == [0xFFFFFFFC, 0x80000001, 33, 0]) = true ∧
    after (.vminI 5 (.v 1) (.v 2) .i32 0) sV (fun t => (List.range 3).map (lane t 5) == [0xFFFFFFFE, 0xFFFFFFFF, 1]) = true ∧
    after (.vmaxI 5 (.v 1) (.v 2) .n32 0) sV (fun t => (List.range 3).map (lane t 5) == [0xFFFFFFFE, 0xFFFFFFFF, 33]) = true ∧
    after (.vabsI 5 (.v 1) 0) sV (fun t => (List.range 4).map (lane t 5) == [2, 0x7FFFFFFF, 1, 0x80000000]) = true ∧
    after (.vnegI 5 (.v 1) 0) sV (fun t => (List.range 2).map (lane t 5) == [2, 0x80000001] && t.me.fpFlags == 0) = true ∧
    after (.vclampI 1 (.lit 0) (.lit 7) .i32 0) sV (fun t => (List.range 4).map (lane t 1) == [0, 7, 1, 0]) = true := by
  decide +kernel

theorem test_vector_logic :
    after (.vand 5 (.v 1) (.v 2) 0) sV (fun t => lane t 5 0 == 2) = true ∧ after (.vor 5 (.v 1) (.v 2) 0) sV (fun t => lane t 5 2 == 33) = true ∧
    after (.vxor 5 (.v 1) (.v 1) 0) sV (fun t => lane t 5 3 == 0) = true ∧
    after (.vandn 5 (.v 1) (.v 2) 0) sV (fun t => lane t 5 0 == 0xFFFFFFFC) = true ∧
    after (.vshl 5 (.v 1) (.v 2) 0) sV (fun t => lane t 5 0 == 0xFFFFFFF8 && lane t 5 2 == 0) = true ∧
    after (.vshr 5 (.v 1) (.v 2) 0) sV (fun t => lane t 5 0 == 0x3FFFFFFF && lane t 5 3 == 0) = true ∧
    after (.vsar 5 (.v 1) (.v 2) 0) sV (fun t => lane t 5 3 == 0xFFFFFFFF && lane t 5 1 == 0) = true ∧
    after (.vmov 5 (.s 2) 0) sV (fun t => lane t 5 63 == 0x40) = true := by decide +kernel

theorem test_vector_float :
    after (.vaddF 5 (.v 3) (.v 4) .f32 0) sV
      (fun t => (List.range 4).map (lane t 5) == [0x40000000, 0x3F800000, 0x7F800000, 0x7FC00000] && t.me.fpFlags == Fl.nv) = true ∧
    after (.vsubF 5 (.v 3) (.v 3) .f32 0) sV (fun t => lane t 5 2 == 0x7FC00000 && t.me.fpFlags == Fl.nv) = true ∧
    after (.vmulF 5 (.v 3) (.v 4) .f32 0) sV
      (fun t => (List.range 3).map (lane t 5) == [0x3F400000, 0xC0C00000, 0x7FC00000]) = true ∧
    after (.vfma 4 (.v 3) (.lit 2) .f32 0) sV (fun t => (List.range 2).map (lane t 4) == [0x40600000, 0xBF800000]) = true ∧
    after (.vfms 4 (.v 3) (.lit 2) .f32 0) sV (fun t => (List.range 2).map (lane t 4) == [0x40200000, 0xC0E00000]) = true ∧
    after (.vfnma 4 (.v 3) (.lit 2) .f32 0) sV (fun t => (List.range 2).map (lane t 4) == [0xC0200000, 0x40E00000]) = true := by
  decide +kernel

theorem test_vector_float_order :
    after (.vminF 5 (.v 3) (.v 4) .f32 0) sV (fun t => (List.range 3).map (lane t 5) == [0x3F000000, 0xC0000000, 0]) = true ∧
    after (.vmaxF 5 (.v 3) (.v 4) .f32 0) sV (fun t => (List.range 3).map (lane t 5) == [0x3FC00000, 0x40400000, 0x7F800000]) = true ∧
    after (.vabsF 5 (.v 3) .f32 0) sV (fun t => lane t 5 1 == 0x40000000) = true ∧
    after (.vnegF 5 (.v 3) .f32 0) sV (fun t => lane t 5 0 == 0xBFC00000) = true ∧
    after (.vclampF 3 (.lit 0) (.lit 1) .f32 0) sV (fun t => (List.range 3).map (lane t 3) == [0x3F800000, 0, 0x3F800000]) = true ∧
    after (.vrcp 5 (.v 4) .f32 0) sV (fun t => lane t 5 0 == 0x40000000 && lane t 5 2 == 0x7F800000 &&
      t.me.fpFlags &&& Fl.dz == Fl.dz) = true ∧
    after (.vrsq 5 (.lit 4) .f32 0) sV (fun t => lane t 5 0 == 0x3F000000 && t.me.fpFlags == 0) = true := by decide +kernel

theorem test_vector_exponentials :
    after (.vexp2 5 (.lit 3) .f32 0) sV (fun t => lane t 5 0 == 0x41000000) = true ∧
    after (.vlog2 5 (.lit 4) .f32 0) sV (fun t => lane t 5 0 == 0x40000000) = true := by decide +kernel

/-- The example of R184, with the codes of R71's example. -/
theorem test_vcvt_example :
    after (.vcvt 2 (.v 1) .f32 .lg6 0) (withV 1 [0x40400000, 0xBDCCCCCD, 0x3D8B4396, 0x41A00000] sM)
      (fun t => (List.range 4).map (lane t 2) == [0x06, 0x33, 0x10, 0x0F] && t.me.fpFlags == Fl.nx ||| Fl.sv) = true := by
  decide +kernel

/-- The example of R162: a typed VLD of an LG6 bank with BEXP 2. -/
theorem test_typed_load_example :
    after (.vld 1 .f32 3 0) (withW [(sp 0x20000, 0x10410410303D0CC6)] (withS [(3, 0x20000)]
        { sM with core := { sM.core with bankFmt := sM.core.bankFmt.set 2 0x205 } }))
      (fun t => (List.range 5).map (lane t 1) == [0x41350500, 0xBED74500, 0, 0x42574500, 0x7FC00000] &&
        lane t 1 9 == 0 && t.me.fpFlags == Fl.lp) = true := by decide +kernel

/-- R54's table: a VMUL at nominal start 2 is due at 6; a reader with mark 3 reads the lane before, or traps under
VEC.CHECK.EN, and one with mark 4 reads the product. -/
theorem test_delay_marks :
    after (.vmulF 3 (.lit 2) (.lit 3) .f32 2) { sV with pri := { sV.pri with nom := some 0 } } (fun u =>
      after (.vmov 4 (.v 3) 3) u (fun t => lane t 4 0 == 0x3FC00000) && after (.vmov 4 (.v 3) 4) u (fun t => lane t 4 0 == 0x40C00000) &&
      after (.vmov 4 (.v 3) 3) { u with core := { u.core with vecCheck := 1 } } (fun t => t.pri.run == .stopped &&
        t.core.hq.map (fun m => bits m[0] 0 8) == [6])) = true := by decide +kernel

theorem test_masks :
    after (.vcmp 2 (.v 3) (.v 4) .lt .f32 0) sV (fun t => t.me.m[2].val == 2 && t.me.fpFlags == Fl.nv) = true ∧
    after (.vcmp 2 (.v 1) (.v 2) .lt .n32 0) sV (fun t => t.me.m[2].val == 6) = true ∧
    after (.vcmp 2 (.v 1) (.v 2) .lt .i32 0) sV (fun t => t.me.m[2].val == 5) = true ∧
    after (.mset 4 (.lit 15) 0) sV (fun t => t.me.m[4].val == BitVec.allOnes 64) = true ∧
    after (.mset 0 (.lit 0) 0) sV (fun t => (readM 9 0 t).toOption == some (BitVec.allOnes 64)) = true ∧
    after (.mand 3 0 2 0) sV (fun t => t.me.m[3].val == 0) = true ∧ after (.mor 3 0 2 0) sV (fun t => t.me.m[3].val == BitVec.allOnes 64) = true ∧
    after (.mxor 3 0 0 0) sV (fun t => t.me.m[3].val == 0) = true ∧ after (.mnot 3 2 0) sV (fun t => t.me.m[3].val == BitVec.allOnes 64) = true ∧
    after (.mpop 6 0 0) sV (fun t => t.reg 6 == 64) = true ∧ after (.mfirst 6 2 0) sV (fun t => t.reg 6 == 64) = true := by decide +kernel

theorem test_movement :
    after (.vsel 5 1 (.v 1) (.v 2) 0) (sV.setMe { sV.me with m := sV.me.m.set 1 ⟨2, []⟩ })
      (fun t => (List.range 3).map (lane t 5) == [2, 0x7FFFFFFF, 33]) = true ∧
    after (.vperm 5 (.v 1) (.v 2) 0) sV (fun t => (List.range 4).map (lane t 5) == [1, 0, 0, 0xFFFFFFFE]) = true ∧
    after (.vbcast 5 (.v 1) (.lit 1) 0) sV (fun t => lane t 5 63 == 0x7FFFFFFF) = true ∧
    after (.vslide 5 (.v 1) (.lit 1) 0) sV (fun t => lane t 5 0 == 0x7FFFFFFF && lane t 5 63 == 0) = true ∧
    after (.viota 5 (.lit 1) 0) sV (fun t => lane t 5 63 == 64) = true ∧
    after (.vlut 5 (.lit 3) 0) { sV with core := { sV.core with k := [(3, 77)] } } (fun t => lane t 5 5 == 77) = true ∧
    after (.vext 6 (.v 1) (.lit 0) 0) sV (fun t => t.reg 6 == 0xFFFFFFFFFFFFFFFE) = true ∧
    after (.vins 5 (.v 1) (.lit 7)) sV (fun t => lane t 5 7 == 0xFFFFFFFE && lane t 5 6 == 0) = true := by decide +kernel

theorem test_reductions :
    after (.vredAdd 5 (.v 1) .i32 0) sV (fun t => lane t 5 0 == 0xFFFFFFFE && lane t 5 63 == 0xFFFFFFFE) = true ∧
    after (.vredMin 5 (.v 1) .i32 0) sV (fun t => lane t 5 9 == 0x80000000) = true ∧
    after (.vredMax 5 (.v 1) .n32 0) sV (fun t => lane t 5 9 == 0xFFFFFFFE) = true ∧
    after (.vscanAdd 5 (.lit 1) .i32 0) sV (fun t => lane t 5 0 == 1 && lane t 5 62 == 63) = true ∧
    after (.vscanMin 5 (.v 1) .n32 0) sV (fun t => (List.range 3).map (lane t 5) == [0xFFFFFFFE, 0x7FFFFFFF, 1]) = true ∧
    after (.vscanMax 5 (.v 1) .i32 0) sV (fun t => (List.range 3).map (lane t 5) == [0xFFFFFFFE, 0x7FFFFFFF, 0x7FFFFFFF]) = true ∧
    after (.vdot4 5 (.v 1) (.lit 1) .i8 0) sV (fun t => lane t 5 0 == 0xFFFFFFFB && lane t 5 3 == 0xFFFFFF80) = true ∧
    after (.vdot4 5 (.v 1) (.lit 1) .n8 0) sV (fun t => lane t 5 0 == 0x3FB) = true := by decide +kernel

/-- Rows at 0x1000 in the scratchpad; indices in v6 count down from 63. -/
def sVM : State :=
  withV 6 ((List.range 64).map fun j => BitVec.ofNat 32 (63 - j)) (withW [(sp 0x1000, 0x2222222211111111), (sp 0x10F8, 0x4444444433333333)]
    (withX [(5, 8)] (withS [(2, 0x1000)] sV)))

theorem test_vector_memory :
    after (.vld 7 .raw 2 0) sVM (fun t => lane t 7 0 == 0x11111111 && lane t 7 1 == 0x22222222 && lane t 7 63 == 0x44444444) = true ∧
    after (.vlds 7 .raw 2 0) sVM (fun t => lane t 7 0 == 0x11111111 && lane t 7 31 == 0x33333333) = true ∧
    after (.vldx 7 .raw 2 6) sVM (fun t => lane t 7 0 == 0x44444444 && lane t 7 63 == 0x11111111) = true ∧
    after (.vldb 7 .raw 2 1) sVM (fun t => lane t 7 40 == 0x22222222) = true := by decide +kernel

theorem test_vector_stores :
    after (.vst 1 .raw 2 1) sVM (fun t => t.num (sp 0x1100) 4 == 0xFFFFFFFE && t.num (sp 0x1104) 4 == 0x7FFFFFFF) = true ∧
    after (.vsts 1 .raw 2 0) (withX [(5, 0)] sVM) (fun t => t.num (sp 0x1000) 4 == 0) = true ∧
    after (.vstx 1 .raw 2 6) sVM (fun t => t.num (sp 0x10FC) 4 == 0xFFFFFFFE) = true := by decide +kernel

/-- Bank 1 holds `.i32` elements; v7 names element 3 in every lane, and v8 adds 2^30 once and 1 in every other lane. -/
def sX : State :=
  withV 8 (0x40000000 :: List.replicate 63 1) (withV 7 (List.replicate 64 3)
    (withS [(3, 0x10000)] { (withW [(sp 0x10008, 0x7000000000000000)] sM) with
      core := { sM.core with bankFmt := sM.core.bankFmt.set 1 9 } }))

theorem test_scatter_add :
    after (.vstxAdd 8 .i32 3 7) sX (fun t => t.num (sp 0x1000C) 4 == 0x7FFFFFFF && t.me.fpFlags == 0) = true := by decide +kernel

/-- Whether a register or source can be read. -/
def ok {α : Type} (r : Res α) : Bool := match r with
  | .ok _ => true
  | .error _ => false

theorem witness_VectorSources : sV.me.nom = none ∧ (sV.started 3).me.nom = some 3 ∧ sV.me.v[(1 : Fin 16)].pend = none ∧
    sV.checkDelay = false ∧ ((fun u : State => u.me.v[(3 : Fin 16)].pend = none ∧ u.checkDelay = true ∧
      shortDelay (u.me.start 3) u.me.v[(3 : Fin 16)].hist = true ∧ shortDelay (u.me.start 4) u.me.v[(3 : Fin 16)].hist = false)
      { (sV.writeV 3 0 4 (splat 1)).started 0 with core := { sV.core with vecCheck := 1 } }) ∧
    (Fmt.n32 = .n32 ∧ 0 ≤ (7 : BitVec 4).toInt) := by decide +kernel

theorem witness_VectorInteger : ok (srcV (IntTy.fmt .n32) (sV.me.start 7) sV (.v 1)) = true ∧ ok (srcV .i32 0 sV (.lit 8)) = true ∧
    ok (srcV .raw 0 sV (.k 15)) = true ∧ ok (srcV (IntTy.fmt .n32) 0 sV (.lit 7)) = true ∧ ok (readV 0 5 sV) = true := by decide +kernel

theorem witness_VectorFloat : ok (srcV (FltTy.fmt .bf16) (sV.me.start 0) sV (.lit 8)) = true ∧
    ok (srcV (FltTy.fmt .f16) 0 sV (.s 15)) = true ∧ ok (srcV (FltTy.fmt .f32) 0 sV (.v 15)) = true ∧ ok (readV 0 0 sV) = true := by
  decide +kernel

theorem witness_VectorMasks : ok (srcV (CmpTy.fmt .n32) 0 sV (.v 1)) = true ∧ ok (srcV (CmpTy.fmt .f32) 0 sV (.lit 8)) = true ∧
    ok (srcV (CmpTy.fmt .i32) 0 sV (.v 2)) = true ∧ ok (readM 0 0 sV) = true ∧ ok (readM 0 7 sV) = true := by decide +kernel

theorem witness_VectorMovement : ok (srcV .raw 0 sV (.v 1)) = true ∧ ok (readM 0 (Fin.castLE (by decide) (3 : Fin 4)) sV) = true ∧
    ok (srcInterlocked sV (.v 1)) = true ∧ ok (srcInterlocked sV (.lit 7)) = true ∧ sV.me.v[(15 : Fin 16)].pend = none ∧
    (0 ≤ ((63 : Fin 64).val : Int) + (0 : BitVec 32).toInt) ∧ ¬ (0 ≤ ((0 : Fin 64).val : Int) + (-1 : BitVec 32).toInt) := by decide +kernel

theorem witness_VectorReductions : ok (srcV (CmpTy.fmt .f32) 0 sV (.v 3)) = true ∧ ok (dotSrc 0 sV (.v 1)) = true ∧
    ok (dotSrc 0 sV (.lit 8)) = true ∧ ok (readV 0 5 sV) = true ∧ ok (srcV (VFmt.fmt .lg6) 0 sV (.v 1)) = true ∧
    CmpTy.n32 ≠ .f32 := by decide +kernel

theorem witness_VectorLoads : (∀ j, OwnScratch sVM ((VecAddr.plain 2 0x3FF).at sVM j) 4 false ∧ Clean sVM ((VecAddr.plain 2 0x3FF).at sVM j) 4) ∧
    (∀ j, OwnScratch sVM ((VecAddr.strided 2 0).at sVM j) 4 false ∧ Clean sVM ((VecAddr.strided 2 0).at sVM j) 4) ∧
    ∀ j, OwnScratch sVM ((VecAddr.splat 2 1).at sVM j) 4 false ∧ Clean sVM ((VecAddr.splat 2 1).at sVM j) 4 := by
  unfold OwnScratch Clean; decide +kernel

theorem witness_VectorLoads_indexed : (VecAddr.indexed 2 6).ready sVM ∧
    ∀ j, OwnScratch sVM ((VecAddr.indexed 2 6).at sVM j) 4 false ∧ Clean sVM ((VecAddr.indexed 2 6).at sVM j) 4 := by
  unfold VecAddr.ready OwnScratch Clean; decide +kernel

theorem witness_VectorStores : (VecAddr.indexed 2 6).store 1 .raw = some (.vstx 1 .raw 2 6) ∧ (VecAddr.indexed 2 6).ready sVM ∧
    sVM.me.v[(1 : Fin 16)].pend = none ∧ Memory.wf sVM.mem = true ∧ (VecAddr.strided 2 0).store 1 .raw = some (.vsts 1 .raw 2 0) ∧
    (∀ j, OwnScratch sVM ((VecAddr.indexed 2 6).at sVM j) 4 true) ∧ ∀ j, OwnScratch sVM ((VecAddr.strided 2 0).at sVM j) 4 true := by
  unfold VecAddr.ready OwnScratch; decide +kernel

/-- Every condition of TypedLanes, as a Bool. -/
def typedB (s : State) (va : Word) (ty : MemTy) (r : BankRef) (va0 : Word) (off : Nat) (e : Fin 64 → Nat) : Bool :=
  decide (ty ≠ .raw) && decide (s.bankAt va = some (r, va0, off)) && decide (s.bankCode r ≠ .raw) &&
    decide (s.refuses va r.x r.y = false) && decide (s.core.locks = []) && decide (s.coreStopped r.ctx r.x r.y = false) &&
    decide (∀ j : Fin 16, s.me.journal[j].state ≠ .posted) &&
    (List.finRange 64).all fun j => (match s.elt r va0 (e j : Int) with
      | .ok r' f n => decide (r' = r) && decide (f = s.bankCode r) && decide (n = e j)
      | _ => false) && !s.eltPoisoned r (s.bankCode r) (e j)

/-- Elements 1000 to 1063 of bank 1, and the last 64 of it. -/
theorem witness_TypedVectorAccess :
    typedB sX (0x10000 + BitVec.ofInt 64 ((4 : BitVec 10).toInt * 256)) .f32 ⟨0, 0, 0, 1⟩ 0x10000 1024
      (fun j => elemIndex .i32 1024 + j.val) = true ∧
    typedB sX 0x1FF00 .i32 ⟨0, 0, 0, 1⟩ 0x10000 0xFF00 (fun j => elemIndex .i32 0xFF00 + j.val) = true ∧
    sX.me.v[(1 : Fin 16)].pend = none ∧
    (List.finRange 64).all (fun j => !sX.scaleBad ⟨0, 0, 0, 1⟩ (eltOffset .i32 (1024 + j.val)) &&
      decide (sX.rowExpOor ⟨0, 0, 0, 1⟩ (eltOffset .i32 (1024 + j.val)) = none)) = true := by decide +kernel

theorem witness_VectorScatterAdd : typedB sX (sX.reg 3) .i32 ⟨0, 0, 0, 1⟩ 0x10000 0 (fun _ => 3) = true ∧ sX.fmtReg ⟨0, 0, 0, 1⟩ = 9 ∧
    Memory.wf sX.mem = true ∧ sX.me.v[(8 : Fin 16)].pend = none ∧ sX.me.v[(7 : Fin 16)].pend = none ∧
    ∀ j : Fin 64, (3 : Int) = (0 / 4 : Nat) + sX.me.v[(7 : Fin 16)].val[j].toInt := by decide +kernel

/-! ## Matrix engine, burgee arrays, copies, sequencers and streams -/

/-- A command of the primary thread with its operands. -/
def cmd (i : Instr) (a b x4 x6 : Word) : Cmd := ⟨0, .pri, 0x1000, 0, i, a, b, x4, 64, x6, 16, noLanes, none, false⟩

/-- The matrix engine with one command in its queue. -/
def withMat (c : Cmd) (s : State) : State := { s with core := { s.core with mat := ⟨[c], none, none, none⟩ } }

/-- The copy engine with one command in its queue. -/
def withCpy (c : Cmd) (s : State) : State := { s with core := { s.core with cpy := ⟨[c], none, none, none⟩ } }

/-- Tile t0 holds 3 and 5 in row 0; the two B rows at 0x2000 hold −2 and 4, and 7, in their first elements; cell 0x100 holds 100. -/
def sT : State :=
  withW [(sp 0x2000, 0x04FE), (sp 0x2040, 7)] { sM with core := { sM.core with
    tiles := [(0, 3), (1, 5)], acc := [(0x100, 100)] } }

/-- A cell of one B row of an `.i8` multiply (R208): 100 + 3·(−2) + 5·4; and saturation at the ends of an INT40 cell (R75). -/
theorem test_mma_row : (mmaRow .i8 false .int40 0x100 0 16 [0xFE, 4] 0 [(0, [3, 5], 0)] sT).cell 0x100 = 114 := by decide +kernel

theorem test_cell_saturates : (toMode .int40 (Exact.ofInt 0x8000000005)).1 = 0x7FFFFFFFFF ∧
    (toMode .int40 (Exact.ofInt (-0x8000000001))).1 = 0x8000000000 := by decide +kernel

theorem test_cells :
    after .matrixCommandStart (withMat (cmd (.accZero 1 2 0) 0x80 2 0 0x80) sT) (fun t => t.cell 0x100 == 0) = true ∧
    after .matrixCommandStart (withMat (cmd (.accRawWr 1 2 0) 0 (-1) 0 0x101) sT) (fun t => t.cell 0x101 == 0xFFFFFFFFFF) = true := by decide +kernel

theorem test_acc_commands :
    after .matrixCommandStart (withMat (cmd (.accSt 1 2 0) 0x3000 1 0 0x100) sT) (fun t => t.num (sp 0x3000) 8 == 100) = true ∧
    after .matrixCommandStart (withMat (cmd (.accLd 1 2 0) 0x2000 1 0 0x105) sT) (fun t => t.cell 0x105 == 0x04FE) = true ∧
    after .matrixCommandStart (withMat (cmd (.accMode .q40 1 2 0) 0 1 0 0x100) sT) (fun t => t.cell 0x100 == 100 * 2 ^ 24) = true ∧
    after .matrixCommandStart (withMat { cmd (.accAddv .i32 1 2 0) 0 0 0 0x100 with lanes := splat 0xFFFFFFFF } sT)
      (fun t => t.cell 0x100 == 99 && t.cell 0x13F == 0xFFFFFFFFFF) = true ∧
    after (.accRaw 7 0 0) (withX [(6, 0x100), (7, 16)] sT) (fun t => t.reg 7 == 100) = true := by decide +kernel

/-- x6 and x7 as a command of R207 needs them, and a base address of B. -/
def sQ : State := withX [(6, 0x100), (7, 3)] (withS [(8, 0x2000), (9, 0x7FFC0), (10, 4)] sT)

theorem test_matrix_accepted :
    after (.mma .m16 1 0 8 .i8 false false 0) sQ (fun t => t.core.mat.queue.length == 1 && t.core.cc[3] == 1 && t.pc == 0x1004) = true ∧
    after (.mmas .m16 1 0 8 false false 0) (withX [(6, 0x20100)] sQ) (fun t => t.core.mat.queue.length == 1) = true ∧
    after (.mma .m16 1 0 8 .i8 false false 0) (withX [(6, 0x30000)] sQ) (fun t => t.pri.run == .stopped) = true ∧
    after (.accTov .i32 5 0 0) sQ (fun t => t.me.v[5].pend == some 0) = true := by decide +kernel

theorem witness_MatrixAcceptance : MatrixReady sQ ∧ (sQ.reg 8).toNat % 64 = 0 ∧ (sQ.reg 8).toNat < 0x80000 ∧
    (sQ.reg 8).toNat / 65536 = ((sQ.reg 8).toNat + 64 * rowsOf 1 - 1) / 65536 ∧ 0x10000 / 65536 = (0x10000 + 64 * rowsOf 0 - 1) / 65536 ∧
    sQ.bankCode (sQ.bankOf sQ.core.lx.val sQ.core.ly.val (sQ.reg 8).toNat) = .raw ∧ modeOf (sQ.xreg 6) = pairMode .i8 false ∧
    modeOf ((withX [(6, 0x20100)] sQ).xreg 6) = .fp40 ∧ MatrixReady (withX [(6, 0x20100)] sQ) ∧
    (if (0 : Fin 32) = 0 then 64 else sQ.reg 0).toInt % 64 = 0 ∧
    (∀ r < 64, (sQ.reg 8 + BitVec.ofNat 64 r * (if (0 : Fin 32) = 0 then 64 else sQ.reg 0)).toNat < 0x80000 ∧
        (sQ.reg 8 + BitVec.ofNat 64 r * (if (0 : Fin 32) = 0 then 64 else sQ.reg 0)).toNat % 64 = 0) ∧
    (sQ.reg 8).toNat % 8 = 0 ∧ ok (readV (sQ.me.start 0) 5 sQ) = true ∧ sQ.core.mat.queue = [] ∧ sQ.core.mat.running = none := by
  unfold MatrixReady; decide +kernel

theorem witness_MatrixMultiply :
    (fun s : State => s.core.mat.running = none ∧ s.core.mat.queue = [cmd (.mma .m64 0 7 2 .i8 false true 0) 0 0x10000 0 0x40100] ∧
        swf 0 0 s.core.acc = true)
      (withMat (cmd (.mma .m64 0 7 2 .i8 false true 0) 0 0x10000 0 0x40100) sT) ∧ modeOf 0x40100 = .int40 ∧
    ((List.range (64 * rowsOf 1)).all fun j => decide (sT.engineOor 0 0 (0x2000 + j) = none) &&
      !sT.poisoned (ownKey sT (0x2000 + j))) = true := by decide +kernel

/-- A bank 1 of `.i32` elements, whose first is −7, and a cell of each mode. -/
def sTy : State :=
  withW [(sp 0x10000, 0xFFFFFFF9)] { sT with core := { sT.core with bankFmt := sT.core.bankFmt.set 1 9 } }

theorem test_acc_typed :
    after .matrixCommandStart (withMat (cmd (.accLd 1 2 0) 0x10000 2 0 0xFFFF) sTy)
      (fun t => t.cell 0xFFFF == 0xFFFFFFFFF9 && t.cell 0 == 0) = true ∧
    after .matrixCommandStart (withMat (cmd (.accSt 1 2 0) 0x10004 1 0 0x100) sTy) (fun t => t.num (sp 0x10000) 8 == 0x64FFFFFFF9) = true ∧
    after .matrixCommandStart (withMat (cmd (.accTov .i32 5 1 0) 0 0 0 0x100)
        { sTy with pri := { sTy.pri with v := sTy.pri.v.set 5 { sTy.pri.v[5] with pend := some 0 } } })
      (fun t => lane t 5 0 == 100 && lane t 5 1 == 0 && t.me.v[5].pend == none) = true := by decide +kernel

/-- Each command may start, at the head of the queue. -/
theorem witness_MatrixCommands_start :
    ([.tmov .row 7 7 0, .tmov .col 7 0 0, .accZero 1 2 0, .accRawWr 1 2 0, .accMode .q40 1 2 0, .accAddv .i32 1 2 0, .accLd 1 2 0,
      .accSt 1 2 0, .accTov .i32 5 1 0, .tld .row 7 1 0 0, .tld .col 7 1 2 0, .tst .row 7 1 0 0, .tst .col 7 1 2 0,
      .mma .m64 0 7 2 .i8 false true 0, .mmas .m64 0 7 2 true true 0] : List Instr).all (fun i =>
        let c := cmd i 0 0x10000 0 0x40100
        (fun s : State => decide (s.core.mat.running = none ∧ s.core.mat.queue = [c] ∧ c.instr = i)) (withMat c sT)) = true ∧
    swf 0 0 sT.core.tiles = true ∧ swf 0 0 sT.core.xr = true ∧ swf 0 0 sT.core.acc = true ∧ sT.core.tileBad = [] ∧ sT.core.accBad = [] ∧
    Memory.wf sTy.mem = true := by decide +kernel

/-- B at the last rows of the core, and elements of raw and typed banks. -/
theorem witness_MatrixCommands_operands :
    classify sTy 0x7FFC0 = .scratch 0 0 0x7FFC0 ∧ sTy.enginePoisoned 0 0 0x7FFC0 (64 * rowsOf 1) = false ∧
    sTy.rowScaleBad 0 0 0x7FFC0 = false ∧ classify sTy 0x10000 = .scratch 0 0 0x10000 ∧ classify sTy 0x2000 = .scratch 0 0 0x2000 ∧
    sTy.bankCode (sTy.bankOf 0 0 0x2000) = .raw ∧ sTy.bankCode (sTy.bankOf 0 0 0x10000) ≠ .raw ∧
    sTy.enginePoisoned 0 0 0x2000 (8 * min (2 : Word).toNat 65536) = false ∧
    (List.range (8 * min (2 : Word).toNat 65536)).all (fun j => decide (sTy.engineOor 0 0 (0x2000 + j) = none)) = true ∧
    poisonedElt (cmd (.accLd 1 2 0) 0x10000 2 0 0xFFFF) 2 sTy = false ∧ poisonedScale (cmd (.accSt 1 2 0) 0x10000 2 0 0x100) 2 sTy = false := by
  decide +kernel

/-- The 64 rows at a stride of 64 from 0x2000, and at a stride of 0, which names one row 64 times. -/
theorem witness_MatrixCommands_rows :
    (List.range 64).all (fun r => decide (classify sT (0x2000 + BitVec.ofNat 64 r * 64) = .scratch 0 0 (0x2000 + 64 * r)) &&
      decide (classify sT (0x2000 + BitVec.ofNat 64 r * 0) = .scratch 0 0 0x2000) && !sT.rowScaleBad 0 0 (0x2000 + 64 * r)) = true ∧
    sT.enginePoisoned 0 0 0x2000 4096 = false ∧ (∀ r < 64, (0x2000 + 64 * r) % 64 = 0) ∧
    (List.range 4096).all (fun j => decide (sT.engineOor 0 0 (0x2000 + j) = none)) = true ∧
    (∀ r' < 64, 63 < r' → (Loc.scratch sT.ctxNo 0 0 (0x2000 + 64 * r')).key ≠ (Loc.scratch sT.ctxNo 0 0 (0x2000 + 64 * 63)).key) := by
  decide +kernel

/-- A command that may complete, and one that still owes matrix-cycles above the ramp bound (R411). -/
theorem witness_MatrixCommands_end :
    (fun s : State => s.core.mat.running = some (cmd .nop 0 0 0 0) ∧ s.core.counted = [⟨3, (cmd .nop 0 0 0 0).id, false⟩] ∧
      s.power.rampOwed ≤ s.rampRoom)
      { sT with core := { sT.core with mat := ⟨[], some (cmd .nop 0 0 0 0), none, none⟩, counted := [⟨3, 0, false⟩] } } ∧
    (fun s : State => s.rampRoom < s.power.rampOwed) { sT with power := { sT.power with rampOwed := 4096, ramp := 700 } } := by decide +kernel

theorem test_matrix_complete :
    after .matrixCommandComplete { sT with core := { sT.core with
        mat := ⟨[], some (cmd .nop 0 0 0 0), none, none⟩, counted := [⟨3, 0, false⟩], cc := sT.core.cc.set 3 1
        locks := [⟨0, 0, 0, 0, 0, 0, 63, false, none, false⟩, ⟨1, 0, 0, 0, 1, 64, 127, true, none, false⟩] } }
      (fun t => t.core.mat.running == none && t.core.cc[3] == 0 && t.core.locks.map Lock.cmd == [1]) = true := by decide +kernel

/-- A graph image at 0x3000: one node, a + b, declared latency 2, two operands (R217 to R219). -/
def sG : State := withW [(sp 0x3000, 0x0000000700022001), (sp 0x3028, 0x09864000)] (withS [(11, 0x3000)] sV)

theorem test_burgee :
    after (.cxload 5 11) sG (fun u => after (.cx 5 6 (.v 1) (.v 2) 0) u (fun t => (List.range 3).map (lane t 6) == [0, 0x7FFFFFFE, 34]) &&
      after (.cxevict 5) u (fun t => t.graphOf 5 == none) && after (.cxqry 7 5) u (fun t => t.reg 7 != 0) &&
      after (.cx 6 6 (.v 1) (.v 2) 0) u (fun t => t.pri.run == .stopped)) = true ∧
    after (.cxload 5 11) (withW [(sp 0x3000, 0)] sG) (fun t => t.core.hq.map (fun m => (bits m[0] 0 8, m[2])) == [(1, 0x3000)]) = true ∧
    after (.cxqry 7 5) sG (fun t => t.reg 7 == 0) = true ∧ after (.cxldr 11) sG (fun t => t.core.cxLdr == 0x3000) = true := by decide +kernel

theorem witness_BurgeeInstructions : sG.graphOf 5 = none ∧ (sG.reg 1).toNat % 64 = 0 ∧ (sG.reg 3).toNat % 64 ≠ 0 ∧
    sG.slotOf 63 = none ∧ sG.freeSlot ≠ none ∧ OwnScratch sG (sG.reg 11) 512 false ∧ Clean sG (sG.reg 11) 512 ∧
    imgFails (sG.bytes (ownKey sG 0x3000) 256) = [] ∧ (imgFails (sM.bytes (ownKey sM 0x3000) 256)).min? = some 0 := by
  unfold OwnScratch Clean; decide +kernel

/-- A loaded graph, and its three sources. -/
theorem witness_BurgeeInstructions_loaded : after (.cxload 0 11) sG (fun u => (u.slotOf 0).isSome && match u.graphOf 0 with
    | some g => ok (cxSrc (g.uses 0x18) (u.me.start 0) (.v 1) u) &&
        ok (cxSrc (decide (2 ≤ g.nops) && g.uses 0x19) (u.me.start 0) (.lit 1) u) &&
        ok (cxSrc (decide (g.nops = 3) && g.uses 0x1A) (u.me.start 0) (cxThird u) u)
    | none => false) = true := by decide +kernel

theorem test_copies :
    after (.cpy 8 9) (withX [(4, 64), (7, 0)] sQ) (fun t => t.core.cpy.queue.length == 1 && t.core.cc[0] == 1 && t.core.locks.length == 2) = true ∧
    after (.cpy2d 8 9) (withX [(4, 0x200000040), (5, 64), (7, 16)] (withS [(9, 0x30000)] sQ)) (fun t => t.core.cpy.queue.length == 1) = true ∧
    after (.cpy 8 9) (withX [(4, 0x100000000)] sQ) (fun t => t.pri.run == .stopped) = true ∧
    after .copyCommandStart (withCpy (cmd (.cpy 8 9) 0x2001 0x2000 2 0) sQ) (fun t => t.num (sp 0x2000) 4 == 0x04FEFE) = true ∧
    after .copyCommandComplete { sQ with core := { sQ.core with cpy := ⟨[], some (cmd (.cpy 8 9) 0 0 0 0), none, none⟩ } }
      (fun t => t.core.cpy.running == none) = true := by decide +kernel

theorem witness_Copies_accepted :
    (fun s : State => x4ok false (s.xreg 4) = true ∧ x7ok (s.xreg 7) = true ∧ ok (copyAddr (s.reg 9) s) = true ∧
        ok (copyAddr (s.reg 8) s) = true ∧ s.core.cpy.queue.length < 16 ∧
        (∀ j : Fin 16, s.me.journal[j].waits = false) ∧ s.core.l1 = [] ∧
        (∀ k, counterOf (s.xreg 7) = some k → s.core.cc[k] ≠ 255) ∧
        (fun c => ok (checkMode false c s) = true ∧ ok (checkRows (copyMode (s.xreg 4)) s (copyRows false c)) = true ∧
          (registerLocks s.core.cmdCtr (counterOf (s.xreg 7)) (copyRanges (copyMode (s.xreg 4)) s (copyRows false c)) s.core.locks).isSome = true)
          (captured s (.cpy 8 9) (s.reg 8) (s.reg 9) noLanes)) (withX [(4, 64), (7, 0)] sQ) ∧
    x4ok true 0x200000040 = true := by decide +kernel

/-- An empty L1 holds no dirty byte. -/
theorem witness_Copies_clean (k : Nat) : sQ.farDirty k = false := by
  have e : sQ.core.l1 = [] := rfl
  simp [State.farDirty, State.dirty, State.l1, e, sget]

theorem witness_Copies_plain :
    (fun s : State => s.core.cpy.running = none ∧ s.core.cpy.queue = [cmd (.cpy 8 9) 0x2001 0x2000 2 0] ∧ Memory.wf s.mem = true ∧
      s.codeAt 0x2000 = .raw ∧ 0x2003 ≤ s.allotment ∧
      s.coreStopped s.ctxNo s.core.lx.val s.core.ly.val = false) (withCpy (cmd (.cpy 8 9) 0x2001 0x2000 2 0) sQ) ∧
    copyMode 2 = .plain ∧ 0 < bits 2 0 32 ∧ Clean sQ 0x2000 2 := by
  unfold Clean; decide +kernel

theorem test_engine_control :
    after (.ccRead 7 3) { sQ with core := { sQ.core with cc := sQ.core.cc.set 3 9 } } (fun t => t.reg 7 == 9) = true ∧
    after (.ccWait 3 10) { sQ with core := { sQ.core with cc := sQ.core.cc.set 3 3 } } (fun t => t.pc == 0x1004) = true ∧
    after (.ccWait 3 0) { sQ with core := { sQ.core with cc := sQ.core.cc.set 3 1 } } (fun t => t.pc == 0x1000 && t.pri.wake.kind != 0) = true ∧
    after (.rlQry 7 8) sQ (fun t => t.reg 7 == 0x1000000000000000) = true ∧
    after (.rlQry 7 8) (withS [(8, 0x80000)] sQ) (fun t => t.reg 7 == 0 && t.core.scrErr == 0x8200000000080000) = true ∧
    after (.fork .both) (withX [(2, 0x100), (3, 0x200)] sQ)
      (fun t => t.core.mseq.pc == 0x100 && t.core.cseq.pc == 0x200 && t.core.mseq.running && t.core.cc[3] == 2) = true ∧
    after .rdv sQ (fun t => t.pc == 0x1004) = true ∧
    after .rdv { sQ with pri := { sQ.pri with forkC := true } } (fun t => t.pc == 0x1000) = true := by decide +kernel

theorem witness_EngineControl :
    (fun s : State => s.core.cpy.running = some (cmd (.cpy 8 9) 0 0 0 0) ∧ s.core.cpy.parked = none ∧
      copyMode (cmd (.cpy 8 9) 0 0 0 0).x4 ≠ .ring)
      { sQ with core := { sQ.core with cpy := ⟨[], some (cmd (.cpy 8 9) 0 0 0 0), none, none⟩ } } ∧
    sQ.core.cc[(3 : Fin 16)].toNat < max 1 (sQ.reg 0).toNat ∧
    max 1 (sQ.reg 10).toNat ≤ ({ sQ with core := { sQ.core with cc := sQ.core.cc.set 3 4 } } : State).core.cc[(3 : Fin 16)].toNat ∧
    (sQ.reg 9).toNat < 0x80000 ∧ (sQ.reg 9).toNat < sQ.allotment ∧ sQ.core.locks = [] ∧ x7ok (sQ.xreg 7) = true ∧
    (∀ k ∈ forked .both, (sQ.startOf k).getLsbD 0 = false ∧ (sQ.seqr k).running = false) ∧
    sQ.counterRoom (counterOf (sQ.xreg 7)) (forked .both).length = true ∧
    SeqId.copy ∉ forked .matrix ∧ SeqId.matrix ∉ forked .copy ∧
    sQ.me.forkM = false ∧ sQ.me.forkC = false := by decide +kernel

/-- A sequencer at 0x1000010, where `add s2, s2, #4` (0xC0122C80) stands, high parcel first. -/
def sS : State :=
  withW [(0x400010, 0x2C80C012)] { sQ with core := { sQ.core with
    cseq := { sQ.core.cseq with running := true, pc := 0x1000010, owner := .pri } } }

theorem test_sequencer :
    after (.sequencerStep .copy) sS (fun t => t.core.cseq.pc == 0x1000014 && t.core.cseq.s[2] == 4 && t.reg 2 == 0x40) = true ∧
    after (.sequencerStep .matrix) sS (fun t => t.core.mseq.pc == 0) = true := by decide +kernel

/-- A record at 0x4000 for the copy sequencer: PC 0x1000010, one operand word at 0x40, PARAM 9. -/
def sR : State := withW [(sp 0x4000, 0x1000010), (sp 0x4008, 2), (sp 0x4010, 0x40), (sp 0x4038, 9)] (withS [(12, 0x4000)] sQ)

/-- The same with the record accepted and its operand word full. -/
def sD : State :=
  { sR.setTag (sp 0x40) true with
    tasks := [(0, some ⟨#v[0x1000010, 2, 0x40, 0, 0, 0, 0, 9], 0, none, 0, 0, none, none, none⟩)] }

/-- The same sequencer at another word. -/
def sqAt (w : Word) : State := { sS with mem := (sS.setWord 0x400010 w).mem }

/-- EXIT (0xCC00000C) with no command outstanding, and `li s2, #4` (0xC4100020). -/
theorem test_sequencer_steps :
    after (.sequencerStep .copy) (sqAt 0x000CCC00) (fun t => !t.core.cseq.running && t.pri.run == .running) = true ∧
    after (.sequencerStep .copy) (sqAt 0x0020C410) (fun t => t.core.cseq.running && t.core.cseq.s[2] == 4) = true := by decide +kernel

/-- The instruction that the copy sequencer fetches meets a check, in the state after its fetch. -/
def fetchesSeq (s : State) (p : Instr → State → Bool) : Bool :=
  match fetchAt (s.seqr .copy).pc s with
  | .ok (.instr i _, s1) => (s.seqr .copy).running && decide ((s.seqr .copy).parked = none) && p i s1
  | _ => false

theorem witness_SequencersAndTasks_steps : (sS.seqr .matrix).running = false ∧
    fetchesSeq (sqAt 0x000CCC00) (fun i s1 => decide (i = .exit) && !s1.hasCommands (seqAgent .copy) &&
      decide ((s1.seqr .copy).record = none)) = true ∧
    fetchesSeq (sqAt 0x0020C410) (fun i s1 => (seqResult i (s1.asSeq (s1.seqr .copy))).isSome) = true ∧
    fetchesSeq sS (fun i s1 => (seqResult i (s1.asSeq (s1.seqr .copy))).isSome) = true := by decide +kernel

theorem test_tasks :
    after (.ttEnq 7 12) sR (fun t => t.reg 7 == 0 && (t.task 0).isSome) = true ∧
    after (.taskRecordDispatch 0) sD (fun t => t.core.cseq.running && t.core.cseq.x[0] == 9 && t.core.cseq.pc == 0x1000010) = true ∧
    after (.taskRecordDispatch 0) (sD.setTag (sp 0x40) false) (fun t => !t.core.cseq.running) = true ∧
    after (.datapathErrorReplay 0) { sD with
        tasks := [(0, some ⟨#v[0x1000010, 2, 0x40, 0, 0, 0, 0, 9], 0, none, 0, 1, some .copy, none, none⟩)]
        core := { sD.core with cseq := { sD.core.cseq with running := true, record := some 0 } } }
      (fun t => !t.core.cseq.running && (t.task 0).map (fun w => (w.on, w.avoid, w.dispatched)) == some (none, some 0, 1)) = true ∧
    after (.rangeLockReissue .pri) { sQ with pri := { sQ.pri with run := .lockWait, wake := ⟨33, false, 0, 0x40, 0x4000000040⟩ } }
      (fun t => t.pri.run == .running && t.pc == 0x1000) = true := by decide +kernel

theorem witness_SequencersAndTasks :
    (sS.seqr .matrix).running = false ∧ (sS.seqr .copy).running = true ∧ (sS.seqr .copy).parked = none ∧
    (match fetchAt (sS.seqr .copy).pc sS with
      | .ok (.instr i _, s1) => (match seqPerform (seqAgent .copy) i (s1.asSeq (s1.seqr .copy)) with
          | some (.ok _) => decide (i = .add false 2 (.s 2) (.lit 4))
          | _ => false) && (seqPerform (seqAgent .copy) .rdv (s1.asSeq (s1.seqr .copy))).isNone
      | _ => false) = true ∧
    (sR.reg 12).toNat % 64 = 0 ∧ OwnScratch sR (sR.reg 12) 64 false ∧ Clean sR (sR.reg 12) 64 ∧
    recordOk (Vector.ofFn fun j => sR.word (ownKey sR (sR.reg 12).toNat + 8 * j.val)) = true ∧
    (0x40 % 8 = 0 ∧ 0x40 + 8 ≤ 0x80000 ∧ 0x48 ≤ sR.allotment) ∧ sR.freeRecord = some 0 ∧
    { sR with tasks := (List.range 64).map fun j => (j, some ⟨#v[0, 1, 0, 0, 0, 0, 0, 0], 0, none, 0, 0, none, none, none⟩) }.freeRecord = none ∧
    (sD.task 0).isSome = true ∧ sD.dispatchTo 0 = some sD.place ∧ swf none 0 sD.tasks = true ∧
    (fun s : State => s.dispatchTo 0 = some 1 ∧ s.place ≠ 1) { sD with core := { sD.core with cseq := { sD.core.cseq with running := true } } } := by
  unfold OwnScratch Clean; decide +kernel

theorem witness_SequencersAndTasks_replay :
    (fun w : Task => w.on = some .copy ∧ w.eff = 0 ∧ w.dispatched < 3)
      ⟨#v[0x1000010, 2, 0x40, 0, 0, 0, 0, 9], 0, none, 0, 2, some .copy, none, none⟩ ∧
    (fun s : State => (s.th .pri).run = .lockWait ∧ s.core.locks = []) { sQ with pri := { sQ.pri with run := .lockWait } } := by
  decide +kernel

/-- A descriptor at 0x4000: two tiles of two rows of 32 bytes from 0x1000000, no write-out, two slots at 0x6000 (R307). -/
def sU : State :=
  withW [(sp 0x4000, 0x1000000), (sp 0x4010, 64), (sp 0x4018, 32), (sp 0x4020, 0x200000020), (sp 0x4028, 2), (sp 0x4030, 0x02006000),
    (0x400000, 0xAB)] (withS [(12, 0x4000)] ctx0)

/-- The subscription that SUB.OPEN makes of it. -/
def sub0 (desc : Vector Word 8) (slots : List (SlotState × Nat)) (take give : Nat) : Sub :=
  ⟨desc, 0, slots, take, give, false, .pri, 0x1000, none⟩

def desc0 : Vector Word 8 := #v[0x1000000, 0, 64, 32, 0x200000020, 2, 0x02006000, 0]
/-- The same with a write-out, and with no fill. -/
def desc1 : Vector Word 8 := #v[0, 0x1010000, 64, 32, 0x200000020, 2, 0x02006000, 0]

def withSub (u : Sub) (s : State) : State := { s with core := { s.core with subs := s.core.subs.set 0 (some u) } }

theorem test_streams :
    after (.subOpen 7 12) sU (fun t => t.reg 7 == 0 && t.core.subs[0] == some (sub0 desc0 [(.empty, 0), (.empty, 1)] 0 0)) = true ∧
    after (.slotFillStart 0 0) (withSub (sub0 desc0 [(.empty, 0), (.empty, 1)] 0 0) sU)
      (fun t => t.core.subs[0] == some (sub0 desc0 [(.filling, 0), (.empty, 1)] 0 0)) = true ∧
    after (.slotFilled 0 0) (withSub (sub0 desc0 [(.filling, 0), (.empty, 1)] 0 0) sU)
      (fun t => t.word (sp 0x6000) == 0 && t.tag (sp 0x6000) && t.byte (sp 0x6008) == 0xAB) = true ∧
    after (.slotFilled 0 1) (withSub (sub0 desc0 [(.taken, 0), (.filling, 1)] 1 0) sU)
      (fun t => t.word (sp 0x6080) == 0x8000000000000001) = true ∧
    after (.slotTake 7 0) (withSub (sub0 desc0 [(.full, 0), (.empty, 1)] 0 0) sU)
      (fun t => t.reg 7 == 0x6000 && t.core.subs[0] == some (sub0 desc0 [(.taken, 0), (.empty, 1)] 1 0)) = true ∧
    after (.slotTake 7 0) (withSub (sub0 desc0 [(.empty, 0), (.empty, 1)] 0 0) sU) (fun t => t.pri.wake.kind == 9) = true := by decide +kernel

theorem test_streams_give :
    after (.slotGive 0 13) (withS [(13, 0x6000)] (withSub (sub0 desc0 [(.taken, 0), (.empty, 1)] 1 0) sU))
      (fun t => t.core.subs[0] == some (sub0 desc0 [(.empty, 2), (.empty, 1)] 1 1)) = true ∧
    after (.slotWriteoutDone 0 0) (withSub (sub0 desc1 [(.writing, 0), (.empty, 1)] 1 1) (withW [(sp 0x6008, 0x77)] sU))
      (fun t => t.byte 0x410000 == 0x77 && t.core.subs[0] == some (sub0 desc1 [(.empty, 2), (.empty, 1)] 1 1)) = true ∧
    after (.subClose 0) (withSub (sub0 desc0 [(.taken, 0), (.empty, 1)] 1 0) sU) (fun t => t.core.subs[0] == none) = true ∧
    after (.subClose 0) (withSub (sub0 desc1 [(.writing, 0), (.empty, 1)] 1 1) sU)
      (fun t => t.pri.wake.kind == 32 && (t.core.subs[0].map Sub.closing) == some true) = true ∧
    after (.subClose 0) sU (fun t => t.pri.run == .stopped) = true := by decide +kernel

theorem witness_Streams_instructions : sU.attached = false ∧ (sU.reg 12).toNat % 64 = 0 ∧ OwnScratch sU (sU.reg 12) 64 false ∧
    Clean sU (sU.reg 12) 64 ∧ Quiet sU ∧
    (fun w : Vector Word 8 => descOk sU w = true ∧ ringOk sU w = true)
      (Vector.ofFn fun j => sU.word (ownKey sU (sU.reg 12).toNat + 8 * j.val)) ∧
    descOk sU #v[0, 0, 0, 0, 0, 0, 0, 0] = false ∧ sU.freeEntry = some 0 ∧
    { sU with core := { sU.core with subs := Vector.replicate 8 (some (sub0 desc0 [] 0 0)) } }.freeEntry = none ∧
    (match baseDie desc0 sU with
      | .ok (die, _) => decide (die = 0) && decide (sU.freeStream die = some 0) &&
          decide ({ sU with streams := Vector.replicate 32 32 }.freeStream die = none)
      | .error _ => false) = true ∧
    entryOf 0 = 0 ∧ sU.core.subs[(0 : Fin 8)] = none ∧ swf false 0 sU.tags = true := by
  unfold OwnScratch Clean Quiet; decide +kernel

theorem witness_Streams_slots :
    (fun u : Sub => u.written = true ∧ u.take ≠ u.tiles ∧ u.slot (u.slotOf u.take) = (.full, u.take))
      (sub0 desc0 [(.full, 0), (.empty, 1)] 0 0) ∧
    (fun u : Sub => u.take = u.tiles) (sub0 desc0 [(.empty, 2), (.empty, 3)] 2 2) ∧
    (fun u : Sub => u.take ≠ u.tiles ∧ u.slot (u.slotOf u.take) ≠ (.full, u.take)) (sub0 desc0 [(.empty, 0), (.empty, 1)] 0 0) ∧
    (fun u : Sub => u.givable 0x6000 = true ∧ u.givable 0x6080 = false ∧ u.desc[1] = 0) (sub0 desc0 [(.taken, 0), (.empty, 1)] 1 0) ∧
    (fun u : Sub => ∃ x ∈ u.slots, x.1 = .writing) (sub0 desc1 [(.writing, 0), (.empty, 1)] 1 1) ∧
    (fun u : Sub => u.givable 0x6000 = true ∧ u.desc[1] ≠ 0) (sub0 desc1 [(.taken, 0), (.empty, 1)] 1 0) := by decide +kernel

theorem witness_Streams_events :
    (fun u : Sub => u.slots[1]? = some (.empty, 1) ∧ 1 < u.tiles ∧ u.slots[0]? = some (.empty, 2) ∧ ¬ 2 < u.tiles) (sub0 desc0 [(.empty, 2), (.empty, 1)] 1 1) ∧
    (fun u : Sub => (u.slot 0).1 = .filling ∧ u.parked = none ∧ u.desc[0] ≠ 0 ∧ Memory.wf sU.mem = true ∧
      (match tileBytes' u (u.slot 0).2 u.rows (withSub u sU) with
        | .ok (_, s1) => Memory.wf s1.mem && swf false 0 s1.tags
        | _ => false) = true) (sub0 desc0 [(.filling, 0), (.empty, 1)] 0 0) ∧
    (fun u : Sub => (u.slot 0).1 = .filling ∧ u.parked = none ∧ u.desc[0] = 0) (sub0 desc1 [(.filling, 0), (.empty, 1)] 0 0) ∧
    (fun u : Sub => (u.slot 0).1 = .writing ∧ u.parked = none ∧
      (match writeRows u 0 (u.slot 0).2 u.rows (withSub u sU) with
        | .ok s1 => swf false 0 s1.tags
        | _ => false) = true) (sub0 desc1 [(.writing, 0), (.empty, 1)] 1 1) := by decide +kernel

/-! ## Launches, channels, events, control registers and traps -/

/-- An object at 0x1040000 (R364 to R366): a CODE section of one line, and a PLAN section of one plan whose entry sends 16
bytes from window 1 of core (0, 0) to window 2 of it by route 3, at START 5. -/
def objWords : List (Nat × Word) :=
  [(0x440000, 0x131424C4F), (0x440010, 512 + 2420), (0x440018, 0x10002), (0x440020, 64), (0x440028, 128), (0x440030, 512),
    (0x440040, 1), (0x440050, 192), (0x440058, 64), (0x440060, 6), (0x440070, 256), (0x440078, 64),
    (0x440080, 0xFFFFFFFF00000000), (0x440088, 0x1FFFFFFFF), (0x440100, 0x0001000000000064), (0x440110, 0x0300001000000005),
    (0x440118, 0x400), (0x440120, 0x800)]

/-- A LAUNCH packet for it: one core, SUCC, 512 KiB, with a coverage map at 0x1010000 over four grains, or none (R353). -/
def packet0 (map : Bool) : Vector Word 16 :=
  if map then #v[0, 0, 0x1040000, 0x40000000, 0x1040000, 0x40000200004, 0x40000200001, 0x200001, 0, 0x1010000, 0, 0x2000000, 0, 0, 0, 0]
  else #v[0, 0, 0x1040000, 0x40000000, 0x1040000, 0, 0, 0, 0, 0, 0, 0x2000000, 0, 0, 0, 0]

def launch0 (map : Bool) : Launch :=
  ⟨1, 0, 2, 5, packet0 map, .running, none, false, none, false, false, 0, none, { RangeUnit.reset with ranges := [(0, 4)] }, [], [], [], []⟩

/-- Core (0, 0) runs that launch alone; windows 1 and 2 are open. -/
def sLn (map : Bool) : State :=
  withW objWords { ctx0 with
    launches := [launch0 map]
    core := { ctx0.core with
      launch := some 1
      lnPos := 0x1040000000
      windows := (ctx0.core.windows.set 1 (some (0x1000, 64))).set 2 (some (0x2000, 64)) } }

/-- The same while the exchange of plan 0 runs. -/
def sExch : State :=
  { sLn false with launches := [{ launch0 false with arrived := true, exch := some ⟨0, (sLn false).core.windows, []⟩ }] }

/-- The auxiliary thread performs. -/
def asAux (s : State) : State := { s with cur := .aux, aux := { s.aux with run := .running, pc := 0x2000 } }

/-- The tuner of the launch performs (LN.POS[45]). -/
def sTun : State := asAux { sLn true with core := { (sLn true).core with lnPos := 0x201040000000 } }

/-- The launch has 65 KiB: bank 1 of `.i32` elements with row scales begins in it, and its row exponents lie beyond. -/
def sSmall : State :=
  { sLn false with
    launches := [{ launch0 false with packet := (packet0 false).set 11 0x410000 }]
    core := { (sLn false).core with bankFmt := (sLn false).core.bankFmt.set 1 0x10009 } }

/-- The exponents read as zero, and SCR.ERR names the first one (R80, R141, R142); RL.QRY beyond the allotment. -/
theorem test_exponents_beyond :
    after (.vld 7 .f32 3 0) (withS [(3, 0x10000)] sSmall) (fun t => t.core.scrErr == 0x810000000001FC00) = true ∧
    after (.rlQry 7 3) (withS [(3, 0x10800)] sSmall) (fun t => t.reg 7 == 0 && t.core.scrErr == 0x8100000000010800) = true := by decide +kernel

theorem witness_TypedVectorAccess_exponents :
    typedB sSmall 0x10000 .f32 ⟨0, 0, 0, 1⟩ 0x10000 0 (fun j => j.val) = true ∧ sSmall.core.scrErr.getLsbD 63 = false ∧
    sSmall.rowExpOor ⟨0, 0, 0, 1⟩ (eltOffset .i32 63) ≠ none ∧
    (List.finRange 64).all (fun j => !sSmall.scaleBad ⟨0, 0, 0, 1⟩ (eltOffset .i32 j.val)) = true := by decide +kernel

theorem witness_EngineControl_beyond : classify sSmall 0x80000 = .gap ∧ sSmall.allotment ≤ (0x10800 : Word).toNat ∧
    (0x10800 : Word).toNat < 0x80000 ∧ (0x103FF : Word).toNat < sSmall.allotment ∧ ∀ j : Fin 16, sSmall.me.journal[j].waits = false := by
  decide +kernel

theorem test_supersteps :
    after .sstep (sLn false) (fun t => t.pri.wake.kind == 14 && t.launches.map Launch.arrived == [true] && t.pc == 0x1000) = true ∧
    after .sstep (asAux (sLn false)) (fun t => t.core.hq.map (fun m => bits m[0] 0 8) == [2]) = true ∧
    after .barrierTreeComplete { sLn false with launches := [{ launch0 false with arrived := true }] }
      (fun t => t.launches.map (fun l => l.exch.map Exchange.plan) == [some 0]) = true ∧
    after (.exchangeTransferBegin 0) sExch
      (fun t => t.fabric.length == 2 && t.launches.map (fun l => l.exch.map Exchange.begun) == [some [0]]) = true ∧
    after .exchangeStepEnd { sExch with launches := sExch.launches.map fun l => { l with exch := l.exch.map fun x => { x with begun := [0] } } }
      (fun t => t.launches.map Launch.released == [true]) = true := by decide +kernel

theorem test_tasks_and_cover :
    after (.taskNext 7) (sLn true) (fun t => t.reg 7 == 0 && t.launches.map (fun l => l.range.ranges) == [[(1, 4)]]) = true ∧
    after (.taskNext 7) (sLn false) (fun t => t.reg 7 == 0x8000000000000000) = true ∧
    after (.coverClaim 7 1) (withS [(1, 2)] (sLn true)) (fun t => t.reg 7 == 1 && t.word 0x410000 == 0x10) = true ∧
    after (.coverDone 1 2) (withS [(1, 2), (2, 1)] (withW [(0x410000, 0x10)] (sLn true))) (fun t => t.word 0x410000 == 0x30) = true ∧
    after (.coverYield 1 2) (withS [(1, 2), (2, 1)] (withW [(0x410000, 0x10)] (sLn true))) (fun t => t.word 0x410000 == 0) = true ∧
    after (.coverClaim 7 1) (withS [(1, 4)] (sLn true)) (fun t => t.reg 7 == 0) = true := by decide +kernel

theorem test_hoists :
    after (.hrd 7 0) { sLn true with core := { (sLn true).core with view := defaultHoist } } (fun t => t.reg 7 == 0xE4) = true ∧
    after (.hrd 7 14) (sLn true) (fun t => t.reg 7 == 0) = true ∧
    after (.hwr 4 1) (withS [(1, 2)] sTun) (fun t => t.launches.map (fun l => l.range.pending[4]) == [2]) = true ∧
    after (.hcommit 7) sTun (fun t => t.reg 7 == 0 && t.launches.map (fun l => l.range.gen) == [1] && t.core.viewGen == 1) = true ∧
    after (.hcommit 7) (sLn true) (fun t => t.core.hq.map (fun m => bits m[0] 0 8) == [2]) = true ∧
    after .taskRequestReserve { sLn true with pri := { (sLn true).pri with wake := ⟨10, false, 0, 0, 0⟩ } } (fun t => t.pri.retry) = true := by
  decide +kernel

theorem witness_Supersteps : (sLn false).runLaunch = some (launch0 false) ∧ (sLn false).attached = false ∧
    (∀ m ∈ (sLn false).launches, m.id = (launch0 false).id → m = launch0 false) ∧ (sLn false).cur = .pri ∧
    (sLn false).me.wake.kind ≠ 14 ∧ Quiet (sLn false) ∧ (asAux (sLn false)).cur = .aux ∧ (launch0 false).exch = none ∧
    (sLn false).barrierReady { launch0 false with arrived := true } = true ∧ (sLn false).barrierReady (launch0 false) = false ∧
    ((sLn false).planEntries (launch0 false) 0).any (sLn false).exceeds = false ∧ sExch.landedAll 0 = true := by
  unfold Quiet; decide +kernel

theorem witness_Supersteps_exchange : ((sExch.planEntries (launch0 false) 0).map fun p =>
      startable (sExch.planEntries (launch0 false) 0) ⟨0, sExch.core.windows, []⟩ p 0 && sExch.isHere p.sx p.sy &&
        decide (sExch.core.windows[p.swin] = some (0x1000, 64)) &&
        !sExch.coreStopped 0 (sExch.rectCore (launch0 false) p.sx p.sy).1 (sExch.rectCore (launch0 false) p.sx p.sy).2) = [true] ∧
    (fun l : Launch => l.released = true ∧ (⟨14, true, 0, 0, 0⟩ : Wake).done = true) { launch0 false with released := true } := by
  decide +kernel

/-- What the range unit answers a request with. -/
def served (l : Launch) (s : State) : Nat :=
  match serveTask s.launchIndex l s with
  | .none => 0
  | .wait => 1
  | .tile _ _ => 2

/-- Every answer of the range unit: a tile; none, with every grain Done; and a wait, with every grain Taken by others. -/
theorem witness_TasksAndCover_served : (sLn true).cur = .pri ∧ (sLn true).runLaunch = some (launch0 true) ∧ (launch0 true).hasMap = true ∧
    (launch0 false).hasMap = false ∧ (sLn true).attached = false ∧ (sLn true).core.viewGen < 1 ∧ served (launch0 true) (sLn true) = 2 ∧
    served { launch0 true with range := { (launch0 true).range with done := 4 } } (sLn true) = 0 ∧
    served { launch0 true with range := { (launch0 true).range with ranges := [(4, 4)] } } (withW [(0x410000, 0x55)] (sLn true)) = 1 ∧
    (asAux (sLn true)).cur = .aux ∧ ctx0.runLaunch = none := by decide +kernel

/-- Tokens: of tile 3, the last; of tile 4, which does not exist; of another generation; and with a reserved bit. -/
theorem witness_TasksAndCover_tokens : badToken 3 = false ∧ bits 3 32 16 = (launch0 true).range.gen % 65536 ∧
    bits 3 0 32 < tileCount (launch0 true).packet (launch0 true).range.hoist ∧
    tileCount (launch0 true).packet (launch0 true).range.hoist ≤ bits 4 0 32 ∧ bits 0x100000000 32 16 ≠ 0 ∧
    badToken 0x8000000000000000 = true ∧
    ok (mapKeys (launch0 true) (tileGrains (launch0 true).packet (launch0 true).range.hoist 3) (sLn true)) = true := by decide +kernel

/-- A token whose grain is Taken, with the bit of local index 0. -/
theorem witness_TasksAndCover_done : Quiet (sLn true) ∧ ((launch0 true).range.hoistOf 0).isSome = true ∧
    ((List.range 64).all fun i => !((1 : Word).getLsbD i) || (tileGrain (launch0 true).packet defaultHoist 2 i).isSome) = true ∧
    (match mapKeys (launch0 true) ((tileGrains (launch0 true).packet defaultHoist 2).filter fun x => (1 : Word).getLsbD x.1)
        (withW [(0x410000, 0x10)] (sLn true)) with
      | .ok (ks, s1) => decide (ks.length = 1) && ks.all fun x => decide (s1.grainAt x = 1)
      | .error _ => false) = true := by
  unfold Quiet; decide +kernel

/-- Register numbers 13, 14 and 15, and both states of the pending hoist and of TPREV. -/
theorem witness_HoistRegisters : (∀ m ∈ (sLn true).launches, m.id = (launch0 true).id → m = launch0 true) ∧
    (sLn true).runLaunch = some (launch0 true) ∧ sTun.runLaunch = some (launch0 true) ∧ sTun.cur = .aux ∧
    sTun.core.lnPos.getLsbD 45 = true ∧ (sLn true).core.lnPos.getLsbD 45 = false ∧ (13 : Fin 16).val < 14 ∧ 14 ≤ (14 : Fin 16).val ∧
    hoistCode (launch0 true).range.pending = 0 ∧ (launch0 true).range.tprev = 0 ∧
    hoistCode ((launch0 true).range.pending.set 0 0) ≠ 0 ∧ 0 < { (launch0 true).range with tprev := 1 }.tprev ∧
    ctx0.runLaunch = none := by decide +kernel

/-- Route 5 of the core delivers to channel 3 and route 6 forwards east as route 7 (R328); channels 3 and 4 hold payloads. -/
def sC : State :=
  withS [(1, 0x1122), (2, 0x2A05)] { ctx0 with
    routes := [(82, 3), (87, 0x80), (100, 7), (101, 0x10), (103, 0x80)]
    core := { ctx0.core with chans := (ctx0.core.chans.set 3 ⟨[7, 8], [], 2⟩).set 4 ⟨[], [9], 0⟩ } }

/-- A packet at port 0 of the core's router, by a route. -/
def flit0 (r : BitVec 8) : Flit := ⟨0, 0, 0, 0, ⟨0x55, 0, r, false⟩, none⟩

theorem test_router :
    after (.routerPacket 0 0 0 (flit0 5).packet) { sC with fabric := [flit0 5] }
      (fun t => t.core.chans[3].stopped == [0x55] && t.fabric.isEmpty) = true ∧
    after (.routerPacket 0 0 0 (flit0 6).packet) { sC with fabric := [flit0 6] }
      (fun t => t.fabric == [⟨0, 1, 0, 4, ⟨0x55, 0, 7, false⟩, none⟩]) = true ∧
    after (.routerPacket 0 0 0 (flit0 9).packet) { sC with fabric := [flit0 9] } (fun t => t.mgmt.discards == 1) = true ∧
    after (.chSend 5 1) sC (fun t => t.fabric.map Flit.packet == [⟨0x1122, 0, 5, false⟩] && t.core.chans[5].sent == 1) = true := by
  decide +kernel

theorem test_channels :
    after (.chRecv 7 3) sC (fun t => t.reg 7 == 7 && t.core.chans[3].buf == [8]) = true ∧
    after (.chRecv 7 5) sC (fun t => t.pri.wake.kind == 8 && t.pc == 0x1000) = true ∧
    after (.chProbe 7 3) sC (fun t => t.reg 7 == 2) = true ∧
    after (.channelDelivery 4 9) sC (fun t => t.core.chans[4] == ⟨[9], [], 0⟩) = true ∧
    after (.rsend 2 1) sC (fun t => t.fabric.map Flit.packet == [⟨0x1122, 0x2A, 5, false⟩]) = true ∧
    after (.rsend 2 1) (withS [(2, 0x1000000)] sC) (fun t => t.pri.run == .stopped) = true ∧
    after (.chSend 9 1) sC (fun t => t.pri.run == .stopped) = true ∧
    after (.xwin 9 1 2) (withS [(1, 0x1000), (2, 64)] sC) (fun t => t.core.windows[9] == some (0x1000, 64)) = true ∧
    after (.xwin 9 1 2) (withS [(1, 0x1004), (2, 64)] sC) (fun t => t.core.hq.map (fun m => m[2]) == [0x1004]) = true := by decide +kernel

/-- Routes 5, 6 and 9: delivered here, forwarded to a core that is present, and invalid. -/
theorem witness_ChannelsAndRouters_routes : sC.attached = false ∧ Quiet sC ∧ (sC.routeWord 0 0 0 9 0).getLsbD 63 = false ∧
    (sC.routeWord 0 0 0 5 0).getLsbD 63 = true ∧ routeBad (sC.routeWord 0 0 0 9 0) = true ∧ routeBad (sC.routeWord 0 0 0 5 0) = false ∧
    routeOp (sC.routeWord 0 0 0 5 0) = 0 ∧ portA (sC.routeWord 0 0 0 5 0) = 0 ∧ portA (sC.routeWord 0 0 0 6 0) ≠ 0 ∧
    routeBad (sC.routeWord 0 0 0 6 0) = false ∧ sC.corePresent sC.ctxNo (sC.neighbour 0 0 0 (portA (sC.routeWord 0 0 0 6 0))).1
      (sC.neighbour 0 0 0 (portA (sC.routeWord 0 0 0 6 0))).2.1 = true ∧ sC.isSelf 0 0 = true ∧ bits (sC.routeWord 0 0 0 5 0) 16 6 < 64 ∧
    ({ sC with fabric := [flit0 5] } : State).atPort 0 0 0 = some (flit0 5) ∧ sC.core.ctx = some (flit0 5).ctx ∧ (flit0 5).packet.void = false ∧
    (flit0 5).xfer = none ∧ sC.coreStopped 0 0 0 = false := by
  unfold Quiet; decide +kernel

theorem witness_ChannelsAndRouters_operands : sC.core.chans[(3 : Fin 64)].buf = [7, 8] ∧ sC.core.chans[(5 : Fin 64)].buf = [] ∧
    sC.core.chans[(4 : Fin 64)].stopped = [9] ∧ sC.core.chans[(4 : Fin 64)].buf.length < 8 ∧ bits (sC.reg 2) 24 40 = 0 ∧
    bits 0x1000000 24 40 ≠ 0 ∧ (0x7FF8 : Word).toNat % 8 = 0 ∧ (0x10000 : Word).toNat ≤ 65536 ∧ 0x70000 + 0x10000 ≤ sC.allotment ∧
    0x70000 < 0x80000 ∧ (0x7FFFC : Word).toNat % 8 ≠ 0 := by decide +kernel

/-- The address of an operation on a line of cluster (0, 0), with its operand (R314). -/
def evA (op line operand : Nat) : Word := BitVec.ofNat 64 (0x00F1000000000000 + op * 2 ^ 25 + line * 2 ^ 19 + operand * 8)

/-- s2 holds the address of an operation on line 7, which stands as given. -/
def sE (op operand : Nat) (l : ELine) : State :=
  { withS [(2, evA op 7 operand), (4, 0x20005)] ctx0 with lines := if l = ELine.fresh then [] else [(7, l)] }

/-- A barrier of two arrivals in phase 5, one of them counted or not; a mutex of an owner; an event. -/
def barrier (n : Nat) : ELine := { ELine.fresh with expect := 2, phase := 5, arrived := n }
def mutex (o : Option EAgent) : ELine := { ELine.fresh with kind := 1, owner := o, flag := o.isSome }
def event0 : ELine := { ELine.fresh with kind := 2 }

theorem test_barriers :
    after (.evArrive 7 2 0) (sE 0 0 (barrier 0)) (fun t => (t.line 7).arrived == 1 && t.reg 7 == 0x100020005) = true ∧
    after (.evArrive 7 2 0) (sE 0 0 (barrier 1)) (fun t => (t.line 7).phase == 6 && (t.line 7).arrived == 0 && t.reg 7 == 0x20005) = true ∧
    after (.evDrop 7 2 0) (sE 1 0 (barrier 1)) (fun t => (t.line 7).expect == 1 && (t.line 7).phase == 6) = true ∧
    after (.evSync 7 2 0) (sE 3 0 (barrier 0)) (fun t => t.pri.wake.kind == 2 && (t.line 7).arrived == 1) = true ∧
    after (.evSync 7 2 0) (sE 3 0 (barrier 1)) (fun t => t.pc == 0x1004 && t.reg 7 == 0x20006) = true ∧
    after (.evWait 7 2 0) (sE 2 5 (barrier 0)) (fun t => t.pc == 0x1004 && t.reg 7 == 0x20005) = true ∧
    after (.evWait 7 2 0) (sE 2 6 (barrier 0)) (fun t => t.pri.wake.kind == 1) = true ∧
    after (.evInit 4 2 0) (sE 3 0 ELine.fresh) (fun t => (t.line 7).expect == 2 && (t.line 7).phase == 5) = true := by decide +kernel

theorem test_mutexes_and_events :
    after (.evLock 7 2 0) (sE 4 0 (mutex none)) (fun t => (t.line 7).owner == some ⟨0, 0, .pri⟩ && t.reg 7 == 0x6000000000000000) = true ∧
    after (.evLock 7 2 0) (sE 4 0 (mutex (some ⟨1, 0, .pri⟩))) (fun t => (t.line 7).queue == [⟨0, 0, .pri⟩] && t.pri.wake.kind == 3) = true ∧
    after (.evUnlock 2 0) (sE 0 0 (mutex (some ⟨0, 0, .pri⟩))) (fun t => (t.line 7).owner == none && (t.line 7).phase == 1) = true ∧
    after (.evUnlock 2 0) (sE 0 0 (mutex none)) (fun t => t.pri.run == .stopped) = true ∧
    after (.evSignal 2 0) (sE 1 0 event0) (fun t => (t.line 7).flag && (t.line 7).phase == 1) = true ∧
    after (.evClear 2 0) (sE 2 0 { event0 with flag := true }) (fun t => !(t.line 7).flag) = true := by decide +kernel

/-- An unlock passes the mutex to the head of its queue, another core's thread; an INIT of a configured line. -/
theorem test_handed_over :
    after (.evUnlock 2 0) (sE 0 0 { mutex (some ⟨0, 0, .pri⟩) with queue := [⟨1, 0, .pri⟩] })
      (fun t => (t.line 7).owner == some ⟨1, 0, .pri⟩ && (t.line 7).queue == [] && (t.line 7).flag && (t.line 7).phase == 1) = true ∧
    after (.evInit 4 2 0) (sE 3 0 (barrier 1)) (fun t => t.line 7 == barrier 1) = true ∧
    after (.evInit 4 2 0) (withS [(4, 0x30009)] (sE 3 0 (barrier 0))) (fun t => (t.line 7).expect == 3 && (t.line 7).phase == 5) = true ∧
    after (.evInit 4 2 0) (withS [(4, 0x30009)] (sE 3 0 (barrier 1))) (fun t => t.pri.run == .stopped) = true := by decide +kernel

theorem witness_EventOperations_configured :
    (fun s : State => s.line 7 = { mutex (some ⟨0, 0, .pri⟩) with queue := [⟨1, 0, .pri⟩] } ∧
      (s.line 7).queue.filter (s.queued 7) = [⟨1, 0, .pri⟩]) (sE 0 0 { mutex (some ⟨0, 0, .pri⟩) with queue := [⟨1, 0, .pri⟩] }) ∧
    (fun s : State => (s.line 7).queue.filter (s.queued 7) = [⟨0, 0, .aux⟩] ∧ s.isOwn 7 ⟨0, 0, .aux⟩ = true ∧ s.cur = .pri)
      { sE 0 0 { mutex (some ⟨0, 0, .pri⟩) with queue := [⟨0, 0, .aux⟩] } with aux := { ctx0.aux with wake := ⟨3, false, 1, evA 4 7 0, 0⟩ } } ∧
    (barrier 1).unconfigured = false ∧ (barrier 1).sameConfig 0x20005 = true ∧ (barrier 1).ready = false ∧
    (barrier 1).sameConfig 0x30009 = false ∧ validConfig 0x30009 = true ∧ (sE 3 0 (barrier 0)).quietLine 7 = true ∧
    (sE 3 0 (barrier 1)).quietLine 7 = false ∧ swf ELine.fresh 0 (sE 3 0 (barrier 1)).lines = true := by decide +kernel

theorem witness_EventOperations_lines : EventReady (sE 0 0 (barrier 0)) (evA 0 7 0) 7 0 ∧ EventReady (sE 4 0 (mutex none)) (evA 4 7 0) 7 1 ∧
    EventReady (sE 1 0 event0) (evA 1 7 0) 7 2 ∧ (sE 0 0 (barrier 0)).line 7 = barrier 0 ∧ (sE 3 0 ELine.fresh).lines = [] ∧
    (mutex none).owner = none ∧ (mutex (some ⟨0, 0, .pri⟩)).owner = some (sE 0 0 ELine.fresh).agent ∧
    (mutex (some ⟨1, 0, .pri⟩)).owner ≠ some (sE 0 0 ELine.fresh).agent := by
  unfold EventReady LineAlone Quiet; and_intros <;> decide +kernel

theorem witness_EventOperations_addresses :
    (∀ op ∈ [0, 1, 3, 4], EventAt (sE op 0 (barrier 0)) ((sE op 0 (barrier 0)).reg 2 + BitVec.ofInt 64 ((0 : BitVec 11).toInt * 8)) op 7 0) ∧
    EventAt (sE 2 6 (barrier 0)) (evA 2 7 6) 2 7 6 ∧ EventAt (sE 2 0 event0) (evA 2 7 0) 2 7 0 ∧
    (barrier 0).satisfies (BitVec.ofNat 16 5) = true ∧ (barrier 0).satisfies (BitVec.ofNat 16 6) = false ∧
    validConfig 0x20005 = true ∧ validConfig 0xC000000000000000 = false ∧ ELine.fresh.unconfigured = true := by
  unfold EventAt; decide +kernel

/-- A chained child 8 of line 7, with its relayed arrival or its completion on the way. -/
def child : ELine := { ELine.fresh with pv := true, parent := 7, expect := 1, arrived := 1 }
def sCh (c : ELine) (f : List ChainMsg) : State := { ctx0 with lines := [(7, { ELine.fresh with cin := 1 }), (8, c)], flight := f }

theorem test_event_units :
    after (.eventLineService 8) (sCh child []) (fun t => (t.line 8).relayed && t.flight == [.arrival 7 8 false]) = true ∧
    after (.chainedArrival 7 8 false) (sCh child [.arrival 7 8 false]) (fun t => (t.line 7).inbox == [(8, false)] && t.flight == []) = true ∧
    after (.chainCompletionMessage 8) (sCh { child with relayed := true } [.completion 8]) (fun t => (t.line 8).phase == 1) = true ∧
    after (.eventOpReturn .pri) { ctx0 with pri := { ctx0.pri with wake := ⟨32, false, 1, 0, 0⟩ } }
      (fun t => t.pri.wake.aux == 2 && t.pri.retry) = true := by decide +kernel

/-- Arrivals of one cycle are taken in the order of the sending lines (R318). -/
theorem test_chained_order : after (.chainedArrival 7 8 false)
    { sCh child [.arrival 7 8 false] with lines := [(7, { ELine.fresh with cin := 3, inbox := [(4, false), (9, true)] }), (8, child)] }
    (fun t => (t.line 7).inbox == [(4, false), (8, false), (9, true)]) = true := by decide +kernel

/-- Both clauses of every pair. -/
theorem witness_EventUnitEvents : swf ELine.fresh 0 (sCh child []).lines = true ∧
    LineAlone (sCh child []) 8 ∧ LineAlone (sCh child []) 7 ∧ LineAlone (sE 0 0 (barrier 2)) 7 ∧
    LineAlone (sCh { child with relayed := true } [.completion 8]) 8 ∧
    (fun l : ELine => l.ready = true ∧ l.pv = true) ((sCh child []).line 8) ∧ ((sCh child []).line 7).ready = false ∧
    (fun l : ELine => l.inbox = [] ∧ l.completed = false ∧ l.ready = true ∧ l.pv = false) (barrier 2) ∧
    .arrival 7 8 false ∈ (sCh child [.arrival 7 8 false]).flight ∧ .completion 8 ∉ (sCh child []).flight ∧
    (fun l : ELine => l.inbox = [] ∧ l.relayed = true ∧ l.carry = 0 ∧ 0 < l.expect ∧ l.drops = 0) { child with relayed := true } := by
  unfold LineAlone; and_intros <;> decide +kernel

theorem test_control_registers :
    after (.csrw 7 1 0x0B0) (withS [(1, 0xFF)] { sM with pri := { sM.pri with fpFlags := 0x55 } }) (fun t => t.me.fpFlags == 0 && t.reg 7 == 0x55) = true ∧
    after (.csrw 7 1 0x0C2) (withS [(1, -1)] sM) (fun t => t.pri.run == .stopped) = true ∧
    after (.csrw 7 1 0x0C2) (withS [(1, 0xFFFFFFFFFFFFFFF5)] sM) (fun t => t.core.bankFmt[2] == 0x1FF05) = true ∧
    after (.csrset 7 1 0x0A0) (withS [(1, 3)] sM) (fun t => t.core.vecCheck == 1) = true ∧
    after (.csrclr 7 1 0x0A0) (withS [(1, 1)] { sM with core := { sM.core with vecCheck := 1 } }) (fun t => t.core.vecCheck == 0 && t.reg 7 == 1) = true ∧
    after (.csrr 7 0x110) sM (fun t => t.reg 7 == 0x05000000) = true ∧
    after (.csrr 7 0xFFF) sM (fun t => t.core.hq.map (fun m => bits m[0] 0 8) == [1]) = true := by decide +kernel

theorem witness_ControlRegisters : Config.csrImplemented 0xFFF = false ∧ Config.csrImplemented 0x0C7 = true ∧
    Config.csrImplemented 0x0E0 = true ∧ bits 0xFFFFFFFFFFFFFFF9 0 4 < 10 ∧ 10 ≤ bits 10 0 4 ∧ bits (sM.csr 0x0C7) 0 4 < 10 ∧
    bits (sM.csr 0x0C7 ||| 9) 0 4 < 10 ∧ sM.priv = false := by decide +kernel

/-- The implemented registers from 0x800 on, if any, are those that PRIV guards (R392). -/
theorem witness_ControlRegisters_privileged : (∃ c : BitVec 12, Config.csrImplemented c = true ∧ 0x800 ≤ c.toNat) ∨
    ∀ c : BitVec 12, Config.csrImplemented c = true → c.toNat < 0x800 := by
  by_cases h : ∃ c : BitVec 12, Config.csrImplemented c = true ∧ 0x800 ≤ c.toNat
  · exact .inl h
  · exact .inr fun c hc => Nat.lt_of_not_le fun hl => h ⟨c, hc, hl⟩

theorem test_traps :
    after (.trap 9) (sLn false) (fun t => t.pri.run == .trapWait && t.pc == 0x1004 &&
      t.core.hq.map (fun m => (bits m[0] 0 8, m[1], m[3])) == [(0x10, 0x1000, 9)]) = true ∧
    after (.subClose 0) (sLn false) (fun t => t.launches.map (fun l => (l.phase, l.fault)) == [(.ending, some (2, 3, 0))] &&
      t.pri.run == .stopped && t.core.hq.map (fun m => bits m[0] 0 9) == [0x103]) = true ∧
    after (.pwrHint 2) sM (fun t => bits t.core.pwrStat 2 2 == 2) = true ∧ after (.pwrHint 3) sM (fun t => t.pri.run == .stopped) = true ∧
    after .yield sM (fun t => t.pc == 0x1004) = true ∧
    after .yield { ctx0 with ctxs := [(0, ⟨.saving, false, 0, false, none, []⟩)] } (fun t => t.pri.wake.kind == 13) = true := by decide +kernel

theorem witness_TakingTraps : Plain (sLn false) ∧ (sLn false).clockStopped = false ∧ (sLn false).firstHandler (sLn false).ctxNo 0 = some (0, 0, 0) ∧ (sLn false).isSelf 0 0 = true ∧
    (sLn false).core.launch = some 1 ∧ (sLn false).launch? 1 = some (launch0 false) ∧
    (∀ m ∈ (sLn false).launches, m.id = 1 → m = launch0 false) ∧ (launch0 false).fault = none ∧ Plain (asAux (sLn false)) ∧
    ((2 : Fin 64).val ≤ 2 ∧ 2 < (3 : Fin 64).val) ∧ sM.attached = false ∧ sM.saving = false ∧
    ({ ctx0 with ctxs := [(0, ⟨.saving, false, 0, false, none, []⟩)] } : State).saving = true := by
  unfold Plain; decide +kernel

/-- A message of a TRAP of the primary thread at 0x1000, in the queue; and the auxiliary thread in handler mode for it. -/
def msg0 : Msg := #v[0x10, 0x1000, 0, 9, 0x500000002, 0, 0, 0]
def sHq : State := { sLn false with core := { (sLn false).core with hq := [msg0] }, pri := { (sLn false).pri with run := .trapWait } }
def sHd : State :=
  asAux { sHq with core := { sHq.core with hq := [], trapMsg := msg0, trapHst := 0xC000000000000000, trapNpc := 0x1004 } }
/-- The auxiliary thread in loader mode for a miss of the primary one. -/
def sLd : State :=
  asAux { sLn false with
    core := { (sLn false).core with cxLpc := 0xC000000000000000, cxMiss := 0x8000000000000000, cxLdr := 0x1000000 }
    pri := { (sLn false).pri with run := .missWait } }

theorem test_handlers :
    after .handlerEntry sHq (fun t => t.aux.pc == 0x1000100 && t.core.trapMsg == msg0 && t.core.trapNpc == 0x1004 && t.core.hmode) = true ∧
    after .tret sHd (fun t => t.pri.run == .running && t.pri.pc == 0x1004 && !t.core.hmode) = true ∧
    after .tret sLd (fun t => t.pri.run == .running && !t.core.lmode && !t.core.pend) = true ∧
    after .tret (sLn false) (fun t => t.core.hq.map (fun m => bits m[0] 0 8) == [2]) = true ∧
    after (.handlerFault 3) sHd (fun t => !t.core.hmode && t.ctxs.map (fun p => p.2.state) == [.halted]) = true ∧
    after (.handlerFault 0x0E) sHd (fun t => t.core.hmode && t.core.hq == []) = true := by decide +kernel

/-- One refused entry, still to be reported. -/
def sJ : State :=
  { sLn false with pri := { (sLn false).pri with
      journal := ((sLn false).pri.journal.set 4 ⟨.refused, 0x00F0000000000048, 7, 0, .work, 0⟩).set 5 ⟨.posted, 0x00F0000000000050, 8, 0, .work, 0⟩
      refused := [4] } }

/-- Interrupted work of the auxiliary thread, at 0x2344 when the handler began, has a refused entry. -/
def sInt : State :=
  { sHd with
    core := { sHd.core with trapHst := 0x8000000000002344 }
    aux := { sHd.aux with journal := sHd.aux.journal.set 4 ⟨.refused, 0x00F0000000000048, 7, 0, .work, 0⟩, refused := [4] } }

/-- The handler goes on; the message names the interrupted work, which stands in a trap wait (R378, R379). -/
theorem test_interrupted : after (.stopPoint .aux) sInt (fun t => t.aux.run == .running && t.aux.refused == [] &&
    t.core.handlerWake.kind == 16 && t.core.hq.map (fun m => (bits m[0] 0 8, m[1])) == [(0x11, 0x2344)]) = true := by decide +kernel

theorem test_journal :
    after (.jnlRd 7 4) sJ (fun t => t.reg 7 == 0x80F0000000000048) = true ∧ after (.jnlRd 7 5) sJ (fun t => t.reg 7 == 0x40F0000000000050) = true ∧
    after (.jnlDrop 4) sJ (fun t => t.pri.journal[4].state == .free) = true ∧
    after (.jnlRetry 4) sJ (fun t => t.pri.journal[4].state == .posted && t.word (sp 0x48) == 7) = true ∧
    after (.stopPoint .pri) sJ (fun t => t.pri.run == .trapWait && t.core.hq.map (fun m => (bits m[0] 0 8, bits m[0] 24 4)) == [(0x11, 4)]) = true := by
  decide +kernel

theorem witness_HandlersAndJournal : sHq.core.hq = [msg0] ∧ sHq.core.hmode = false ∧ sHq.core.lmode = false ∧ sHq.atStop .aux = true ∧
    sHd.core.hq = [] ∧ sHd.inHandler = true ∧ sHd.inLoader = false ∧ sHd.core.trapMsg[0].getLsbD 8 = false ∧
    sHd.core.trapAct.getLsbD 0 = false ∧ sHd.subject = some .pri ∧ sHd.pri.run = .trapWait ∧ sLd.inLoader = true ∧
    sLd.pri.run = .missWait ∧ sHq.inHandler = false ∧ sHq.inLoader = false ∧ sHd.core.hmode = true ∧
    sHq.saving = false ∧ ({ sHq with ctxs := [(0, ⟨.saving, false, 0, false, none, []⟩)] } : State).saving = true := by decide +kernel

/-- A message that waits while the auxiliary thread's interrupted loader is over; a cause that code can have, and one that it cannot. -/
theorem witness_HandlersAndJournal_modes :
    (fun s : State => s.core.lmode = true ∧ s.core.hmode = false ∧ s.aux.over = true ∧ s.saving = false ∧ s.atStop .aux = true)
      { sHq with core := { sHq.core with cxLpc := 0x8000000000000000 }, aux := { sHq.aux with run := .ended } } ∧
    (1 ≤ (3 : Fin 32).val ∧ (3 : Fin 32).val ≤ 8) ∧ ¬(1 ≤ (0x0E : Fin 32).val ∧ (0x0E : Fin 32).val ≤ 8 ∨ (0x0E : Fin 32) = 0x10 ∨
      (0x0E : Fin 32) = 0x13) ∧
    (∀ k : Fin 16, sJ.me.journal[k].waits = true → bits sJ.me.journal[k].addr 19 10 ≠ bits sJ.me.journal[(4 : Fin 16)].addr 19 10) ∧
    sJ.postLocked sJ.me.journal[(4 : Fin 16)].addr = false := by decide +kernel

theorem witness_HandlersAndJournal_entries : sJ.inHandler = false ∧ sJ.me.journal[(3 : Fin 16)].state ≠ .refused ∧
    sJ.me.journal[(4 : Fin 16)].state = .refused ∧ sJ.atStop .pri = true ∧ (sJ.th .pri).refused = [4] ∧ (sJ.th .pri).over = false ∧
    sJ.interrupted .pri (sJ.th .pri).journal[(4 : Fin 16)].mode = false ∧ (sInt.th .aux).refused = [4] ∧
    sInt.interrupted .aux (sInt.th .aux).journal[(4 : Fin 16)].mode = true ∧ sInt.interruptedIdle = false ∧
    sInt.core.loaderWanted = false ∧ sInt.firstHandler sInt.ctxNo 0 = some (0, 0, 0) ∧ sInt.isSelf 0 0 = true ∧
    sJ.core.loaderWanted = false ∧ sJ.firstHandler sJ.ctxNo 0 = some (0, 0, 0) ∧ (sJ.th .aux).refused = [] := by decide +kernel

/-- A privileged context with a shoot-down record at 0x1020000: an update of all of context 3, DONE at 0x1030000. -/
def sSh : State :=
  withW [(0x80000, 0x100003), (0x420018, 0x1030000)] (withS [(1, 0x1020000), (2, 3)] { ctx0 with
    core := { ctx0.core with dtlb := [⟨0, 0x1000000, 0x200000, 0x400000, 0, 0, false, false, true, true, true⟩] } })

theorem test_shootdowns :
    after (.tlbShoot 1 2) sSh (fun t => t.shoots[0] == some ⟨3, false, 0, 0, 0x430000, .draining⟩) = true ∧
    after (.tlbShoot 1 2) (withW [(0x80000, 0x100001)] sSh) (fun t => t.core.hq.map (fun m => bits m[0] 0 8) == [2]) = true ∧
    after (.shootdownBlocked 0) { sSh with shoots := sSh.shoots.set 0 (some ⟨3, false, 0, 0, 0x430000, .draining⟩) }
      (fun t => t.shoots[0].map Shoot.state == some .confirming) = true ∧
    after (.shootdownConfirmed 0) { sSh with shoots := sSh.shoots.set 0 (some ⟨3, false, 0, 0, 0x430000, .confirming⟩) }
      (fun t => t.shoots[0].map Shoot.state == some .confirmed && t.word 0x430000 == 1 && t.tag 0x430000) = true ∧
    after (.tlbInv 1 2) (withS [(2, 8)] sSh) (fun t => t.core.dtlb.isEmpty) = true ∧
    after .coreWakeTlbFlush { sSh with core := { sSh.core with asleep := true } } (fun t => !t.core.asleep && t.core.dtlb.isEmpty) = true := by
  decide +kernel

/-- A release request (KIND 2) for all of context 3, in a state of its shoot-down. -/
def sRel (h : Option ShootState) : State :=
  withW [(0x420000, 2)] { sSh with shoots := sSh.shoots.set 0 (h.map fun x => ⟨3, false, 0, 0, 0x430000, x⟩) }

theorem test_release :
    after (.tlbShoot 1 2) (sRel (some .confirmed)) (fun t => t.shoots[0] == none && t.word 0x430000 == 2 && t.tag 0x430000 && t.pc == 0x1004) = true ∧
    after (.tlbShoot 1 2) (sRel (some .confirming)) (fun t => t.pri.wake.kind == 32 && t.shoots[0].isSome && t.pc == 0x1000) = true ∧
    after (.tlbShoot 1 2) (sRel none) (fun t => t.word 0x430000 == 2 && t.pc == 0x1004) = true := by decide +kernel

theorem witness_Shootdowns_release : (sRel none).shootFor 3 0 0 = none ∧ (sRel (some .confirmed)).shootFor 3 0 0 = some 0 ∧
    (sRel (some .confirmed)).shoots[(0 : Fin 4)] = some ⟨3, false, 0, 0, 0x430000, .confirmed⟩ ∧
    (sRel (some .confirming)).shootFor 3 0 0 = some 0 ∧
    (match hbmWord Need.load ((sRel none).reg 1) (sRel none) with
      | .ok (_, s0) => (match loadBytes ((sRel none).reg 1) 32 s0 with
        | .ok (l, s1) => decide (leNat (l.take 8) = 2) && decide (leNat ((l.drop 8).take 8) % 65536 = 0) &&
            decide (leNat ((l.drop 16).take 8) % 65536 = 0) &&
            (match hbmWord Need.store (BitVec.ofNat 64 (leNat ((l.drop 24).take 8))) s1 with
              | .ok (_, s2) => Memory.wf s2.mem && swf false 0 s2.tags
              | .error _ => false)
        | .error _ => false)
      | .error _ => false) = true := by decide +kernel

theorem witness_Shootdowns : sSh.priv = true ∧ ctx0.priv = false ∧ bits (sSh.reg 2) 12 52 = 0 ∧ bits 0x1000 12 52 ≠ 0 ∧ (sSh.reg 1).toNat % 8 = 0 ∧
    (match hbmWord Need.load (sSh.reg 1) sSh with
      | .ok (_, s0) => (match loadBytes (sSh.reg 1) 32 s0 with
        | .ok (l, s1) => decide (leNat (l.take 8) < 2) && decide (leNat ((l.drop 8).take 8) % 65536 = 0) &&
            decide (leNat ((l.drop 16).take 8) % 65536 = 0) &&
            (match hbmWord Need.store (BitVec.ofNat 64 (leNat ((l.drop 24).take 8))) s1 with
              | .ok (_, s2) => decide ((List.finRange 4).find? (fun j => s2.shoots[j].isNone) = some 0)
              | .error _ => false)
        | .error _ => false)
      | .error _ => false) = true ∧
    sSh.writesDone 3 = true ∧ sSh.writesDone 0 = true ∧ Memory.wf sSh.mem = true ∧ sSh.shoots[(0 : Fin 4)] = none := by decide +kernel

theorem test_memory_events :
    after (.tagWaiterWake .pri) { sM.setTag (sp 0x40) true with pri := { sM.pri with wake := ⟨4, false, 0, 0x40, 0⟩ } } (fun t => t.pri.retry) = true ∧
    after (.faultReply .pri) { sM.setTag 0x300058 true with pri := { sM.pri with wake := ⟨12, true, 0, 0x2000000, 0⟩ } }
      (fun t => t.pri.wake.kind == 32 && t.pri.retry && t.pc == 0x1000) = true ∧
    after (.postedStoreAck .pri 5) sJ (fun t => t.pri.journal[5].state == .free) = true ∧
    after (.l1Eviction 0x10000) sL (fun t => t.byte 0x400000 == 7 && t.core.l1.isEmpty) = true ∧
    after (.linkAck .pri) { sM with pri := { sM.pri with unacked := 1 } } (fun t => t.pri.unacked == 0) = true := by decide +kernel

/-- The store of an entry waits at its port; in the second state the lock is gone, and in the third an older one waits there too. -/
def sAck (locked older : Bool) : State :=
  { sPort with
    core := { sPort.core with locks := if locked then sPort.core.locks else [] }
    pri := { sPort.pri with journal := if older then
      (sPort.pri.journal.set 5 ⟨.posted, 0x00F0000000080048, 7, 0, .work, 2⟩) else
      ((sPort.pri.journal.set 0 JEntry.reset).set 5 ⟨.posted, 0x00F0000000080048, 7, 0, .work, 2⟩) } }

theorem test_port_ack :
    after (.postedStoreAck .pri 5) (sAck false false) (fun t => t.pri.journal[5].state == .free && t.word (Loc.scratch 0 1 0 0x48).key == 7) = true ∧
    after (.postedStoreAck .pri 5) (sAck true false) (fun t => t.pri.journal[5].state == .posted) = true ∧
    after (.postedStoreAck .pri 5) (sAck false true) (fun t => t.pri.journal[5].state == .posted) = true := by decide +kernel

theorem witness_MemoryEvents_port : (sAck false false).pri.journal[(5 : Fin 16)].waits = true ∧
    (sAck false false).entryRefused 0x00F0000000080048 = false ∧ (sAck true false).postLocked 0x00F0000000080048 = true ∧
    (sAck false false).postLocked 0x00F0000000080048 = false ∧ OlderStore (sAck false true).pri 5 ∧ ¬ OlderStore (sAck false false).pri 5 := by
  unfold OlderStore; decide +kernel

theorem test_outside_agents :
    after (.linkTaggedWrite 0x400000 5) sM (fun t => t.word 0x400000 == 5 && t.tag 0x400000) = true ∧
    after (.linkAccess .host true 0x400003 [1, 2]) sM (fun t => t.word 0x400000 == 0x0201000000) = true ∧
    after (.peerAmo .add true 0x400000 5 0) (withW [(0x400000, 7)] sM) (fun t => t.word 0x400000 == 12) = true ∧
    after (.peerAmo .min false 0x400004 0xFFFFFFFF 0) sM (fun t => t.word 0x400000 == 0xFFFFFFFF00000000) = true := by decide +kernel

theorem witness_MemoryEvents :
    tagReady .pri { sM.setTag (sp 0x40) true with pri := { sM.pri with wake := ⟨4, false, 0, 0x40, 0⟩ } } = true ∧
    tagReady .pri { sM with pri := { sM.pri with wake := ⟨4, false, 0, 0x40, 0⟩ } } = false ∧
    (fun s : State => (s.th .pri).wake.kind = 12 ∧ (s.th .pri).wake.done = true ∧ (s.th .pri).wake.aux ≠ 0xFFFF ∧
      s.tag (replyKey .pri s) = true ∧ s.word (replyKey .pri s) = 0)
      { sM.setTag 0x300058 true with pri := { sM.pri with wake := ⟨12, true, 0, 0x2000000, 0⟩ } } ∧
    (fun s : State => s.word (replyKey .pri s) ≠ 0)
      { withW [(0x300058, 1)] sM with pri := { sM.pri with wake := ⟨12, true, 0, 0x2000000, 0⟩ } } ∧
    (⟨12, true, 0, 0x2000000, 0⟩ : Wake).ofFetch = false ∧ (⟨12, true, 0, 0x2000000, 32⟩ : Wake).ofFetch = true ∧
    (sJ.th .pri).journal[(5 : Fin 16)].state = .posted ∧ sJ.entryRefused (sJ.th .pri).journal[(5 : Fin 16)].addr = false ∧
    (sJ.th .pri).journal[(5 : Fin 16)].port = 0 ∧ sJ.postLocked (sJ.th .pri).journal[(5 : Fin 16)].addr = false ∧
    (fun s : State => s.postLocked 0x00F0000000000050 = true) { sJ with core := { sJ.core with locks := [⟨0, 0, 0, 0, 0, 0x50, 0x57, true, none, true⟩] } } ∧
    (sJ.th .pri).journal[(5 : Fin 16)].mode ≠ .finished ∧ sL.core.acePages = [] ∧
    sJ.entryRefused 0x00F000001FFFFFF8 = true ∧ (sJ.th .pri).run ≠ .ended ∧ (sJ.th .pri).run ≠ .stopped ∧
    Memory.wf sL.mem = true ∧ swf none 0 sL.core.l1 = true ∧ swf false 0 sL.tags = true ∧ swf false 0 sL.poison = true ∧
    sL.poisoned 0x400000 = false ∧ sL.linkOpen .host = true ∧ sL.linkOpen (.peer 0) = true ∧ State.reset.linkOpen .host = false ∧ (2 ^ 39 - 8) % 8 = 0 ∧ 2 ^ 39 - 8 + 8 ≤ 2 ^ 39 := by decide +kernel

/-! ## The halyard -/

/-- An entry of a commit window: ADD s7, s2, s3, with both operands captured, which has started at P2. -/
def e7 : WEntry :=
  ⟨5, .add false 7 (.s 2) (.s 3), 0x1000, 0x1004, some (.s 7), [⟨.s 2, 10, none⟩, ⟨.s 3, 20, none⟩], .track, 2, true, false,
    false, .none, false, none⟩
/-- A younger packet there awaits its result, and a younger track entry writes s7 again. -/
def e8 : WEntry :=
  { e7 with
    tag := 6, instr := .add false 8 (.s 7) (.s 7), dest := some (.s 8), ops := [⟨.s 7, 0, some 5⟩, ⟨.s 7, 0, some 5⟩]
    stage := .lane, started := false }
def e9 : WEntry := { e7 with tag := 7, instr := .li 7 1, ops := [], started := false }
/-- The completion of e7 in the lane, and a completion that waits in the output buffer of P2. -/
def c7 : WEntry := { e7 with stage := .completion, comp := .result 30 }
def b8 (n : BitVec 7) : WEntry := { e7 with tag := n, stage := .buffer, comp := .result 1 }

/-- The primary thread with a window. -/
def withWin (l : List WEntry) (s : State) : State := { s with pri := { s.pri with window := l, fetchPc := 0x1000100, lastTag := 7 } }

/-- ADD s7, s2, s3; then NOP; then LD.W of 0x100 at the places fetched at 0x1000100 (R87, R103). -/
def sI : State :=
  let s := withW [(0x400100, 0)] { sM with pri := { sM.pri with pc := 0x1000100 } }
  s.setNum 0x400100 2 0x7800

/-- A completion is captured by what awaits it, and struck by the first younger writer of its register (R33); the packet, now
present at a candidate siding, is offered there (R37). -/
theorem test_completion :
    after (.completionInject .pri 5) (withWin [e7, e8, e9] sM) (fun t =>
      (t.pri.window.map fun e => (e.stage, e.comp, e.struck)) ==
        [(.completion, .result 30, true), (.lane, .none, false), (.track, .none, false)] &&
      (t.pri.window.map fun e => (e.offer, e.ops.map Operand.value)) == [(false, [10, 20]), (true, [30, 30]), (false, [])] &&
      t.pri.getS 7 == 0 && t.core.hy[2] == 1) = true ∧
    after .commit (withWin [{ c7 with stage := .window }] sM)
      (fun t => t.pri.getS 7 == 30 && t.pri.pc == 0x1004 && t.pri.window == [] && t.core.cyc.committed) = true := by decide +kernel

/-- A completion stands in the lane slot: the next one waits in the output buffer, the third operation does not end (R29, R30). -/
theorem test_output_buffer :
    after (.completionInject .pri 5) (withWin [e7, { c7 with tag := 6 }] sM)
      (fun t => t.pri.window.map WEntry.stage == [.buffer, .completion] && t.core.outBuf == [(2, .pri, 5)]) = true ∧
    after (.completionInject .pri 5) { withWin [e7, b8 6, b8 7] sM with core := { sM.core with outBuf := [(2, .pri, 6), (2, .pri, 7)] } }
      (fun t => t.pri.window.map WEntry.stage == [.track, .buffer, .buffer]) = true := by decide +kernel

/-- A packet climbs from P1 to P2; the completion comes down from P2 to P1 and supplies it where it then stands (R29, R32). -/
theorem test_lane_moves :
    after .issue { withWin [c7, { e8 with pos := 0 }] sM with pri := { (withWin [c7, { e8 with pos := 0 }] sM).pri with hold := true } }
      (fun t => t.pri.window.map (fun e => (e.stage, e.pos, e.ops.map Operand.await)) ==
        [(.completion, 1, [none, none]), (.lane, 1, [none, none])]) = true ∧
    after (.completionAccept .pri 5) (withWin [{ c7 with pos := 0 }] sM) (fun t => t.pri.window.map WEntry.stage == [.window]) = true := by
  decide +kernel

theorem test_issue_dispatch :
    after .issue sI (fun t => t.pri.window.map (fun e => (e.instr, e.tag, e.stage)) == [(.cNop, 0, .window)] && t.pri.fetchPc == 0x1000102) = true ∧
    after (.dispatch .pri 5) (withWin [{ e7 with stage := .lane, started := false }] sM)
      (fun t => t.pri.window.map WEntry.stage == [.track] && t.core.cyc.accepted == [2]) = true ∧
    after .issue sM (fun t => t.pri.hold && t.pri.window.map WEntry.comp == [.trap 0x03 0x1000 0]) = true := by decide +kernel

theorem test_kill_and_delivery :
    after (.kill .pri 6) { withWin [e7, e8, e9] sM with pri := { (withWin [e7, e8, e9] sM).pri with raised := some (6, 0x1000180) } }
      (fun t => t.pri.window.map WEntry.tag == [5] && t.pri.lastTag == 5 && t.pri.fetchPc == 0x1000180 && t.core.hy[4] == 2) = true ∧
    after (.trapDelivery .pri) (withWin [{ e7 with stage := .window, comp := .trap 0x10 0 9, dest := none }] (sLn false))
      (fun t => t.pri.window == [] && t.core.hq.map (fun m => bits m[0] 0 8) == [0x10] && t.pri.pc == 0x1004) = true := by decide +kernel

/-- A trap stands at the commit head: its delivery closes the cycle, and a younger branch's kill is never served (R29, R45). -/
def sTrapped : State :=
  { withWin [{ e7 with stage := .window, comp := .trap 0x10 0 9, dest := none }, e8] (sLn false) with
    pri := { (withWin [{ e7 with stage := .window, comp := .trap 0x10 0 9, dest := none }, e8] (sLn false)).pri with raised := some (6, 0x1000180) } }

theorem test_trap_kill :
    after (.kill .pri 6) sTrapped (fun t => t.pri.window.map WEntry.tag == [5, 6] && t.core.hy[3] == 0) = true ∧
    after (.trapDelivery .pri) sTrapped (fun t => t.pri.window == [] && t.core.cyc.closed && t.core.hy[3] == 1 && t.core.hy[4] == 1) = true ∧
    after (.completionInject .pri 5) { withWin [e7] sM with core := { sM.core with cyc := { sM.core.cyc with closed := true } } }
      (fun t => t.pri.window == [e7]) = true := by decide +kernel

theorem test_slaving :
    after (.outcomeRecordArrival true false) { sM with core := { sM.core with slave := { sM.core.slave with role := .attached } } }
      (fun t => t.core.slave.outcomes == [(true, false, 0)]) = true ∧
    after .performMarkArrival { sM with core := { sM.core with slave := { sM.core.slave with role := .attached } } }
      (fun t => t.core.slave.marks == 1) = true := by decide +kernel

/-- What a fetch gives: an instruction, a trap, a wait, or nothing. -/
def fetched (s : State) : Nat := match threadFetch s with
  | .ok _ => 0
  | .error (.trap ..) => 1
  | .error (.park ..) => 2
  | .error (.fault _) => 3

/-- The foot serves either thread of a new cycle; a fetch succeeds and one traps; registers with no writer, one whose value is in
the window, and one that is awaited. -/
theorem witness_IssueAndDispatch_issue : sI.cycleDone = true ∧ (withWin [{ c7 with pos := 0 }] sM).cycleDone = false ∧
    Foot (moveLane sI) .pri ∧ fetched ((footState (moveLane sI)).atFoot .pri) = 0 ∧
    (moveLane sI).packetAt 0 = false ∧ (moveLane sI).slotTaken 0 = false ∧
    Foot (moveLane sM) .pri ∧ fetched ((footState (moveLane sM)).atFoot .pri) = 1 ∧ sM.cycleDone = true ∧
    Foot (moveLane (asAux { sI with pri := { sI.pri with run := .noWork } })) .aux ∧
    (fun m : State => m.pri.mayIssue = false ∧ m.aux.mayIssue = false ∧ m.starves .pri = false)
      (moveLane { sM with pri := { sM.pri with run := .ended } }) ∧
    (∀ w ∈ (withWin [e7] sM).pri.window, w.dest ≠ some (.s 8)) ∧ e7.dest = some (.s 7) ∧ e7.stage ≠ .window ∧
    (fun w : WEntry => w.stage = .window ∧ w.comp = .result 30 ∧ w.dest = some (.s 7)) { c7 with stage := .window } := by
  unfold Foot; decide +kernel

/-- A packet at a siding that is not its last, at its last one, and one that awaits an operand; a full track; a siding that has
accepted one in this cycle; and packets below a free position, at the last one, and where their operand is presented. -/
theorem witness_IssueAndDispatch_dispatch :
    (fun e : WEntry => e.stage = .lane ∧ e.offer = false ∧ e.pos ∈ sidings e.instr ∧ (∀ o ∈ e.ops, o.await = none))
      { e7 with stage := .lane } ∧
    sM.trackFree 2 = true ∧ (2 : Nat) ∉ sM.core.cyc.accepted ∧ sM.core.cyc.ended = false ∧ sM.pri.raised = none ∧ (sidings e7.instr).getLastD 0 = 6 ∧
    (∃ o ∈ e8.ops, o.await ≠ none) ∧ e8.pos ≠ (sidings e8.instr).getLastD 0 ∧
    (withWin [e7, { e7 with tag := 1 }, { e7 with tag := 2 }, { e7 with tag := 3 }] sM).trackFree 2 = false ∧
    (fun (s : State) (e : WEntry) => s.entries.find? (fun y => decide (y.2.stage = .lane) && decide (y.2.pos = 1)) = some (.pri, e) ∧
        (∀ y ∈ s.pri.window, y.tag = e.tag → y = e) ∧ s.presented .pri e = false ∧ s.packetAt 2 = false ∧ s.slotTaken 2 = false)
      (withWin [{ e7 with stage := .lane, pos := 1 }] sM) { e7 with stage := .lane, pos := 1 } ∧
    (withWin [e7, e8] sM).presented .pri e8 = true ∧ (withWin [e7, e8] sM).heldPacket .pri e8 = true := by
  decide +kernel

/-- Every clause on an entry; the store of the committed ST.W goes to the own scratchpad. -/
theorem witness_CompletionAndCommit_completions :
    (fun s : State => s.pri.window = e7 :: [e8, e9] ∧ (∀ y ∈ [e8, e9], y.tag ≠ e7.tag) ∧ s.pri.stq = [] ∧ s.pri.raised = none ∧
        s.dispatchDue = false ∧ s.core.cyc.closed = false ∧ s.slotTaken e7.pos = false ∧ s.buffered e7.pos = []) (withWin [e7, e8, e9] sM) ∧
    (e7.stage = .track ∧ e7.started = true ∧ e7.comp = .none ∧ e7.struck = false ∧ e7.instr = .add false 7 (.s 2) (.s 3) ∧
      e7.dest = some (.s 7) ∧ e7.ops = [⟨.s 2, 10, none⟩, ⟨.s 3, 20, none⟩]) ∧
    (fun s : State => s.slotTaken e7.pos = true ∧ (s.buffered e7.pos).length < 2) (withWin [e7, { c7 with tag := 6 }] sM) ∧
    (fun s : State => (s.buffered e7.pos).length = 2)
      { withWin [e7, b8 6, b8 7] sM with core := { sM.core with outBuf := [(2, .pri, 6), (2, .pri, 7)] } } ∧
    (fun s : State => s.entries.find? (fun y => decide (y.2.stage = .completion) && decide (y.2.pos = 2)) = some (.pri, c7) ∧
        s.pri.window.find? (fun y => decide (y.tag = c7.tag)) = some c7 ∧ c7.comp = .result 30 ∧ c7.dest = some (.s 7))
      (withWin [c7, e8] sM) ∧
    (fun e : WEntry => e.stage = .completion ∧ e.pos = 0) { c7 with pos := 0 } ∧ c7.pos ≠ 0 ∧ e8.stage ≠ .track := by
  decide +kernel

theorem witness_CompletionAndCommit_commits : sM.core.cyc.committed = false ∧ sM.aux.window = [] ∧ sM.pri.run = .running ∧
    sM.pri.stopped = false ∧ sM.pri.raised = none ∧ sM.mustStop .pri = false ∧ kindOf e7.instr = .alu ∧
    (∀ y ∈ [e8, e9].head?, y.stage ≠ .window) ∧
    (match runEntry { e7 with instr := .st 7 2 1 .w, ops := [], dest := none, stage := .window, comp := .status } sM with
      | .done _ => true
      | _ => false) = true ∧ Memory.wf sM.mem = true ∧
    OwnScratch ({ sM with cur := .pri }.setMe { sM.pri with s := sM.pri.s, x := sM.pri.x, v := sM.pri.v })
      (sM.reg 2 + BitVec.ofInt 64 ((3 : BitVec 11).toInt * storeSize .w)) (storeSize .w) true := by
  unfold OwnScratch; decide +kernel

theorem witness_KillsTrapsAndSlaving : sM.core.slave.role = .single ∧ sM.pri.raised = none ∧ sM.pri.window = [] ∧
    (fun s : State => s.pri.raised = some (6, 0x1000180) ∧ ((closeCycle s).th .pri).trapDue = false)
      { withWin [e7, e8, e9] sM with pri := { (withWin [e7, e8, e9] sM).pri with raised := some (6, 0x1000180) } } ∧
    ((closeCycle sTrapped).th .pri).trapDue = true ∧
    (fun e : WEntry => e.stage = .window ∧ e.comp = .trap 0x10 0 9) { e7 with stage := .window, comp := .trap 0x10 0 9 } ∧
    ({ Slaving.reset with role := .attached }).role = .attached ∧
    (fun k : Slaving => k.role = .detached ∧ k.stale = 0) { Slaving.reset with role := .detached } ∧
    (fun k : Slaving => k.role = .detached ∧ k.stale ≠ 0) { Slaving.reset with role := .detached, stale := 1 } ∧
    (match codeLoc sI.pri.fetchAddr sI with
      | .ok (l, _) => decide (l = .hbm l.key) && (List.range 8).all fun j => !sI.poisoned (l.key / 64 * 64 + 8 * j)
      | .error _ => false) = true := by decide +kernel
/-! ## Queues, launches and contexts -/

/-- Queue 0 of context 0: two slots from 0x1008080, HEAD and TAIL zero, with a packet posted in slot 0. -/
def sP (p : List Word) : State :=
  (withW ([(0x210000, 0x1008000), (0x210008, 0x8000000000000001)] ++ (p.zipIdx.map fun x => (0x408080 + 8 * x.2, x.1))) ctx0).setTag 0x408080 true

/-- The packet of sP p may be taken by checks 1 and 2, as `Takes` says. -/
def takes (p : List Word) (ty : Nat) : Prop := Takes (sP p) 0 0 0 0x408008 ty (vmk 16 fun j => p.getD j 0)

theorem test_packets :
    after (.queueBarrierPacket 0 0) (sP [0x5000000000000000, 0x100F000])
      (fun t => t.word 0x408008 == 1 && !t.tag 0x408080 && t.tag 0x40F000 && t.word 0x40F000 == 0) = true ∧
    after (.queueBarrierPacket 0 0) (sP [0x5000000100000000, 0x100F000]) (fun t => t.word 0x40F000 == 0x0102000000000000) = true ∧
    after (.queueFillPacket 0 0) (sP [0x4000000000000000, 0, 0x100F010, 77]) (fun t => t.word 0x40F010 == 77 && t.tag 0x40F010) = true ∧
    after (.queueWaitPacket 0 0) (sP [0x3000000000000000, 0, 0x100F010]) (fun t => (t.queue 0 0).waiting.isSome) = true ∧
    after (.waitPacketEnd 0 0) ((({ sP [] with queues := [(0, ⟨[], some (0, #v[0, 0x100F000, 0x100F010, 0, 0, 0, 0, 0, 0, 0, 0, 0, 0, 0, 0, 0]), none⟩)] } : State)).setTag 0x40F010 true)
      (fun t => t.tag 0x40F000 && t.tag 0x40F010 && (t.queue 0 0).waiting.isNone) = true ∧
    after (.queueUnloadPacket 0 0) (sP [0x2000000000000000, 0x100F000, 0x1040000]) (fun t => t.word 0x40F000 == 0x0103000000000000) = true := by
  decide +kernel

/-- A BARRIER's release at `.sys` waits for what the far sides have still to acknowledge (R351). -/
theorem test_barrier_waits : after (.queueBarrierPacket 0 0)
    { sP [0x5000000000000000, 0x100F000] with pri := { (sP [0x5000000000000000, 0x100F000]).pri with unacked := 1 } }
    (fun t => t.word 0x408008 == 0 && t.tag 0x408080) = true := by decide +kernel

theorem witness_QueuePackets : takes [0x5000000000000000, 0x100F000] 5 ∧ takes [0x4000000000000000, 0, 0x100F010, 77] 4 ∧
    takes [0x3000000000000000, 0, 0x100F010] 3 ∧ takes [0x2000000000000000, 0, 0x1040000] 2 ∧ takes [0x1000000000000000, 0, 0x1040000] 1 ∧
    takes [0, 0, 0x1040000] 0 := by
  refine ⟨?_, ?_, ?_, ?_, ?_, ?_⟩ <;> (unfold takes Takes; decide +kernel)

theorem witness_QueuePackets_words : (sP []).posted 0 1 = none ∧ (sP []).goodWord 0 0x100F010 (fun e => e.w) = true ∧
    (sP []).vKey 0 0x100F010 = some 0x40F010 ∧ (sP []).goodWord 0 0x2000000 (fun e => e.r) = false ∧
    Memory.wf (sP []).mem = true ∧ swf false 0 (sP []).tags = true ∧ (sP []).vKey 0 ((sP []).slotVa 0 0 0) = some 0x408080 ∧
    (sP []).tag 0x408080 = true ∧ (sP []).tag 0x40F010 = false ∧ ((sP []).queue 0 0).count 0x1040000 = 0 ∧
    (((sP []).queue 0 0).setCount 0x1040000 2).count 0x1040000 = 2 ∧ (sP []).pri.unacked = 0 ∧ (sP []).aux.unacked = 0 ∧
    (fun s : State => s.core.ctx = some 0 ∧ s.pri.unacked ≠ 0) { sP [] with pri := { (sP []).pri with unacked := 1 } } := by decide +kernel

/-- The object at 0x1040000 with its CODE section alone, before a controller of security version 0. -/
def sObj : State :=
  withW [(0x440018, 0x10001), (0x440088, 0xFFFFFFFFFFFF)] { sLn false with mgmt := { (sLn false).mgmt with fsvn := 0 } }

/-- That object fails step 3 of LOAD or none, as its signature verifies or not; an object of zeros fails step 1. -/
theorem witness_QueuePackets_load :
    loadFail sObj ⟨0, 0x1040000⟩ = (if load3 sObj ⟨0, 0x1040000⟩ then 0 else 3) ∧ loadFail sObj ⟨0, 0x1050000⟩ = 1 := by
  have h1 : load1 sObj ⟨0, 0x1040000⟩ = true := by decide +kernel
  have h2 : load2 sObj ⟨0, 0x1040000⟩ = true := by decide +kernel
  have h3 : load1 sObj ⟨0, 0x1050000⟩ = false := by decide +kernel
  have h4 : sObj.svn ⟨0, 0x1040000⟩ < sObj.mgmt.fsvn ↔ False := by decide +kernel
  refine ⟨?_, by simp [loadFail, h3]⟩
  simp only [loadFail, h1, h2, h4]
  cases load3 sObj ⟨0, 0x1040000⟩ <;> simp

/-- Both cases of a LAUNCH's checks: no reference (3), and all met. -/
theorem witness_QueuePackets_launch : launchCheck (sLn false) (launch0 false) = 3 ∧
    launchCheck { sLn false with queues := [(2, ⟨[(0x1040000, 1)], none, none⟩)] } (launch0 false) = 0 ∧ (launch0 false).isEmpty = false ∧
    (launchZero.all fun z => bits ((packet0 false).toList.getD z.1 0) z.2.1 z.2.2 = 0) = true := by decide +kernel
/-- The launch waits for its start. -/
def sWait : State := { sLn false with launches := [{ launch0 false with phase := .waiting }], core := { ctx0.core with tiles := [(3, 1)] } }
/-- s5 names queue 0; s6 and s7 hold an image's address, on a multiple of 128 and not. -/
def sPost : State := (withS [(5, 0), (6, 0x80), (7, 0x88), (8, 64)] (withW [(sp 0x88, 0x100F000)] (sP []))).setTag 0x408080 false

theorem test_launch_start :
    after (.launchStart 1) sWait (fun t => t.core.launch == some 1 && t.pri.run == .running && t.pri.pc == 0x10400C0 && t.core.tiles == [] &&
      t.launches.map Launch.phase == [.running]) = true := by decide +kernel

/-- The launch runs elsewhere already, its tuner has committed a later hoist, and it starts late here, while a command of a handler and
one of the launch are queued (R206, R358). -/
def sLate : State :=
  { sWait with
    launches := [{ launch0 false with waits := [(0, 0)], range := { RangeUnit.reset with hoist := Vector.replicate 14 9, gen := 3 } }]
    core := { sWait.core with
      mat := ⟨[{ cmd (.accZero 1 2 0) 0 1 0 0 with handler := true }, { cmd (.accZero 1 2 0) 0 1 0 0 with id := 1 }], none, none, none⟩
      locks := [⟨0, 0, 0, 0, 0, 0, 63, false, none, false⟩, ⟨1, 0, 0, 0, 1, 64, 127, true, none, false⟩] } }

theorem test_late_start :
    after (.launchStart 1) sLate (fun t => t.core.launch == some 1 && t.core.view == RangeUnit.reset.first && t.core.viewGen == 0 &&
      t.core.mat.queue.map Cmd.id == [0] && t.core.locks.map Lock.cmd == [0]) = true := by decide +kernel

theorem witness_LaunchesAndSuccessors_late :
    (fun l : Launch => sLate.launch? 1 = some l ∧ l.phase = .running ∧ sLate.mayStart l = true ∧ sLate.startsHere l = true ∧
      sLate.myPlace l = some (0, 0))
      { launch0 false with waits := [(0, 0)], range := { RangeUnit.reset with hoist := Vector.replicate 14 9, gen := 3 } } ∧
    (∃ q ∈ sLate.core.mat.running.toList ++ sLate.core.mat.queue ++ sLate.core.cpy.running.toList ++ sLate.core.cpy.queue,
      q.handler = true ∧ q.id = 0) := by decide +kernel

theorem test_launch_end :
    after (.launchEnd 1) { sLn false with pri := { (sLn false).pri with run := .ended } }
      (fun t => t.core.launch == none && t.pri.run == .noWork && t.launches.map Launch.phase == [.ended]) = true := by decide +kernel

theorem test_successors :
    after .hintSucc (sLn false) (fun t => t.launches.map Launch.hint == [true] && t.pc == 0x1004) = true ∧
    after .waitpred (sLn false) (fun t => t.pc == 0x1004) = true ∧
    after .waitpred { sLn false with launches := [{ launch0 false with pred := some 0 }, { launch0 false with id := 0 }] }
      (fun t => t.pri.wake.kind == 11 && t.pc == 0x1000) = true := by decide +kernel

theorem test_q_launch :
    after (.qLaunch 7 5 6) sPost (fun t => t.reg 7 == 0 && t.word 0x408000 == 1 && t.tag 0x408080 && t.word 0x408088 == 0x100F000) = true ∧
    after (.qLaunch 9 5 6) (withW [(0x408000, 2)] sPost) (fun t => t.reg 9 == 0x8000000000000000) = true := by decide +kernel

theorem witness_LaunchesAndSuccessors_start : sWait.launch? 1 = some { launch0 false with phase := .waiting } ∧
    sWait.mayStart { launch0 false with phase := .waiting } = true ∧ sWait.startsHere { launch0 false with phase := .waiting } = true ∧
    sWait.myPlace { launch0 false with phase := .waiting } = some (0, 0) ∧ sWait.launch? 2 = none ∧ (launch0 false).tun = false ∧
    (sLn false).mayStart (launch0 false) = false := by decide +kernel

theorem witness_LaunchesAndSuccessors_end :
    ({ sLn false with pri := { (sLn false).pri with run := .ended } } : State).mayEnd (launch0 false) = true ∧
    (sLn false).mayEnd (launch0 false) = false ∧ (launch0 false).fault = none ∧ (launch0 false).hasMap = false ∧
    ({ launch0 false with fault := some (2, 3, 0) } : Launch).fault = some (2, 3, 0) ∧ (sLn false).runLaunch = some (launch0 false) ∧
    (launch0 false).succ = true ∧ ({ launch0 false with packet := Vector.replicate 16 0 } : Launch).succ = false ∧ ctx0.runLaunch = none ∧
    (sLn false).attached = false ∧ (sLn false).predRuns = false ∧
    ({ sLn false with launches := [{ launch0 false with pred := some 0 }, { launch0 false with id := 0 }] } : State).predRuns = true := by
  decide +kernel

/-- Room in the queue, as the reads of Q.LAUNCH find it. -/
def roomFor (s : State) (q : Nat) (va : Word) : Option Bool :=
  match loadBytes va 128 s with
  | .ok (_, s1) => match wordSites (BitVec.ofNat 64 (s1.qbase s.ctxNo q)) 2 s1 with
    | .ok (ctl, s2) => match wordSites (BitVec.ofNat 64 (s2.slotVa s.ctxNo q (s2.num (siteKey ctl) 8))) 16 s2 with
      | .ok (_, s3) => if ok (releaseRes .dev s3) then
          some (decide (s2.num (siteKey ctl) 8 - s2.num (siteKey ctl + 8) 8 < s2.nslot s.ctxNo q)) else none
      | .error _ => none
    | .error _ => none
  | .error _ => none

theorem witness_LaunchesAndSuccessors_post : bits (sPost.reg 5) 6 58 = 0 ∧ sPost.qen sPost.ctxNo (bits (sPost.reg 5) 0 6) = true ∧
    bits (sPost.reg 8) 6 58 ≠ 0 ∧ (sPost.reg 6).toNat % 128 = 0 ∧ (sPost.reg 7).toNat % 128 ≠ 0 ∧
    classify sPost (sPost.reg 6) ∉ [.gap, .event, .protect] ∧ roomFor sPost 0 (sPost.reg 6) = some true ∧
    roomFor (withW [(0x408000, 2)] sPost) 0 (sPost.reg 6) = some false := by decide +kernel
/-- A command of the controller with its arguments (R423), on the device of context 0, whose clusters are all available. -/
def sCmd (code : BitVec 16) (args : List Word) : State :=
  { ctx0 with mgmt := { ctx0.mgmt with code := code, go := true, taken := vmk 4 fun j => args.getD j 0, avail := BitVec.allOnes 256 } }

/-- The core hosts no context, and context 0 is in a state. -/
def sCtx (code : BitVec 16) (x : CtxState) (r : Option Saved) : State :=
  { sCmd code [0] with ctxs := [(0, ⟨x, false, 0, false, r, []⟩)], core := { Core.reset with chans := ctx0.core.chans } }

def saved0 : Saved := ⟨{ sM.pri with stopped := true }, sM.aux, { sM.core with k := [(1, 7)] }, []⟩

/-- Both threads of this core are taken by a save. -/
def sSave (n : Nat) : State :=
  { ctx0 with
    ctxs := [(0, ⟨.saving, false, n, false, none, []⟩)]
    pri := { ctx0.pri with stopped := true }
    aux := { ctx0.aux with stopped := true } }

/-- Context 1 is Ready on the cluster of the Running context 0, with a posted slot of a class-0 queue. -/
def sEns : State :=
  (withW [(0x80080, 0x100001), (0x80090, 0x200000), (0x80098, 0x210000)] { sP [0x5000000000000000] with
    ctxs := [(0, ⟨.running, false, 0, false, none, []⟩), (1, ⟨.ready, false, 0, false, none, []⟩)] })

theorem test_attach_run :
    after .attach { sCmd 1 [0] with ctxs := [] } (fun t => t.ctxState 0 == .ready && !t.mgmt.go && t.mgmt.rsp == 0) = true ∧
    after .attach (sCmd 1 [0]) (fun t => t.mgmt.rsp == 0x0100000000000000) = true ∧
    after .run (sCtx 2 .ready none) (fun t => t.ctxState 0 == .running && t.core.ctx == some 0 && t.mgmt.rsp == 0) = true := by
  decide +kernel

theorem test_preempt_resume :
    after .preempt (sCmd 3 [0]) (fun t => t.ctxState 0 == .saving) = true ∧
    after .resume (sCtx 4 .saved (some saved0)) (fun t => t.ctxState 0 == .running && t.pri.pc == sM.pri.pc && t.core.k == [(1, 7)]) = true ∧
    after .detach (sCtx 5 .saved (some saved0)) (fun t => t.ctxState 0 == .unconfigured && t.mgmt.rsp == 0) = true := by decide +kernel

theorem test_save :
    after (.threadStop .pri) { sSave 0 with pri := { ctx0.pri with wake := ⟨8, false, 3, 0, 0⟩ } } (fun t => t.pri.stopped && t.pri.wake.kind == 8) = true ∧
    after (.saveComplete 0) { sSave 0 with pri := ctx0.pri } (fun t => t.ctxState 0 == .saving && t.core.ctx == some 0) = true ∧
    after (.saveWatchdogExpiry 0) (sSave 1) (fun t => t.ctxState 0 == .ready && (t.ctx? 0).any Ctx.saveFailed) = true ∧
    after (.class0PreemptRequest 1) sEns (fun t => t.ctxState 0 == .saving && (t.ctx? 1).any Ctx.wanted) = true := by decide +kernel

/-- The wake record of a thread at CC.WAIT of value 3 (R386): kind 8, its PC, and the operand. -/
theorem test_wake_record :
    (fun s : State => (s.word 0x400000, s.word 0x400008, s.word 0x400010, s.word 0x400018))
      (putWake 0x400000 { sM.pri with wake := ⟨8, false, 3, 0x40, 3⟩ } sM) = (8, 0x1000, 0, 3) := by decide +kernel

theorem witness_ContextLife_commands : (∀ p ∈ [1, 2, 3, 4, 5], Command (sCmd (BitVec.ofNat 16 p) [0]) p) ∧ Command (sCmd 1 [4096]) 1 ∧
    (4095 < (sCmd 1 [4096]).mgmt.taken[0].toNat ∧ (sCmd 1 [4095]).mgmt.taken[0].toNat ≤ 4095) ∧
    (({ sCmd 1 [0] with ctxs := [] } : State).desc 0 0).getLsbD 0 = true ∧ (((sCmd 1 [0]).desc 7 0).getLsbD 0 = false) ∧
    (sCmd 1 [0]).mgmt.kind ≠ 2 ∧ swf ELine.fresh 0 (sCmd 1 [0]).lines = true := by
  unfold Command; decide +kernel

theorem witness_ContextLife_placing : (sCtx 2 .ready none).placeOk 0 = true ∧ (sCtx 2 .ready none).remapFree 0 = true ∧
    (sCtx 2 .ready none).core.ctx = none ∧ ((sCtx 2 .ready none).writeRemap 0).hosted 0 (sCtx 2 .ready none).core.phys = some (0, 0) ∧
    (sCtx 4 .saved (some saved0)).placeOk 0 = true ∧ (sCtx 4 .saved (some saved0)).remapFree 0 = true ∧
    ((sCtx 4 .saved (some saved0)).ctx? 0).map Ctx.saved = some (some saved0) ∧ ctx0.placeOk 0 = false := by decide +kernel

/-- The clock of physical cluster 0 is stopped. -/
def clockOff (s : State) : State := { s with power := { s.power with stopped := 1 } }

/-- A command that would act on its cores waits; the cluster is free of it before and after (R407). -/
theorem test_stopped_clock :
    after .run (clockOff (sCtx 2 .ready none)) (fun t => t.ctxState 0 == .ready && t.mgmt.go) = true ∧
    after .resume (clockOff (sCtx 4 .saved (some saved0))) (fun t => t.ctxState 0 == .saved && t.mgmt.go) = true ∧
    after (.saveWatchdogExpiry 0) (clockOff (sSave 1)) (fun t => t.ctxState 0 == .saving) = true := by decide +kernel

theorem witness_ContextLife_stopped : (sCtx 2 .ready none).wantsStopped 0 = false ∧ (clockOff (sCtx 2 .ready none)).wantsStopped 0 = true ∧
    (clockOff (sCtx 2 .ready none)).placeOk 0 = true ∧ (clockOff (sCtx 2 .ready none)).remapFree 0 = true ∧
    (clockOff (sCtx 4 .saved (some saved0))).wantsStopped 0 = true ∧ (sSave 1).holdsStopped 0 = false ∧
    (clockOff (sSave 1)).holdsStopped 0 = true ∧
    (fun s : State => s.ctxState 0 = .halted ∧ s.holdsStopped 0 = false ∧ (clockOff s).holdsStopped 0 = true)
      { sCmd 5 [0] with ctxs := [(0, ⟨.halted, false, 0, false, none, []⟩)] } := by decide +kernel

theorem witness_ContextLife_saves : ({ sSave 0 with pri := { ctx0.pri with wake := ⟨8, false, 3, 0, 0⟩ } } : State).saving = true ∧
    ({ sSave 0 with pri := { ctx0.pri with wake := ⟨8, false, 3, 0, 0⟩ } } : State).atBlock .pri = true ∧
    ctx0.saving = false ∧ (sSave 0).ctx? 0 = some ⟨.saving, false, 0, false, none, []⟩ ∧ (sSave 0).mayFinish 0 = true ∧
    (sSave 0).core.ctx = some 0 ∧ NoneWanted (sSave 0) 0 ∧ (sSave 1).ctx? 0 = some ⟨.saving, false, 1, false, none, []⟩ ∧
    ({ sSave 0 with pri := ctx0.pri } : State).mayFinish 0 = false ∧ ctx0.ctx? 5 = none := by
  unfold NoneWanted; decide +kernel

theorem witness_ContextLife_class0 : sEns.ctx? 1 = some ⟨.ready, false, 0, false, none, []⟩ ∧ sEns.ensignFull 1 = [(0, 0)] ∧
    NoneWanted sEns 1 ∧ sEns.ctx? 0 = some ⟨.running, false, 0, false, none, []⟩ ∧ (∃ m ∈ sEns.remaps 0, ∃ n ∈ sEns.tableRemaps 1, m.2.2 = n.2.2) ∧
    (∀ p ∈ ({ sEns with ctxs := [(1, ⟨.ready, false, 0, false, none, []⟩)] } : State).ctxs, p.1 ≠ 1 → p.2.state.holds = false) := by
  unfold NoneWanted; decide +kernel
/-! ## Management, starts, errors and power -/

/-- One page is retired. -/
def sRep : State := { sCmd 0x31 [0x100] with mgmt := { (sCmd 0x31 [0x100]).mgmt with pages := [3] } }
def sUpd (args : List Word) : State := withW [(2 ^ 60 + 0x100, 0xBBAA)] (sCmd 0x21 args)

theorem test_device_commands :
    after .warm (sCmd 0x10 []) (fun t => t.mgmt.starting && t.mgmt.kind == 0 && t.mgmt.last == 0) = true ∧
    after .updOpen (sCmd 0x20 [1]) (fun t => t.mgmt.opened == 1 && !t.mgmt.go) = true ∧
    after .updOpen (sCmd 0x20 [2]) (fun t => t.mgmt.rsp == 0x0200000000000000) = true ∧
    after .updWrite (sUpd [0x100, 5, 2]) (fun t => ((t.mgmt.banks[0])[1]).bytes == [(5, 0xAA), (6, 0xBB)]) = true ∧
    after .updWrite (sUpd [0x100, 16777215, 2]) (fun t => t.mgmt.rsp == 0x0200000000000000) = true ∧
    after .logRead (sCmd 0x30 [0, 0, 1025]) (fun t => t.mgmt.rsp == 0x0200000000000000) = true ∧
    after .repairList sRep (fun t => t.num (2 ^ 60 + 0x104) 4 == 1 && t.num (2 ^ 60 + 0x110) 8 == 0x30000 && t.mgmt.rsp == 24) = true ∧
    after .measExtend (sCmd 0x32 [11]) (fun t => t.mgmt.rsp == 0x0200000000000000) = true := by decide +kernel

/-- Every argument at the ends of its range. -/
theorem witness_DeviceCommands : (∀ p ∈ [0x20, 0x21, 0x22, 0x23, 0x30, 0x31, 0x32], Command (sCmd (BitVec.ofNat 16 p) [0]) p) ∧ sRep.mgmt.taken[0].toNat + 24 ≤ 2 ^ 60 ∧
    FewFailures (sCmd 0x10 []) ∧ (sCmd 0x10 []).mgmt.go = true ∧ (sCmd 0x10 []).mgmt.code.toNat = 0x10 ∧
    ((sUpd [0x100, 16777215, 1]).mgmt.taken[2].toNat = 1 ∧ (sUpd [0x100, 16777215, 1]).mgmt.taken[1].toNat + 1 ≤ 16777216) ∧
    swf 0 0 (updBank (sUpd [0, 0, 65536])).bytes = true ∧ (sCmd 0x23 [1]).mgmt.kind ≠ 2 ∧
    (∀ i j : Fin 2, ((sCmd 0x23 [1]).mgmt.banks[i])[j].pending = false) ∧ sRep.mgmt.pages = [3] ∧ sRep.mgmt.fences = [] ∧
    sRep.mgmt.spares = [] ∧ Memory.wf sRep.mem = true ∧ (sCmd 0x30 [0, 0, 1024]).mgmt.taken[2].toNat = 1024 ∧
    (sCmd 0x32 [12]).mgmt.taken[0].toNat = 12 ∧ (sCmd 0x32 [16]).mgmt.taken[0].toNat = 16 := by
  unfold Command FewFailures; decide +kernel

/-- Whatever the inactive bank holds, one clause of UPD.ACTIVATE meets it; so for the arguments of SVN.COMMIT. -/
theorem witness_DeviceCommands_images (b : Config.ImageBytes) (s : State) (n : Nat) :
    (Config.imageSvn b = none ∨ ∃ v, Config.imageSvn b = some v ∧ (Config.imageSigned b = false ∨
      (Config.imageSigned b = true ∧ (v < s.mgmt.fsvn ∨ s.mgmt.fsvn ≤ v)))) ∧
    ((s.mgmt.fsvn < n ∧ n ≤ 128 ∧ ∀ i : Fin 2, n ≤ s.mgmt.runningSvn i) ∨
      ∃ i : Fin 2, n ≤ s.mgmt.fsvn ∨ 128 < n ∨ s.mgmt.runningSvn i < n) := by
  refine ⟨?_, ?_⟩
  · cases h : Config.imageSvn b with
    | none => exact .inl rfl
    | some v => exact .inr ⟨v, rfl, by
        cases Config.imageSigned b
        · exact .inl rfl
        · exact .inr ⟨rfl, by omega⟩⟩
  · by_cases h : ∃ i : Fin 2, s.mgmt.runningSvn i < n
    · obtain ⟨i, hi⟩ := h
      exact .inr ⟨i, .inr (.inr hi)⟩
    · have h' : ∀ i : Fin 2, n ≤ s.mgmt.runningSvn i := fun i => Nat.le_of_not_lt fun hi => h ⟨i, hi⟩
      by_cases h1 : s.mgmt.fsvn < n ∧ n ≤ 128
      · exact .inl ⟨h1.1, h1.2, h'⟩
      · exact .inr ⟨0, by omega⟩

theorem test_registers :
    after (.registerWrite 0x010 0x8000000000000001) ctx0 (fun t => t.mgmt.go && t.mgmt.code == 1 && t.mgmt.taken == ctx0.mgmt.args) = true ∧
    after (.registerWrite 0x010 0x8000000000000006) ctx0 (fun t => !t.mgmt.go && t.mgmt.rsp == 0x0200000000000000) = true ∧
    after (.registerWrite 0x010 5) (sCmd 1 []) (fun t => t.mgmt.go && t.mgmt.code == 1 && t.mgmt.codeReg == 5) = true ∧
    after (.registerWrite 0x028 9) ctx0 (fun t => t.mgmt.args == #v[0, 9, 0, 0]) = true ∧
    after (.mgCtxbaseWrite 0xFFF0000000012345) run0 (fun t => t.ctxBase == 0) = true ∧ after (.mgCtxbaseWrite 0x8000F) run0 (fun t => t.ctxBase == 0x80000) = true ∧
    after (.shareWrite 0x19191919) run0 (fun t => t.power.share == 0x19191919) = true ∧ after (.shareWrite 26) run0 (fun t => t.power.share == 0x19191919) = true ∧
    after (.rampWrite 5600) run0 (fun t => t.power.ramp == 5600) = true ∧ after (.rampWrite 5601) run0 (fun t => t.power.ramp == 700) = true ∧
    after (.acctClr 0x101) { run0 with power := { run0.power with acct := [(15, 1), (16, 2), (31, 3), (32, 4)] } }
      (fun t => t.power.acct == [(15, 1), (32, 4)]) = true ∧
    after (.rsvLendWrite false 1 5) run0 (fun t => t.power.rsv == #v[0, 5, 0, 0]) = true := by decide +kernel

theorem test_spdm :
    after .getVersion run0 (fun t => t.mgmt.spdmOut == [.version [0x13]]) = true ∧ after .getVersion State.reset (fun t => t.mgmt.spdmOut == [.busy]) = true ∧
    after (.getMeasurements 3) { run0 with mgmt := { run0.mgmt with meas := run0.mgmt.meas.set 2 7 } } (fun t => match t.mgmt.spdmOut with
      | [.measurements b _] => b == [(3, 7)]
      | _ => false) = true := by decide +kernel

/-- A Running context with a class-0 queue, whose cluster 0 is reserved. -/
def sRsv : State := { sEns with power := { sEns.power with rsv := #v[1, 0, 0, 0] } }

theorem witness_RegistersAndAttestation : State.reset.mgmt.answers = false ∧ run0.mgmt.answers = true ∧
    (∀ p ∈ run0.ctxs, p.2.state = .unconfigured) ∧ (∃ p ∈ ctx0.ctxs, p.2.state ≠ .unconfigured) ∧ run0.ensignClusters = [] ∧
    (0 ∈ sRsv.ensignClusters ∧ sRsv.mgmt.answers = true ∧ sRsv.power.rsv[(0 : Fin 4)].getLsbD 0 = true) ∧ swf 0 0 run0.power.acct = true ∧
    run0.mgmt.go = false ∧ (sCmd 1 []).mgmt.go = true ∧ State.reset.mgmt.ready = false ∧ run0.mgmt.ready = true ∧
    run0.mgmt.spdmRest = [] ∧ ({ run0.mgmt with spdmRest := [1] } : Mgmt).spdmRest ≠ [] := by decide +kernel

/-- A start that has come to a step. -/
def sStart (kind last : Nat) : State := { State.reset with mgmt := { Mgmt.reset with kind := kind, last := last } }

theorem test_start :
    after .startStepComplete (sStart 0 0) (fun t => t.mgmt.last == 1 && t.mgmt.starting) = true ∧
    after .startStepComplete (sStart 1 5) (fun t => t.mgmt.last == 7) = true ∧
    after .startStepComplete (sStart 0 10) (fun t => t.mgmt.ready && !t.mgmt.starting) = true ∧
    after .startStepTimeout { sStart 0 4 with mgmt := { (sStart 0 4).mgmt with standby := 700, window := [50, 100, 650] } }
      (fun t => t.mgmt.kind == 2 && t.mgmt.window == [] && t.mgmt.last == 0) = true ∧
    after .startStepComplete { sStart 1 5 with mgmt := { (sStart 1 5).mgmt with defects := [(false, 3)], mapSaved := true } }
      (fun t => t.mgmt.defects == [(false, 3)] && t.mgmt.fenced == []) = true ∧
    after .startStepComplete { sStart 1 5 with mgmt := { (sStart 1 5).mgmt with defects := [(false, 3)] } }
      (fun t => t.mgmt.defects == [] && t.mgmt.fences.map Prod.fst == [3]) = true ∧
    after .kararlinkHotReset { run0 with mgmt := { run0.mgmt with trained := true } } (fun t => t.mgmt.kind == 1 && t.mgmt.starting) = true ∧
    after .standbyPowerLoss run0 (fun t => !t.mgmt.powered && !t.mgmt.ready && !t.mgmt.standbyPower) = true := by decide +kernel

/-- Steps 3 and 10 check images, which may be good or bad; every other step completes. -/
theorem witness_StartsOfTheDevice : FewFailures State.reset ∧ State.reset.mgmt.powered = true ∧ State.reset.mgmt.starting = true ∧
    run0.mgmt.starting = false ∧ ({ Mgmt.reset with powered := false } : Mgmt).powered = false ∧ stepOk (sStart 0 0) ((sStart 0 0).mgmt.last + 1) = true ∧
    stepOk (sStart 0 10) ((sStart 0 10).mgmt.last + 1) = true ∧ (sStart 1 0).mgmt.kind = 1 ∧ (sStart 1 5).mgmt.last = 5 ∧
    (sStart 1 5).mgmt.mapSaved = false ∧ ({ (sStart 1 5).mgmt with mapSaved := true } : Mgmt).mapSaved = true ∧
    (sStart 0 2).mgmt.last = 2 ∧ ((sStart 0 2).mgmt.bootOk 0 = false ∨ (sStart 0 2).mgmt.bootOk 0 = true) ∧
    (sStart 0 9).mgmt.last = 9 ∧ ((sStart 0 9).mgmt.bootOk 1 = false ∨ (sStart 0 9).mgmt.bootOk 1 = true) :=
  ⟨by unfold FewFailures; decide +kernel, rfl, rfl, rfl, rfl, by decide +kernel, by decide +kernel, rfl, rfl, rfl, rfl, rfl,
    by cases (sStart 0 2).mgmt.bootOk 0 <;> simp, rfl, by cases (sStart 0 9).mgmt.bootOk 1 <;> simp⟩

theorem test_errors :
    after (.uncorrectableError (.scratch 0 0x80044)) sM (fun t => t.poisoned (sp 0x40) && t.word (sp 0x40) == 0xFFEEDDCCBBAA9988) = true ∧
    after .parityError (sLn false) (fun t => t.core.dead && t.pri.run == .stopped && t.core.fenced &&
      t.launches.map (fun l => l.fault.map fun f => f.2.1) == [some 0x0C]) = true ∧
    after (.codeLineError 9) sM (fun t => t.core.badLines == [9]) = true ∧ after .linkLevelRetry sM (fun t => t.mgmt.retries == 1) = true := by
  decide +kernel

theorem witness_ErrorsAndRetirement : swf false 0 sM.poison = true ∧ sM.core.dead = false ∧ sM.core.phys ∉ sM.mgmt.fenced ∧
    ({ sM.core with dead := true } : Core).dead = true ∧ 1 ≠ sM.core.phys ∧ sM.resident 0 = some (0, 0, 0) ∧
    sM.resident 4 = none := by decide +kernel

/-- Cluster 0 reserved, its rail, clock and stop as given. -/
def sRail (rails clocks stopped : BitVec 256) : State :=
  { sRsv with power := { sRsv.power with rails := rails, clocks := clocks, stopped := stopped } }

/-- A launch's core with a power hint. -/
def sHint (n : Nat) : State :=
  { sLn false with core := { (sLn false).core with pwrStat := BitVec.ofNat 64 (4 * n) } }

/-- Level 8 of the cap, measure 4, is in force. -/
def sCap : State := { sRail 1 1 0 with power := { (sRail 1 1 0).power with level := 8 } }

theorem test_power :
    after (.railChange 0 true) sRsv (fun t => t.power.rails == 1 && t.power.stopped == 0) = true ∧
    after (.railChange 0 true) (sRail 1 0 0) (fun t => t.power.rails == 1 && t.power.stopped == 1 && t.power.relock == 1) = true ∧
    after (.energyAttribution [(0, 2500)] 0 []) run0 (fun t => t.power.unattrUj == 2 && t.power.unattrNj == 500) = true ∧
    after (.leaseReceipt 1 2000 5) run0 (fun t => t.power.active && t.power.expiry == 500000) = true ∧
    after (.powerCapControl true) run0 (fun t => t.power.level == 1 && t.power.measure == 1) = true ∧
    after (.stackDerateEnter 7) run0 (fun t => t.power.derated == 0x80 && t.power.derates == 1) = true ∧
    after (.droopDetect 0) run0 (fun t => t.core.pwrStat == 0 && t.power.stretching == 1 && sget 0 t.power.droops 0 == 1) = true ∧
    after (.rampMicrosecond 2) { run0 with power := { run0.power with rampPrev := [(2, 1000)], rampNow := [(2, 200)] } }
      (fun t => sget 0 t.power.rampPrev 2 == 300 && sget 0 t.power.rampNow 2 == 0) = true := by decide +kernel

/-- The hints of cluster 0's launches, and whether the cap lowers them. -/
def hinted (s : State) : List Nat := (s.launchCores 0).map fun p => s.hintOf p.2
def lowered (s : State) : List Bool := (s.launchCores 0).map fun p => s.power.lowers (s.qclass p.1.ctx p.1.queue)

/-- A launch holds cluster 0: its hints and the cap decide the rail. -/
theorem witness_PowerAndAccounting_rails : (sRail 0 0 0).railTarget 0 = true ∧ sCap.railTarget 0 = false ∧
    ([(0, 0), (1, 0), (1, 1)].all fun p => (sRail p.1 p.2 0).railTarget 0 && !(sRail p.1 p.2 0).power.stopped.getLsbD 0 &&
      ((sRail p.1 p.2 0).power.rails.getLsbD 0 == p.1.getLsbD 0) && ((sRail p.1 p.2 0).power.clocks.getLsbD 0 == p.2.getLsbD 0)) = true ∧
    sCap.power.stopped.getLsbD 0 = false ∧ sCap.power.clocks.getLsbD 0 = true ∧ ({ sCap.power with clocks := 0 } : Power).rails.getLsbD 0 = true ∧
    ({ sCap.power with clocks := 0, rails := 0 } : Power).rails.getLsbD 0 = false ∧ (sRail 1 0 1).power.stopped.getLsbD 0 = true ∧
    maskBit sRsv.power.rsv 0 = true ∧ sRsv.power.measure < 4 ∧ ¬ sCap.power.measure < 4 ∧ maskBit (sLn false).power.rsv 0 = false ∧
    maskBit run0.power.rsv 0 = false ∧ (run0.launchCores 0).isEmpty = true ∧
    lowered (withW [(0x210028, 0x20000)] { sLn false with power := { (sLn false).power with level := 8 } }) = [true] ∧
    hinted (sHint 1) = [1] ∧ hinted (sHint 2) = [2] ∧ lowered (sHint 2) = [false] ∧
    (sRail 1 1 0).power.rampSkip.getLsbD 0 = false ∧ ({ sRsv.power with rampSkip := 1 } : Power).rampSkip.getLsbD 0 = true ∧
    swf 0 0 sRsv.power.rampNow = true ∧ swf 0 0 sRsv.power.droops = true ∧
    ({ run0.power with level := 7 } : Power).level = 7 ∧ run0.power.level ≠ 7 := by decide +kernel

theorem witness_PowerAndAccounting : swf 0 0 ctx0.power.acct = true ∧ swf 0 0 ctx0.power.residue = true ∧
    swf 0 0 ctx0.power.rampPrev = true ∧ swf 0 0 ctx0.power.rampNow = true ∧ (∀ p ∈ ctx0.ctxs, p.2.wanted = false) ∧
    (clockOff ctx0).power.stopped.getLsbD 0 = true ∧ (clockOff ctx0).myLaunch = none ∧
    ((clockOff { sLn false with launches := [{ launch0 false with phase := .ending }] }).myLaunch.map Launch.phase) = some .ending ∧
    ctx0.power.moved = [] ∧ 0 < max 3 (sget 0 ctx0.power.moved 1) + max 4 (sget 0 ctx0.power.moved 2) ∧
    (fun p : Power => p.active = true ∧ p.ref.toNat < p.expiry ∧ ¬ p.expiry ≤ p.ref.toNat) { ctx0.power with active := true, expiry := 500, ref := 499 } ∧
    ({ ctx0.power with active := true, expiry := 500, ref := 500 } : Power).expiry ≤ (500 : Word).toNat ∧ ctx0.holder 0 = some 0 ∧ ctx0.holder 1 = none ∧ State.reset.mgmt.starting = true ∧
    State.reset.power.held.length < 16 ∧ run0.power.anyLease = false ∧ (5 : BitVec 32) ≠ 4 ∧ (5 - 4 : BitVec 32).toNat < 2 ^ 31 ∧ ({ run0.power with anyLease := true, lastSeq := 4 } : Power).lastSeq = 4 ∧
    2 ^ 31 ≤ (0x80000004 - 4 : BitVec 32).toNat ∧ ({ run0.power with active := true } : Power).active = true ∧ run0.power.active = false ∧
    run0.power.derated.getLsbD 7 = false ∧ (0x80 : BitVec 8).getLsbD 7 = true := by decide +kernel

/-! ## The machine as a whole -/

/-- What the foot finds at an address: a long instruction, from one or two parcels' lines, or a compact one. -/
def foot (s : State) : Option (Instr × Nat) := match codeLoc s.pc s with
  | .ok (l, s1) => match s1.codeLine (l.key / 64) with
    | some (b, s2) =>
      let p := leNat ((b.drop (l.key % 64)).take 2)
      if s2.poolLine s.pc.toNat then none
      else if !isLong p then (decodeParcels p 0).toOption
      else match codeLoc (s.pc + 2) s2 with
        | .ok (m, s3) => match s3.codeLine (m.key / 64) with
          | some (c, s4) => if s4.poolLine (s.pc.toNat + 2) then none
            else (decodeParcels p (leNat ((c.drop (m.key % 64)).take 2))).toOption
          | none => none
        | .error _ => none
    | none => none
  | .error _ => none

/-- A line in memory, one in the cache, one marked bad, and one that holds poison. -/
theorem witness_StepRunsDecoded_fetch : foot sI = some (.cNop, 2) ∧ sI.attached = false ∧
    foot (State.reset.withFetchWord 32 0xC02A6866) = some (.sub true 5 (.s 6) (.k 3), 4) ∧
    (State.reset.withFetchWord 32 0xC02A6866).attached = false ∧
    (0x10004 ∉ sI.core.badLines ∧ sI.cached 0x10004 = none ∧ sI.poisonedLine 0x10004 = false) ∧
    (sI.fillCode 0x10004).cached 0x10004 = some (sI.bytes 0x400100 64) ∧
    (9 ∈ ({ sI.core with badLines := [9] } : Core).badLines) ∧ (sI.setPoison 0x400100 true).poisonedLine 0x10004 = true := by
  decide +kernel

/-- A leader whose forward log holds so many parcels. -/
def sLead (n : Nat) : State :=
  { sI with core := { sI.core with slave := { sI.core.slave with role := .leader, log := [.parcels 0 n] } } }

/-- A lease ends with its time, before LEASE_EXPIRY is served (R412); a launch that failed while its clock stood stops at the restart. -/
theorem test_lease_time : ({ run0.power with active := true, lease := ⟨1, 1200, 5⟩, expiry := 500, ref := 499 } : Power).budget = 1200 ∧
    ({ run0.power with active := true, lease := ⟨1, 1200, 5⟩, expiry := 500, ref := 500 } : Power).leased = false ∧
    after (.clockRestart 0) (clockOff { sLn false with launches := [{ launch0 false with phase := .ending }] })
      (fun t => t.pri.run == .stopped && t.power.stopped == 0) = true := by decide +kernel

/-- A thread's turn, a fetch that traps, a follower that has nothing to issue, and both kinds of event on the agenda. -/
theorem witness_StepRunsDecoded : sI.agenda = [] ∧ pickThread sI sI.runnable = some .pri ∧ sI.turn = false ∧ sI.starves .pri = false ∧
    fetched sI = 0 ∧ fetched sM = 1 ∧ sI.logFull .cNop = false ∧ (sLead 4096).logFull .cNop = true ∧ sM.lineStands 0 = false ∧
    pickThread sM sM.runnable = some .pri ∧ isEvent (.rampWrite 5) = true ∧ isCoreEvent .issue = true ∧ sM.stands = false ∧
    sM.mgmt.powered = true ∧ sM.mgmt.starting = false ∧ (Outside.enqueue (Vector.replicate 8 0)).reachesCore = true ∧ sM.clockStopped = false ∧
    (fun s : State => pickThread s s.runnable = some .pri ∧ s.starves .pri = true)
      { sI with core := { sI.core with slave := { sI.core.slave with role := .attached } } } := by decide +kernel

/-- SUB.W s5, s6, k3 from its bytes in the place that step fetches from (R88). -/
theorem test_step : (match step (State.reset.withFetchWord 32 0xC02A6866) with
      | .next t => decide (t.pri.pc = 0x1000004 ∧ t.pri.getS 5 = 0)
      | _ => false) = true ∧
    (match codeLoc (State.reset.withFetchWord 32 0xC02A6866).pc (State.reset.withFetchWord 32 0xC02A6866) with
      | .ok (l, s1) => isLong (s1.num l.key 2)
      | .error _ => false) = true := by decide +kernel

/-- Some bytes decode to an instruction of a length. -/
def reads4 (b : List Byte) (i : Instr) (n : Nat) : Bool := match decodeBytes b with
  | .ok r => decide (r = (i, n))
  | .error _ => false

theorem witness_DecodeEncodeAgree : Instr.wf (.sub true 5 (.s 6) (.k 3)) = true ∧ isAlias (.sub true 5 (.s 6) (.k 3)) = false ∧
    encodeBytes (.sub true 5 (.s 6) (.k 3)) = some [0x2A, 0xC0, 0x66, 0x68] ∧
    reads4 [0x2A, 0xC0, 0x66, 0x68, 1, 2] (.sub true 5 (.s 6) (.k 3)) 4 = true ∧ encodeBytes .cNop = some [0, 0x78] ∧
    reads4 [0, 0x78, 0x66] .cNop 2 = true := by decide +kernel

/-- The forms stand at reset and in a state that lists something. -/
theorem witness_CanonicalFormKept : Canonical State.reset ∧ Canonical (sP [5]) := by
  unfold Canonical; decide +kernel
/-! ## The rest of the device -/

/-- A step takes this from the agenda. -/
def brings (o : Outside) (s : State) (p : State → Bool) : Bool :=
  match step { s with agenda := [.out o] } with
  | .next t => p t
  | _ => false

/-- An arrival of another core waits for the line's next cycle and completes a barrier's phase then (R318, R319), and one in this core's
own name is none; another core's write reaches this core's scratchpad; its atomic is one step (R164). -/
theorem test_outside_memory :
    brings (.line 7 ⟨1, 0, .pri⟩ (.arrive false)) (sE 0 0 (barrier 1)) (fun t => after (.eventLineService 7) t fun u => (u.line 7).phase == 6) = true ∧
    brings (.line 7 ⟨0, 0, .pri⟩ (.arrive false)) (sE 0 0 (barrier 1)) (fun t => (t.line 7).ops == []) = true ∧
    brings (.write (sp 0x100) [1, 2]) sM (fun t => t.num (sp 0x100) 2 == 0x0201) = true ∧
    brings (.atomic 0x400000 8 .add 5 0) sM (fun t => t.word 0x400000 == 5) = true ∧
    brings (.tagWrite 0x400000 9) sM (fun t => t.word 0x400000 == 9 && t.tag 0x400000) = true := by decide +kernel

/-- A rectangle of two cores: the other one's SSTEP and EXIT are counted once (R239, R240). -/
def sTwo : State :=
  { sLn false with launches := [{ launch0 false with packet := (launch0 false).packet.set 4 0x2040000 }] }

theorem test_outside_launches :
    brings (.sstep 1 1) sTwo (fun t => t.launches.map Launch.atStep == [[1]]) = true ∧
    brings (.ended 1 1) sTwo (fun t => t.launches.map Launch.exited == [[1]]) = true ∧
    brings (.ended 1 0) sTwo (fun t => t.launches.map Launch.exited == [[]]) = true ∧
    brings (.fault 1 3 7) sTwo (fun t => t.launches.map (fun l => (l.phase, l.fault)) == [(.ending, some (2, 3, 7))]) = true := by
  decide +kernel

/-- A handler on another core ends a trap wait of this one's primary thread (R385), and drops a refused entry (R384). -/
theorem test_outside_handlers :
    brings (.tret .pri 0x1004 false) sHq (fun t => t.pri.run == .running && t.pri.pc == 0x1004) = true ∧
    brings (.drop .pri 4) sJ (fun t => t.pri.journal[4].state == .free) = true := by decide +kernel

/-- C.NOP of the leader reaches an attached follower, which issues and commits it (R49). -/
def sFol : State := { sM with core := { sM.core with slave := { sM.core.slave with role := .attached } } }

theorem test_follower :
    brings (.parcel 0x2000 0x7800 0) sFol (fun t => t.core.slave.stream.map (fun f => f.instr?) == [some .cNop]) = true ∧
    (match step { sFol with core := { sFol.core with slave := { sFol.core.slave with stream := [⟨0, 0x2000, 0x7800, 0⟩], arrived := 1 } } } with
      | .next t => decide (t.pri.pc = 0x2002) && decide (t.core.slave.stream = [])
      | _ => false) = true := by decide +kernel

end Sys2Proof.Tests
end

section
/-! PROOF. No instruction and no event is refused (R16, log 132): what the shared outcomes and the units' events can answer. -/

namespace Sys2Proof.Machine

/-- An outcome that NothingRefused allows: a next state, or the fault of an access beyond the HBM's end. -/
def Unrefused (o : Host.Outcome State Fault Refusal) : Prop := (∃ t, o = .next t) ∨ o = .fault .hbmBeyondEnd

/-! ## The outcomes that meanings share -/

theorem Unrefused.next (t : State) : Unrefused (.next t) := .inl ⟨t, rfl⟩

/-- The model has no other fault. -/
theorem Unrefused.fault (f : Fault) : Unrefused (.fault f) := by
  cases f
  exact .inr rfl

theorem Unrefused.ite {c : Prop} [Decidable c] {o p : Host.Outcome State Fault Refusal} (ho : Unrefused o) (hp : Unrefused p) :
    Unrefused (if c then o else p) := by
  split
  · exact ho
  · exact hp

/-- A trap and a wait are next states; only a stop with a fault is none. -/
theorem Unrefused.finish (r : Res State) : Unrefused (finish r) :=
  match r with
  | .ok s => .next s
  | .error (.trap c a i s) => .next (takeTrap c a i s)
  | .error (.park w s) => .next (parkThread w s)
  | .error (.fault f) => .fault f

/-- A store that waits at its port goes on; any other one ends as finish says. -/
theorem Unrefused.finishStore (i : Instr) (len : Nat) (r : Res State) : Unrefused (finishStore i len r) := by
  unfold Machine.finishStore
  split
  · exact .ite (.next _) (.finish _)
  · exact .finish _

/-- A branch alone or in a slaved group: taken, not taken, waiting for its outcome record, or trapped for another outcome (R51). -/
theorem Unrefused.branch (split taken hint : Bool) (dest fall : Word) (eff : State → State) (s : State) :
    Unrefused (branch split taken hint dest fall eff s) := by
  unfold Machine.branch
  refine .ite ?attached (.next _)
  split
  · exact .finish _
  · exact .ite (.next _) (.ite (.next _) (.next _))

/-! ## Control and events of a thread -/

theorem unrefused_execLoop (c : Fin 32) (off : BitVec 10) (s : State) : Unrefused (execLoop c off s) := by
  unfold execLoop
  exact .branch _ _ _ _ _ _ _

theorem unrefused_execBsplit (c : Cond) (a b : Fin 32) (hint : Bool) (off : BitVec 10) (s : State) :
    Unrefused (execBsplit c a b hint off s) :=
  .branch _ _ _ _ _ _ _

theorem unrefused_execJoin (s : State) : Unrefused (execJoin s) :=
  .ite (.ite (.finish _) (.next _)) (.ite (.finish _) (.next _))

/-- A page that cannot be waited for leaves the thread as it was. -/
theorem unrefused_execPageWaitPark (t : ThreadId) (s : State) : Unrefused (execPageWaitPark t s) := by
  unfold execPageWaitPark
  refine .ite ?waiting (.next _)
  dsimp only
  split
  · exact .next _
  · exact .next _

theorem unrefused_execCxevict (n : Fin 64) (s : State) : Unrefused (execCxevict n s) := by
  unfold execCxevict
  split
  · exact .next _
  · exact .next _

/-! ## The commit window -/

theorem unrefused_performHead (e : WEntry) (s : State) : Unrefused (performHead e s) := by
  unfold performHead
  cases runEntry e s with
  | done => exact .ite (.next _) (.next _)
  | trap | park | gone => exact .next _
  | stop f => exact .fault f

theorem unrefused_performEarly (old : List WEntry) (e : WEntry) (s : State) : Unrefused (performEarly old e s) := by
  unfold performEarly
  refine .ite (.next _) (.ite (.next _) ?performed)
  cases loadView old e s with
  | none => exact .next _
  | some x =>
    dsimp only
    cases runEntry e x with
    | done | trap | park | gone => exact .next _
    | stop f => exact .ite (.fault f) (.next _)

theorem unrefused_execCompletionInject (t : ThreadId) (tag : BitVec 7) (s : State) : Unrefused (execCompletionInject t tag s) := by
  unfold execCompletionInject
  simp only
  split
  · exact .ite (.next _) (.ite (.ite (unrefused_performHead _ _) (.next _)) (unrefused_performEarly _ _ _))
  · exact .next _

/-! ## Stream controllers -/

theorem unrefused_stallSub (e : Fin 8) (u : Sub) (k : Nat) (x : Stall) (s : State) : Unrefused (stallSub e u k x s) :=
  match x with
  | .page .. => .next _
  | .fault .. => .next _
  | .bad .. => .next _
  | .beyond => .fault _

/-- A controller that waits for a page does so or fails; else its act is performed. -/
theorem unrefused_controller {e : Fin 8} {u : Sub} {k : Nat} {act : Sub → State → Host.Outcome State Fault Refusal} {s : State}
    (hact : ∀ v, Unrefused (act v s)) : Unrefused (controller e u k act s) := by
  unfold controller
  cases u.parked with
  | none => exact hact _
  | some p =>
    dsimp only
    cases parkAnswer p u.owner u.pc s with
    | wait | fail => exact .next _
    | retry => exact hact _

theorem unrefused_execSlotFillStart (e : Fin 8) (k : Fin 64) (s : State) : Unrefused (execSlotFillStart e k s) := by
  unfold execSlotFillStart
  split
  · exact .ite (.next _) (.next _)
  · exact .next _

theorem unrefused_execSlotFilled (e : Fin 8) (k : Fin 64) (s : State) : Unrefused (execSlotFilled e k s) := by
  unfold execSlotFilled
  split
  · exact .next _
  · refine .ite (.next _) (unrefused_controller fun v => .ite (.next _) ?tile)
    split
    · exact .next _
    · exact unrefused_stallSub _ _ _ _ _

theorem unrefused_execSlotWriteoutDone (e : Fin 8) (k : Fin 64) (s : State) : Unrefused (execSlotWriteoutDone e k s) := by
  unfold execSlotWriteoutDone
  split
  · exact .next _
  · refine .ite (.next _) (unrefused_controller fun v => ?rows)
    dsimp only
    split
    · exact .next _
    · exact unrefused_stallSub _ _ _ _ _

/-! ## Engines -/

theorem unrefused_execMatrixCommandStart (s : State) : Unrefused (execMatrixCommandStart s) := by
  unfold execMatrixCommandStart
  split
  · dsimp only
    split
    · exact .next _
    · exact .next _
  · exact .next _

theorem unrefused_execMatrixCommandComplete (s : State) : Unrefused (execMatrixCommandComplete s) := by
  unfold execMatrixCommandComplete
  split
  · exact .ite (.next _) (.next _)
  · exact .next _

theorem unrefused_runCopy (c : Cmd) (s : State) : Unrefused (runCopy c s) := by
  unfold runCopy
  dsimp only
  cases planRows (copyMode c.x4) (copyRows (isTwo c.instr) c) s with
  | ok => exact .ite (.next _) (.next _)
  | error x => cases x with
    | page | fault | bad => exact .next _
    | beyond => exact .fault _

theorem unrefused_execCopyCommandStart (s : State) : Unrefused (execCopyCommandStart s) := by
  unfold execCopyCommandStart
  split
  · exact unrefused_runCopy _ _
  next c _ =>
    cases s.core.cpy.parked with
    | none => exact .next _
    | some p =>
      dsimp only
      cases parkAnswer p c.owner c.pc s with
      | wait | fail => exact .next _
      | retry => exact unrefused_runCopy _ _
  · exact .next _

theorem unrefused_execCopyCommandComplete (s : State) : Unrefused (execCopyCommandComplete s) := by
  unfold execCopyCommandComplete
  split
  · exact .next _
  · exact .next _

/-! ## Sequencers and task records -/

theorem unrefused_stallSeq (q : SeqId) (fetch : Bool) (x : Stall) (s : State) : Unrefused (stallSeq q fetch x s) :=
  match x with
  | .page .. => .next _
  | .fault .. => .next _
  | .bad .. => .next _
  | .beyond => .fault _

theorem unrefused_endRecord (q : SeqId) (r : Nat) (t : Task) (s : State) : Unrefused (endRecord q r t s) := by
  unfold endRecord
  split
  · exact .next _
  · exact unrefused_stallSeq _ _ _ _

theorem unrefused_seqExit (q : SeqId) (s : State) : Unrefused (seqExit q s) := by
  unfold seqExit
  refine .ite (.next _) ?free
  split
  · exact .next _
  · split
    · exact unrefused_endRecord _ _ _ _
    · exact .next _

theorem unrefused_stepSeq (q : SeqId) (s : State) : Unrefused (stepSeq q s) := by
  unfold stepSeq
  split
  next => exact unrefused_stallSeq _ _ _ _
  next => exact unrefused_seqExit _ _
  next i _ s1 _ _ =>
    cases seqPerform (seqAgent q) i (s1.asSeq (s1.seqr q)) with
    | none => exact .next _
    | some r => match r with
      | .ok _ => exact .next _
      | .error (.trap ..) => exact .next _
      | .error (.park ..) => exact .next _
      | .error (.fault f) => exact .fault f
  next => exact .next _
  next => exact .next _

theorem unrefused_execSequencerStep (q : SeqId) (s : State) : Unrefused (execSequencerStep q s) := by
  unfold execSequencerStep
  refine .ite (.next _) ?running
  cases (s.seqr q).parked with
  | none => exact unrefused_stepSeq _ _
  | some p =>
    dsimp only
    cases parkAnswer p (s.seqr q).owner (s.seqr q).pc s with
    | wait | fail => exact .next _
    | retry => exact unrefused_stepSeq _ _

theorem unrefused_execTaskRecordDispatch (r : Fin 64) (s : State) : Unrefused (execTaskRecordDispatch r s) := by
  unfold execTaskRecordDispatch
  split
  · exact .next _
  · exact .next _

theorem unrefused_execDatapathErrorReplay (r : Fin 64) (s : State) : Unrefused (execDatapathErrorReplay r s) := by
  unfold execDatapathErrorReplay
  split
  · exact .next _
  · split
    · exact .next _
    · exact .ite (.next _) (.ite (.next _) (.next _))

/-! ## Every instruction and event -/

/-- Each instruction's meaning ends in one of the shared outcomes, so the cases are those outcomes and the units' events. -/
theorem exec_unrefused (i : Instr) (s : State) : Unrefused (exec i s) := by
  cases i with
  -- what gives a next state at once: scalar instructions, hints, queries, and TRAP, whose service trap is a next state
  | add | sub | and | or | xor | andn | shl | shr | sar | min | max | minu | maxu | slt | sltu | seq | clz | ctz | popc | sext | zext
  | sel | mov | mul | mulh | mulhu | div | divu | rem | remu | li | lix | lxh | movxFromX | movxToX | saddr | lea | j | jal | jr | nop
  | cMov | cAdd | cSub | cAnd | cAddi | cLi | cShli | cShri | cJ | cJr | cNop | pref | mset | cxqry | cxldr | ccRead | chProbe
  | jnlRd | jnlRetry | jnlDrop | tlbInv | trap => exact .next _
  -- computations that may stop: a trap and a wait are next states, a fault is the model's one fault
  | cLdw | ld | ldIndexed | ldr | stp | ldf | ldfe | stef | tagtst | amoW | amoD | fence
  | evArrive | evDrop | evWait | evSync | evLock | evUnlock | evSignal | evClear | evInit
  | vld | vlds | vldx | vldb | vstxAdd | vaddI | vsubI | vmulI | vminI | vmaxI | vabsI | vnegI | vclampI
  | vaddF | vsubF | vmulF | vfma | vfms | vfnma | vminF | vmaxF | vabsF | vnegF | vclampF | vrcp | vrsq | vexp2 | vlog2
  | vand | vor | vxor | vandn | vshl | vshr | vsar | vmov | vcmp | vsel | vperm | vbcast | vslide | viota | vlut | vext | vins
  | vredAdd | vredMin | vredMax | vscanAdd | vscanMin | vscanMax | vdot4 | vcvt | mand | mor | mxor | mnot | mpop | mfirst
  | cx | cxload | mma | mmas | tld | tst | tmov | accZero | accLd | accSt | accTov | accAddv | accMode | accRaw | accRawWr
  | cpy | cpy2d | ccWait | rlQry | fork | rdv | ttEnq | subOpen | subClose | slotTake | slotGive
  | sstep | taskNext | coverClaim | coverDone | coverYield | hrd | hwr | hcommit | hintSucc | waitpred
  | chSend | chRecv | rsend | xwin | qLaunch | tret | yield | pwrHint | tlbShoot | csrr | csrw | csrset | csrclr =>
    exact .finish _
  | cStw | st | stIndexed | stf | tagset | tagclr | vst | vsts | vstx => exact .finishStore _ _ _
  | b | cBeqz | cBnez => exact .branch _ _ _ _ _ _ _
  | loop c off => exact unrefused_execLoop c off s
  | bsplit c a b hint off => exact unrefused_execBsplit c a b hint off s
  | kld => exact .ite (.next _) (.next _)
  | exit => exact .ite (.finish _) (.next _)
  | join => exact unrefused_execJoin s
  | cxevict n => exact unrefused_execCxevict n s
  -- events that change nothing where they are not enabled
  | dispatch | completionAccept | trapDelivery | kill | storePerformed | issue | commit | outcomeRecordArrival | performMarkArrival
  | instructionFetch | stopPoint | threadStop | l1Eviction | linkAck | eventLineService | taskRequestReserve | barrierTreeComplete
  | exchangeTransferBegin | exchangeStepEnd | routerPacket | channelDelivery | shootdownBlocked | shootdownConfirmed
  | coreWakeTlbFlush | handlerEntry | handlerFault
  | queueLaunchPacket | queueLoadPacket | queueUnloadPacket | queueWaitPacket | queueFillPacket | waitPacketEnd | launchStart
  | launchEnd | class0PreemptRequest | saveComplete | saveWatchdogExpiry | linkTaggedWrite | linkAccess | peerAmo
  | attach | run | preempt | resume | detach | warm | cold | updOpen | updWrite | updActivate | svnCommit | logRead | repairList
  | measExtend | mgCtxbaseWrite | rsvLendWrite | shareWrite | rampWrite | acctClr | registerWrite
  | getVersion | getCapabilities | negotiateAlgorithms | getCertificate | challenge | getMeasurements | chunkGet
  | powerOn | kararlinkHotReset | startStepComplete | startStepTimeout | standbyPowerLoss | parityError | correctedError
  | uncorrectableError | codeLineError | patrolScrub | railChange | clockRestart | droopDetect | droopPass | rampMicrosecond
  | energyAttribution | leaseReceipt | leaseExpiry | powerCapControl | stackDerateEnter | stackDerateExit | linkLevelRetry
  | linkDown => exact .next _
  | tagWaiterWake | postedStoreAck | postedStoreRefusal | chainedArrival | chainCompletionMessage | eventOpReturn
  | rangeLockReissue | queueBarrierPacket => exact .ite (.next _) (.next _)
  | faultReply => exact .ite (.ite (.next _) (.next _)) (.next _)
  | pageWaitPark t => exact unrefused_execPageWaitPark t s
  | completionInject t tag => exact unrefused_execCompletionInject t tag s
  | slotFillStart e k => exact unrefused_execSlotFillStart e k s
  | slotFilled e k => exact unrefused_execSlotFilled e k s
  | slotWriteoutDone e k => exact unrefused_execSlotWriteoutDone e k s
  | matrixCommandStart => exact unrefused_execMatrixCommandStart s
  | matrixCommandComplete => exact unrefused_execMatrixCommandComplete s
  | copyCommandStart => exact unrefused_execCopyCommandStart s
  | copyCommandComplete => exact unrefused_execCopyCommandComplete s
  | sequencerStep q => exact unrefused_execSequencerStep q s
  | taskRecordDispatch r => exact unrefused_execTaskRecordDispatch r s
  | datapathErrorReplay r => exact unrefused_execDatapathErrorReplay r s

/-- The page at 0x1000000 is mapped to the first address beyond the HBM, and s2 points at it. -/
def beyondHbm : State :=
  { State.reset.setReg 2 0x1000000 with
    core := { State.reset.core with dtlb := [⟨State.reset.ctxNo, 0x1000000, 0x10000, hbmSize, 0, 0, false, false, false, true, true⟩] } }

/-- The fault that NothingRefused leaves open does occur (R16). -/
theorem exec_ld_beyondHbm : exec (.ld 1 2 0 .w) beyondHbm = .fault .hbmBeyondEnd := by
  rfl

/-- Settles O59: the case split over the instructions is `exec_unrefused`. -/
theorem nothingRefused : Obligations.NothingRefused := by
  unfold Obligations.NothingRefused
  exact exec_unrefused

end Sys2Proof.Machine
end

section
/-! PROOF. Acceptance of copies and what a plain copy does (R82, R263, R290, R297, R298): a run of the own scratchpad as an engine
reaches it, what the L1 leaves alone when it writes lines back, and the state in which that touches a tag. -/

namespace Sys2Proof.Machine

/-! ## Bytes of the own scratchpad as an engine reaches them -/

/-- The sites of n bytes at an address of the core's own scratchpad. -/
def State.ownSites (s : State) (va : Word) (n : Nat) : List Site :=
  (List.range n).map fun j => .loc (.scratch s.ctxNo s.core.lx.val s.core.ly.val (va.toNat + j))

@[simp] theorem State.length_ownSites (s : State) (va : Word) (n : Nat) : (s.ownSites va n).length = n := by
  simp [State.ownSites]

theorem classify_own {s : State} {va : Word} (h : va.toNat < 0x80000) :
    classify s va = .scratch s.core.lx.val s.core.ly.val va.toNat := by
  unfold classify
  rw [if_neg (by omega), if_pos h]

theorem State.refuses_own {s : State} {va : Word} (h : va.toNat < 0x80000) (x y : Nat) : s.refuses va x y = false := by
  have h1 : ¬ 0x80000 ≤ va.toNat := by omega
  simp [State.refuses, h1]

theorem engineSites_own {s : State} {va : Word} {n : Nat} (w : Bool) (hn : 0 < n) (hend : va.toNat + n ≤ 0x80000)
    (hallot : va.toNat + n ≤ s.allotment) (hrun : s.coreStopped s.ctxNo s.core.lx.val s.core.ly.val = false) :
    engineSites w va n s = .ok (s.ownSites va n, s) := by
  have hva : va.toNat < 0x80000 := by omega
  have hsite : ∀ j ∈ List.range n, s.scratchSite s.core.lx.val s.core.ly.val (va.toNat + j) =
      .loc (.scratch s.ctxNo s.core.lx.val s.core.ly.val (va.toNat + j)) := by
    intro j hj
    have hj := List.mem_range.mp hj
    unfold State.scratchSite
    rw [if_neg (by omega), if_neg (by omega)]
  simp only [engineSites, classify_own hva, State.refuses_own hva, hrun, Bool.false_eq_true, if_false]
  rw [List.map_congr_left hsite]
  rfl

theorem ownKey_add (s : State) (off j : Nat) : Spec.ownKey s (off + j) = Spec.ownKey s off + j := by
  simp only [Spec.ownKey, Loc.key]
  omega

theorem State.ownSites_clean {s : State} {va : Word} {n : Nat} (h : Spec.Clean s va n) :
    (s.ownSites va n).any s.siteBad = false := by
  simp only [State.ownSites, List.any_map, List.any_eq_false, List.mem_range]
  intro j hj
  simpa [State.siteBad, Spec.ownKey] using h j hj

/-- Sites whose keys rise one by one from k take bytes as memory does from k on. -/
theorem putSites_eq_setBytes (s : State) (f : Nat → Loc) (k : Nat) (b : List Byte) (hf : ∀ j, (f j).key = k + j) :
    putSites s ((List.range b.length).map fun j => .loc (f j)) b = s.setBytes k b := by
  induction b generalizing s f k with
  | nil => rfl
  | cons x b ih =>
    have hf0 : (f 0).key = k := hf 0
    rw [List.length_cons, List.range_succ_eq_map, List.map_cons, List.map_map]
    simp only [putSites, State.putSite, State.setBytes, hf0]
    exact ih (s.setByte k x) (fun j => f (j + 1)) (k + 1) fun j => by rw [hf]; omega

theorem State.putSites_ownSites (s t : State) (va : Word) (b : List Byte) :
    putSites t (s.ownSites va b.length) b = t.setBytes (Spec.ownKey s va.toNat) b :=
  putSites_eq_setBytes t _ _ b fun j => ownKey_add s va.toNat j

/-! ## What scratchpad sites leave alone -/

theorem firstOor_map_loc (va : Word) (l : List Loc) : firstOor va (l.map .loc) = none := by
  induction l generalizing va with
  | nil => rfl
  | cons x l ih => exact ih (va + 1)

theorem State.ownSites_eq_map (s : State) (va : Word) (n : Nat) : s.ownSites va n =
    ((List.range n).map fun j => Loc.scratch s.ctxNo s.core.lx.val s.core.ly.val (va.toNat + j)).map .loc := by
  simp [State.ownSites]

theorem firstOor_ownSites (s : State) (a va : Word) (n : Nat) : firstOor a (s.ownSites va n) = none := by
  rw [State.ownSites_eq_map, firstOor_map_loc]

/-- A scratchpad row touches no page of a link (R399, R419). -/
theorem State.countPages_ownSites (s t : State) (va : Word) (n : Nat) : t.countPages (s.ownSites va n) = t := by
  have hpages : hostPages (s.ownSites va n) = [] := by
    unfold hostPages State.ownSites
    rw [List.foldl_map]
    induction List.range n with
    | nil => rfl
    | cons j l ih => exact ih
  have hlink : t.linkRun (s.ownSites va n) = t := by
    simp [State.linkRun, State.ownSites, List.filter_map, Function.comp_def, State.payload]
  rw [State.countPages, hpages, hlink, List.foldl_nil]

/-- Clearing the poison of a run's whole words changes poison alone. -/
theorem cleanRun_eq (s : State) (l : List Site) : cleanRun s l = { s with poison := (cleanRun s l).poison } := by
  unfold cleanRun
  induction wholeWords l generalizing s with
  | nil => rfl
  | cons k l ih =>
    rw [List.foldl_cons, ih]
    rfl

/-! ## A plain one-dimensional copy (R297) -/

theorem copyRows_plain {c : Cmd} (hm : copyMode c.x4 = .plain) (hn : 0 < bits c.x4 0 32) :
    copyRows false c = [⟨c.b, c.a, bits c.x4 0 32⟩] := by
  have hn : bits c.x4 0 32 ≠ 0 := by omega
  simp [copyRows, hn, copyDst, hm]

/-- A plain copy out of a raw bank moves bytes. -/
theorem rowKind_plain_raw {r : CopyRow} {s : State} (h : s.codeAt r.src = .raw) : rowKind .plain r s = .bytes := by
  simp [rowKind, h]

/-- One row of a plain copy between banks of the own scratchpad, translated. -/
theorem planRows_own {s : State} {src dst : Word} {n : Nat} (hn : 0 < n) (hs : src.toNat + n ≤ 0x80000)
    (hd : dst.toNat + n ≤ 0x80000) (hsa : src.toNat + n ≤ s.allotment) (hda : dst.toNat + n ≤ s.allotment)
    (hrun : s.coreStopped s.ctxNo s.core.lx.val s.core.ly.val = false) (hraw : s.codeAt src = .raw) (hclean : Spec.Clean s src n) :
    planRows .plain [⟨src, dst, n⟩] s = .ok ([⟨⟨src, dst, n⟩, .bytes, s.ownSites src n, s.ownSites dst n⟩], s) := by
  have hkind : rowKind .plain ⟨src, dst, n⟩ s = .bytes := rowKind_plain_raw hraw
  simp only [planRows, hkind, rowExtent, engineSites_own _ hn hs hsa hrun, engineSites_own _ hn hd hda hrun,
    State.ownSites_clean hclean, badRow, bind, Except.bind, Bool.false_eq_true, if_false]

/-- The engine moves such a row: every source byte is read, then written, and the words written whole lose their poison. -/
theorem moveRows_own (s : State) (src dst : Word) (n : Nat) :
    moveRows .plain [⟨⟨src, dst, n⟩, .bytes, s.ownSites src n, s.ownSites dst n⟩] s =
      cleanRun (s.setBytes (Spec.ownKey s dst.toNat) ((s.ownSites src n).map s.siteByte)) (s.ownSites dst n) := by
  have hput := State.putSites_ownSites s s dst ((s.ownSites src n).map s.siteByte)
  rw [List.length_map, State.length_ownSites] at hput
  simp [moveRows, readRow, writeRow, firstOor_ownSites, State.noteCpy, hput]

/-- A plain one-dimensional copy between raw banks of the own scratchpad, as the engine runs it. -/
theorem runCopy_plain_own {c : Cmd} {a b : Fin 32} {s : State} (hi : c.instr = .cpy a b) (hm : copyMode c.x4 = .plain)
    (hn : 0 < bits c.x4 0 32) (hs : c.b.toNat + bits c.x4 0 32 ≤ 0x80000) (hd : c.a.toNat + bits c.x4 0 32 ≤ 0x80000)
    (hsa : c.b.toNat + bits c.x4 0 32 ≤ s.allotment) (hda : c.a.toNat + bits c.x4 0 32 ≤ s.allotment)
    (hrun : s.coreStopped s.ctxNo s.core.lx.val s.core.ly.val = false) (hraw : s.codeAt c.b = .raw)
    (hclean : Spec.Clean s c.b (bits c.x4 0 32)) :
    runCopy c s = .next (cleanRun (s.setBytes (Spec.ownKey s c.a.toNat) ((s.ownSites c.b (bits c.x4 0 32)).map s.siteByte))
      (s.ownSites c.a (bits c.x4 0 32))) := by
  have htwo : isTwo c.instr = false := by rw [hi]; rfl
  simp only [runCopy, htwo, hm, copyRows_plain hm hn, planRows_own hn hs hd hsa hda hrun hraw hclean]
  simp [State.countPages_ownSites, moveRows_own]

/-- COPY_COMMAND_START of an idle engine takes the oldest copy. -/
theorem exec_copyCommandStart_idle {c : Cmd} {q : List Cmd} {s : State} (hr : s.core.cpy.running = none)
    (hq : s.core.cpy.queue = c :: q) :
    exec .copyCommandStart s = runCopy c { s with core := { s.core with cpy := ⟨q, some c, none, none⟩ } } := by
  change execCopyCommandStart s = _
  simp only [execCopyCommandStart, hr, hq]

/-- A byte after a run of bytes of the own scratchpad was moved: inside the destination the source's byte, as it was before. -/
theorem State.byte_moved {s : State} (h : Memory.wf s.mem = true) (src dst : Word) (n : Nat) :
    let t := s.setBytes (Spec.ownKey s dst.toNat) ((s.ownSites src n).map s.siteByte)
    (∀ j < n, t.byte (Spec.ownKey s (dst.toNat + j)) = s.byte (Spec.ownKey s (src.toNat + j))) ∧
      ∀ k, k < Spec.ownKey s dst.toNat ∨ Spec.ownKey s dst.toNat + n ≤ k → t.byte k = s.byte k := by
  have hlen : ((s.ownSites src n).map s.siteByte).length = n := by simp
  constructor
  · intro j hj
    rw [State.byte_setBytes h, ownKey_add, dif_pos (by omega)]
    simp [State.ownSites, State.siteByte, Spec.ownKey]
  · intro k hk
    rw [State.byte_setBytes h, dif_neg (by omega)]

/-- PlainCopy holds for every state it speaks of (R82, R297); what `not_copies` refutes is in CopyAcceptance. -/
theorem plainCopy : Spec.PlainCopy := by
  intro a b c q s n hr hq hi hm hwf hn hd hs hda hsa hraw hclean hrun
  let s1 : State := { s with core := { s.core with cpy := ⟨q, some c, none, none⟩ } }
  obtain ⟨hin, hout⟩ := State.byte_moved (s := s1) hwf c.b c.a n
  refine ⟨_, (exec_copyCommandStart_idle hr hq).trans
    (runCopy_plain_own (s := s1) hi hm hn hs hd hsa hda hrun hraw hclean), ?_⟩
  rw [cleanRun_eq]
  refine ⟨?running, ?queue, hin, hout, fun k => ?tag, fun r => ?reg⟩
  · simp [s1]
  · simp [s1]
  · simp [State.tag, s1]
  · rw [State.setBytes_eq]
    rfl

/-! ## What the L1 leaves alone when it writes lines back (R263, R284) -/

/-- The core's units but the L1, and the threads but the number of their accesses that are not acknowledged yet, are as before. -/
structure State.SameUnits (s t : State) : Prop where
  core : t.core = { s.core with l1 := t.core.l1 }
  cur : t.cur = s.cur
  pri : t.pri = { s.pri with unacked := t.pri.unacked }
  aux : t.aux = { s.aux with unacked := t.aux.unacked }

theorem State.SameUnits.refl (s : State) : State.SameUnits s s := ⟨rfl, rfl, rfl, rfl⟩

theorem State.SameUnits.trans {s t u : State} (h : State.SameUnits s t) (k : State.SameUnits t u) : State.SameUnits s u where
  core := by rw [k.core, h.core]
  cur := k.cur.trans h.cur
  pri := by rw [k.pri, h.pri]
  aux := by rw [k.aux, h.aux]

theorem State.SameUnits.foldl {α : Type} (f : State → α → State) (hf : ∀ (s : State) (a : α), State.SameUnits s (f s a))
    (l : List α) (s : State) : State.SameUnits s (l.foldl f s) := by
  induction l generalizing s with
  | nil => exact .refl s
  | cons a l ih => exact (hf s a).trans (ih (f s a))

/-- The performing thread's registers and program counter are among what stays. -/
theorem State.SameUnits.me {s t : State} (h : State.SameUnits s t) : t.me = { s.me with unacked := t.me.unacked } := by
  have hcur := h.cur
  unfold State.me State.th
  rw [hcur]
  cases s.cur with
  | pri => exact h.pri
  | aux => exact h.aux

theorem State.SameUnits.reg {s t : State} (h : State.SameUnits s t) (r : Fin 32) : t.reg r = s.reg r := by
  unfold State.reg
  rw [h.me]
  rfl

theorem State.SameUnits.pc {s t : State} (h : State.SameUnits s t) : t.pc = s.pc := by
  unfold State.pc
  rw [h.me]

theorem State.sameUnits_payload (s : State) (w n : Nat) : State.SameUnits s (s.payload w n) := by
  unfold State.payload
  split
  · exact .refl s
  · exact ⟨rfl, rfl, rfl, rfl⟩

theorem State.sameUnits_setBytes (s : State) (k : Nat) (l : List Byte) : State.SameUnits s (s.setBytes k l) := by
  rw [State.setBytes_eq]
  exact ⟨rfl, rfl, rfl, rfl⟩

theorem State.sameUnits_setTag (s : State) (k : Nat) (b : Bool) : State.SameUnits s (s.setTag k b) := ⟨rfl, rfl, rfl, rfl⟩

theorem State.sameUnits_postRecord (s : State) (q slot a b c d : Nat) : State.SameUnits s (s.postRecord q slot a b c d) := by
  have hnum (u : State) (k n v : Nat) : State.SameUnits u (u.setNum k n v) := u.sameUnits_setBytes k _
  exact ((((((hnum _ _ _ _).trans (hnum _ _ _ _)).trans (hnum _ _ _ _)).trans (State.sameUnits_setTag _ _ _)).trans
    (hnum _ _ _ _)).trans (State.sameUnits_setTag _ _ _)).trans (hnum _ _ _ _)

theorem State.sameUnits_countHost (s : State) (l : Loc) : State.SameUnits s (s.countHost l) := by
  have hcount (u : State) (p : List (Nat × Nat)) : State.SameUnits u { u with hostCounts := p } := ⟨rfl, rfl, rfl, rfl⟩
  unfold State.countHost
  split
  · dsimp only
    split
    · split
      · exact (s.sameUnits_postRecord _ _ _ _ _ _).trans (hcount _ _)
      · exact hcount s _
    · exact hcount s _
  · exact .refl s

theorem State.sameUnits_noteFar (s : State) (b : Bool) : State.SameUnits s (s.noteFar b) := by
  unfold State.noteFar
  split
  · exact ⟨rfl, rfl, rfl, rfl⟩
  · exact .refl s

theorem State.sameUnits_countBack (s : State) (k : Nat) : State.SameUnits s (s.countBack k) := by
  unfold State.countBack
  split
  · dsimp only
    split
    · exact (s.sameUnits_payload _ _).trans (State.sameUnits_countHost _ _)
    · exact s.sameUnits_payload _ _
  · exact .refl s

theorem sameUnits_cleanWords (s : State) (k n : Nat) : State.SameUnits s (cleanWords s k n) := by
  induction n generalizing s k with
  | zero => exact .refl s
  | succ n ih =>
    rw [cleanWords]
    refine .trans ?_ (ih _ _)
    split
    · exact ⟨rfl, rfl, rfl, rfl⟩
    · exact .refl s

/-- One byte of the L1 written back where it is dirty (R263, R437). -/
def State.writeBackByte (s : State) (k : Nat) : State := writeBackBytes s k 1

theorem writeBackBytes_succ (s : State) (k n : Nat) :
    writeBackBytes s k (n + 1) = writeBackBytes (s.writeBackByte k) (k + 1) n := rfl

/-- A dirty byte goes to its point of coherence, with its poison where it is bad, and is clean in the L1; any other stays. -/
theorem State.writeBackByte_cases (s : State) (k : Nat) :
    s.writeBackByte k = s ∨ ∃ b : L1Byte,
      let t := (s.setByte k b.b).setL1 k (some { b with dirty := false })
      s.writeBackByte k = t ∨ s.writeBackByte k = t.setPoison k true := by
  unfold State.writeBackByte writeBackBytes writeBackBytes
  dsimp only
  split
  · next b _ =>
    split
    · split
      · exact .inr ⟨b, .inr rfl⟩
      · exact .inr ⟨b, .inl rfl⟩
    · exact .inl rfl
  · exact .inl rfl

theorem State.sameUnits_writeBackByte (s : State) (k : Nat) : State.SameUnits s (s.writeBackByte k) := by
  obtain h | ⟨b, h | h⟩ := s.writeBackByte_cases k
  · rw [h]
    exact .refl s
  · rw [h]
    exact ⟨rfl, rfl, rfl, rfl⟩
  · rw [h]
    exact ⟨rfl, rfl, rfl, rfl⟩

theorem sameUnits_writeBackBytes (s : State) (k n : Nat) : State.SameUnits s (writeBackBytes s k n) := by
  induction n generalizing s k with
  | zero => exact .refl s
  | succ n ih => exact (s.sameUnits_writeBackByte k).trans (ih _ _)

theorem State.sameUnits_writeBackLine (s : State) (k : Nat) : State.SameUnits s (s.writeBackLine k) :=
  (((s.sameUnits_countBack k).trans (State.sameUnits_noteFar _ _)).trans (sameUnits_cleanWords _ _ _)).trans
    (sameUnits_writeBackBytes _ _ _)

theorem State.sameUnits_dropLine (s : State) (k : Nat) : State.SameUnits s (s.dropLine k) := ⟨rfl, rfl, rfl, rfl⟩

theorem sameUnits_flushRange (drop : Bool) (va : Word) (n : Nat) (s : State) : State.SameUnits s (flushRange drop va n s) := by
  refine .foldl _ (fun u k => ?_) _ s
  split
  · exact (u.sameUnits_writeBackLine k).trans (State.sameUnits_dropLine _ k)
  · exact u.sameUnits_writeBackLine k

theorem sameUnits_flushCopy (s : State) (rows : List CopyRow) : State.SameUnits s (flushCopy s rows) :=
  .foldl _ (fun _ _ => (sameUnits_flushRange false _ _ _).trans (sameUnits_flushRange true _ _ _)) rows s

/-! ## Tags beside an L1 without dirty bytes of far memory -/

/-- Keys cleared read as unlisted, and every other one as before. -/
theorem sget_sclear {α : Type} [DecidableEq α] {d : α} {lo : Nat} {l : List (Nat × α)} (h : swf d lo l = true) (a b k : Nat) :
    sget d (sclear a b l) k = if a ≤ k ∧ k < b then d else sget d l k := by
  induction l generalizing lo with
  | nil => simp [sclear, sget]
  | cons p l ih =>
    obtain ⟨j, v⟩ := p
    simp only [swf, Bool.and_eq_true, decide_eq_true_eq] at h
    obtain ⟨-, hl⟩ := h
    by_cases hc : a ≤ j ∧ j < b
    · rw [sclear, if_pos hc, ih hl, sget]
      by_cases hk : a ≤ k ∧ k < b
      · rw [if_pos hk, if_pos hk]
      · rw [if_neg hk, if_neg hk, if_neg (by rintro rfl; exact hk hc)]
        split
        · exact sget_of_lt hl (by omega)
        · rfl
    · rw [sclear, if_neg hc, sget, sget, ih hl]
      by_cases hkj : k = j
      · subst hkj
        simp [hc]
      · simp only [hkj, if_false]
        by_cases hlt : k < j
        · simp [hlt]
        · simp [hlt]

theorem State.dirty_setL1 {s : State} (h : swf none 0 s.core.l1 = true) (k : Nat) (b : Option L1Byte) (j : Nat) :
    (s.setL1 k b).dirty j = if j = k then b.any L1Byte.dirty else s.dirty j := by
  have hget : (s.setL1 k b).l1 j = if j = k then b else s.l1 j := sget_sput h k b j
  unfold State.dirty
  rw [hget]
  split <;> rfl

theorem State.dirty_dropLine {s : State} (h : swf none 0 s.core.l1 = true) (k j : Nat) :
    (s.dropLine k).dirty j = (!decide (k / 64 * 64 ≤ j ∧ j < k / 64 * 64 + 64) && s.dirty j) := by
  have hget : (s.dropLine k).l1 j = if k / 64 * 64 ≤ j ∧ j < k / 64 * 64 + 64 then none else s.l1 j := sget_sclear h _ _ j
  unfold State.dirty
  rw [hget]
  split
  · next hin => simp [hin]
  · next hout => simp [hout]

/-- Tags stay, the L1 stays canonical, and no byte of it becomes dirty. -/
structure State.OnlyCleans (s t : State) : Prop where
  tags : t.tags = s.tags
  wf : swf none 0 t.core.l1 = true
  dirty : ∀ k, t.dirty k = true → s.dirty k = true

/-- The L1 is canonical and holds no dirty byte of host or peer memory. -/
structure State.FarClean (s : State) : Prop where
  wf : swf none 0 s.core.l1 = true
  clean : ∀ k, s.farDirty k = false

theorem State.OnlyCleans.refl {s : State} (h : swf none 0 s.core.l1 = true) : State.OnlyCleans s s := ⟨rfl, h, fun _ => id⟩

theorem State.OnlyCleans.trans {s t u : State} (h : State.OnlyCleans s t) (k : State.OnlyCleans t u) : State.OnlyCleans s u :=
  ⟨k.tags.trans h.tags, k.wf, fun j hj => h.dirty j (k.dirty j hj)⟩

theorem State.OnlyCleans.farClean {s t : State} (h : State.OnlyCleans s t) (hs : s.FarClean) : t.FarClean := by
  refine ⟨h.wf, fun k => ?_⟩
  have hk := hs.clean k
  simp only [State.farDirty, Bool.and_eq_false_imp, List.any_eq_false, Bool.and_eq_true, Bool.not_eq_true] at hk ⊢
  intro hfar j hj
  exact Bool.eq_false_iff.mpr fun hd => Bool.eq_false_iff.mp (hk hfar j hj) (h.dirty _ hd)

theorem State.OnlyCleans.foldl {α : Type} (f : State → α → State)
    (hf : ∀ (s : State) (a : α), s.FarClean → State.OnlyCleans s (f s a)) (l : List α) {s : State} (hs : s.FarClean) :
    State.OnlyCleans s (l.foldl f s) := by
  induction l generalizing s with
  | nil => exact .refl hs.wf
  | cons a l ih => exact (hf s a hs).trans (ih ((hf s a hs).farClean hs))

theorem onlyCleans_cleanWords {s : State} (h : swf none 0 s.core.l1 = true) (k n : Nat) :
    State.OnlyCleans s (cleanWords s k n) := by
  induction n generalizing s k with
  | zero => exact .refl h
  | succ n ih =>
    rw [cleanWords]
    have hstep : State.OnlyCleans s (if s.cleansWord k then s.setPoison k false else s) := by
      split
      · exact ⟨rfl, h, fun _ => id⟩
      · exact .refl h
    exact hstep.trans (ih hstep.wf _)

theorem State.onlyCleans_writeBackByte {s : State} (h : swf none 0 s.core.l1 = true) (k : Nat) :
    State.OnlyCleans s (s.writeBackByte k) := by
  have hset (b : L1Byte) : State.OnlyCleans s ((s.setByte k b.b).setL1 k (some { b with dirty := false })) := by
    refine ⟨rfl, sput_wf h _ _, fun j hj => ?_⟩
    rw [State.dirty_setL1 (s := s.setByte k b.b) h] at hj
    split at hj
    · exact absurd hj (by simp)
    · exact hj
  obtain e | ⟨b, e | e⟩ := s.writeBackByte_cases k
  · rw [e]
    exact .refl h
  · rw [e]
    exact hset b
  · rw [e]
    exact (hset b).trans ⟨rfl, (hset b).wf, fun _ => id⟩

theorem onlyCleans_writeBackBytes {s : State} (h : swf none 0 s.core.l1 = true) (k n : Nat) :
    State.OnlyCleans s (writeBackBytes s k n) := by
  induction n generalizing s k with
  | zero => exact .refl h
  | succ n ih =>
    have hstep := State.onlyCleans_writeBackByte h k
    exact hstep.trans (ih hstep.wf _)

/-- A write-back with no dirty byte of far memory crosses no link and posts no record (R399). -/
theorem State.FarClean.writeBackLine {s : State} (h : s.FarClean) (k : Nat) : State.OnlyCleans s (s.writeBackLine k) := by
  have hback : (s.countBack k).noteFar (s.farDirty k) = s := by simp [State.countBack, State.noteFar, h.clean k]
  rw [State.writeBackLine, hback]
  have hwords := onlyCleans_cleanWords h.wf (k / 64 * 64) 8
  exact hwords.trans (onlyCleans_writeBackBytes hwords.wf _ _)

theorem State.onlyCleans_dropLine {s : State} (h : swf none 0 s.core.l1 = true) (k : Nat) : State.OnlyCleans s (s.dropLine k) := by
  refine ⟨rfl, sclear_wf h _ _, fun j hj => ?_⟩
  rw [State.dirty_dropLine h, Bool.and_eq_true] at hj
  exact hj.2

theorem State.FarClean.flushRange {s : State} (h : s.FarClean) (drop : Bool) (va : Word) (n : Nat) :
    State.OnlyCleans s (Machine.flushRange drop va n s) := by
  refine .foldl _ (fun u k hu => ?_) _ h
  have hback := hu.writeBackLine k
  split
  · exact hback.trans (State.onlyCleans_dropLine hback.wf k)
  · exact hback

theorem State.FarClean.flushCopy {s : State} (h : s.FarClean) (rows : List CopyRow) :
    State.OnlyCleans s (Machine.flushCopy s rows) := by
  refine .foldl _ (fun u r hu => ?_) rows h
  have hsrc := hu.flushRange false r.src r.len
  exact hsrc.trans ((hsrc.farClean hu).flushRange true r.dst r.len)

/-! ## Acceptance (R290, R297, R298) -/

/-- The form of a copy: CPY2D or CPY. -/
def copyInstr (two : Bool) (a b : Fin 32) : Instr := if two then .cpy2d a b else .cpy a b

/-- The command that a copy's acceptance captures. -/
def State.copyCommand (s : State) (two : Bool) (a b : Fin 32) : Cmd :=
  Spec.captured s (copyInstr two a b) (s.reg a) (s.reg b) noLanes

section
variable (s : State) (two : Bool) (a b : Fin 32)

@[simp] theorem State.copyCommand_id : (s.copyCommand two a b).id = s.core.cmdCtr := rfl
@[simp] theorem State.copyCommand_a : (s.copyCommand two a b).a = s.reg a := rfl
@[simp] theorem State.copyCommand_b : (s.copyCommand two a b).b = s.reg b := rfl
@[simp] theorem State.copyCommand_x4 : (s.copyCommand two a b).x4 = s.xreg 4 := rfl
@[simp] theorem State.copyCommand_x7 : (s.copyCommand two a b).x7 = s.xreg 7 := rfl

/-- A copy that a thread gives serves no task record. -/
@[simp] theorem State.markEff_copyCommand (u : State) (n : Nat) : u.markEff (s.copyCommand two a b) n = u := rfl

end

/-- What acceptance asks for, with the locks that it registers. -/
structure CopyReady (two : Bool) (a b : Fin 32) (l : List Lock) (s : State) : Prop where
  x4 : x4ok two (s.xreg 4) = true
  x7 : x7ok (s.xreg 7) = true
  src : copyAddr (s.reg b) s = .ok ()
  dst : copyAddr (s.reg a) s = .ok ()
  mode : checkMode two (s.copyCommand two a b) s = .ok ()
  rows : checkRows (copyMode (s.xreg 4)) s (firstRow two (s.copyCommand two a b) :: copyRows two (s.copyCommand two a b)) = .ok ()
  room : s.core.cpy.queue.length < 16
  stores : ∀ j : Fin 16, s.me.journal[j].waits = false
  counter : ∀ k, counterOf (s.xreg 7) = some k → s.core.cc[k] ≠ 255
  locks : registerLocks s.core.cmdCtr (counterOf (s.xreg 7))
    (copyRanges (copyMode (s.xreg 4)) s (copyRows two (s.copyCommand two a b))) s.core.locks = some l

/-- The state with an accepted copy in the queue, its locks registered and its counter up. -/
def State.enqueueCopy (s : State) (c : Cmd) (l : List Lock) : State :=
  { s with core := { s.core with
    locks := l
    cmdCtr := s.core.cmdCtr + 1
    cpy := { s.core.cpy with queue := s.core.cpy.queue ++ [c] } } }.countUp (counterOf c.x7) c.id

theorem State.command_owner (s : State) (two : Bool) (a b : Fin 32) :
    s.command s.owner (copyInstr two a b) a b noLanes = s.copyCommand two a b := by
  unfold State.command State.copyCommand Spec.captured State.owner State.recordOf
  cases s.cur <;> rfl

theorem State.storeWaits_of_none {s : State} (h : ∀ j : Fin 16, s.me.journal[j].waits = false) (own : Agent) (l : List Range) :
    s.storeWaits own l = false := by
  have hall : ∀ e ∈ s.me.journal.toList, e.waits = false := by
    intro e he
    obtain ⟨j, hj, rfl⟩ := List.mem_iff_getElem.mp he
    exact h ⟨j, by simpa using hj⟩
  simp only [State.storeWaits, Bool.and_eq_false_iff, List.any_eq_false]
  exact .inr fun e he => by simp [hall e he]

theorem State.counterFull_eq_false {s : State} {c : Option (Fin 16)} (h : ∀ k, c = some k → s.core.cc[k] ≠ 255) :
    s.counterFull c = false := by
  cases c with
  | none => rfl
  | some k => exact decide_eq_false (h k rfl)

theorem exec_copyInstr (two : Bool) (a b : Fin 32) (s : State) :
    exec (copyInstr two a b) s = finish (acceptCopy two s.owner (copyInstr two a b) a b s) := by
  cases two <;> rfl

/-- CPY and CPY2D accepted: the command is enqueued and the L1 flushed beside it. -/
theorem CopyReady.exec {two : Bool} {a b : Fin 32} {l : List Lock} {s : State} (h : CopyReady two a b l s) :
    exec (copyInstr two a b) s =
      .next ((flushCopy (s.enqueueCopy (s.copyCommand two a b) l) (copyRows two (s.copyCommand two a b))).advance 4) := by
  obtain ⟨hx4, hx7, hsrc, hdst, hmode, hrows, hroom, hstores, hcounter, hlocks⟩ := h
  have hroom : ¬ 16 ≤ s.core.cpy.queue.length := by omega
  have hwaits := State.storeWaits_of_none hstores
  have hfull := State.counterFull_eq_false hcounter
  rw [exec_copyInstr]
  simp [acceptCopy, State.command_owner, hx4, hx7, hsrc, hdst, hmode, hrows, hroom, hwaits, hfull, hlocks, bind, Except.bind,
    finish, State.enqueueCopy]

/-- What an accepted copy leaves: the command waits youngest, its locks are Held and its counter is up. -/
theorem State.core_enqueueCopy (s : State) (c : Cmd) (l : List Lock) :
    (s.enqueueCopy c l).core.cpy.queue = s.core.cpy.queue ++ [c] ∧ (s.enqueueCopy c l).core.locks = l ∧
      (s.enqueueCopy c l).core.cmdCtr = s.core.cmdCtr + 1 ∧ (s.enqueueCopy c l).core.l1 = s.core.l1 ∧
      (s.enqueueCopy c l).core.cc = match counterOf c.x7 with
        | some i => s.core.cc.set i (s.core.cc[i] + 1)
        | none => s.core.cc := by
  unfold State.enqueueCopy State.countUp
  cases counterOf c.x7 <;> exact ⟨rfl, rfl, rfl, rfl, rfl⟩

theorem State.enqueueCopy_frame (s : State) (c : Cmd) (l : List Lock) :
    (s.enqueueCopy c l).me = s.me ∧ (s.enqueueCopy c l).tags = s.tags := by
  unfold State.enqueueCopy State.countUp
  cases counterOf c.x7 <;> exact ⟨rfl, rfl⟩

/-- R290, R297 and R298 for every state with a canonical L1: what CopyAcceptance states, with the premise that it lacks. -/
theorem CopyReady.accepted {two : Bool} {a b : Fin 32} {l : List Lock} {s : State} (h : CopyReady two a b l s) :
    ∃ t, Machine.exec (copyInstr two a b) s = .next t ∧ t.pc = s.pc + 4 ∧ (∀ r, t.reg r = s.reg r) ∧
      t.core.cpy.queue = s.core.cpy.queue ++ [s.copyCommand two a b] ∧ t.core.locks = l ∧
      t.core.cmdCtr = s.core.cmdCtr + 1 ∧ Spec.Counts s t true ∧
      (swf none 0 s.core.l1 = true → (∀ k, s.farDirty k = false) → ∀ k, t.tag k = s.tag k) := by
  let u := s.enqueueCopy (s.copyCommand two a b) l
  have hf : State.SameUnits u (flushCopy u (copyRows two (s.copyCommand two a b))) := sameUnits_flushCopy _ _
  obtain ⟨hqueue, hlocks, hctr, hl1, hcc⟩ := s.core_enqueueCopy (s.copyCommand two a b) l
  obtain ⟨hme, htags⟩ := s.enqueueCopy_frame (s.copyCommand two a b) l
  refine ⟨_, h.exec, ?pc, fun r => ?reg, ?queue, ?locks, ?ctr, ?counts, fun hwf hfar k => ?tag⟩
  case pc => rw [State.advance_pc, hf.pc, State.pc, hme]; rfl
  case reg => rw [State.reg_advance, hf.reg, State.reg, hme]; rfl
  case queue => rw [State.advance_core, hf.core]; exact hqueue
  case locks => rw [State.advance_core, hf.core]; exact hlocks
  case ctr => rw [State.advance_core, hf.core]; exact hctr
  case counts => rw [Spec.Counts, State.advance_core, hf.core]; exact hcc
  case tag =>
    have hu : u.FarClean := ⟨by rw [hl1]; exact hwf, fun k => by
      simpa only [State.farDirty, State.dirty, State.l1, u, hl1] using hfar k⟩
    rw [State.tag, State.advance_tags, (hu.flushCopy _).tags, htags]
    rfl

/-! ## A counterexample: a dirty line that an L1 out of order hides -/

/-- s1 points at a page of counted host memory. Its first line is dirty but stands in the L1 behind its second line, where a look-up by key
does not reach it until the second line is dropped. -/
def hiddenDirtyLine : State :=
  { (State.reset.setReg 1 0x1000000).setXreg 4 128 with
    hostActhr := 1
    core := { State.reset.core with
      dtlb := [⟨State.reset.ctxNo, 0x1000000, 0x10000, 0, 1, 0, true, false, true, true, true⟩]
      l1 := [(2 ^ 60 + 64, some ⟨0, false, false⟩), (2 ^ 60, some ⟨0, true, false⟩)]
      acePages := [0] } }

/-- The lock that a copy of 128 bytes from local offset 0 registers. -/
def hiddenDirtyLineLocks : List Lock := [⟨0, 0, 0, 0, 0, 0, 127, false, some 0, false⟩]

theorem hiddenDirtyLine_copyReady : CopyReady false 1 0 hiddenDirtyLineLocks hiddenDirtyLine where
  x4 := by decide +kernel
  x7 := by decide +kernel
  src := rfl
  dst := rfl
  mode := rfl
  rows := rfl
  room := by decide +kernel
  stores := by decide +kernel
  counter := by decide +kernel
  locks := by decide +kernel

/-- A look-up by key reaches no entry that stands behind a greater key. -/
theorem sget_behind_greater {α : Type} {d x y : α} {j k : Nat} (h : k ≤ j) (i : Nat) :
    sget d [(j, x), (k, y)] i = if i = j then x else d := by
  rw [sget]
  split
  · rfl
  · split
    · rfl
    · rw [sget, if_neg (by omega), if_neg (by omega), sget]

/-- No key of that L1 reads as a dirty byte. -/
theorem hiddenDirtyLine_farDirty (k : Nat) : hiddenDirtyLine.farDirty k = false := by
  have hdirty (j : Nat) : hiddenDirtyLine.dirty j = false := by
    have hget : hiddenDirtyLine.l1 j = if j = 2 ^ 60 + 64 then some ⟨0, false, false⟩ else none :=
      sget_behind_greater (by decide) j
    rw [State.dirty, hget]
    split <;> rfl
  simp [State.farDirty, hdirty]

theorem hiddenDirtyLine_tag : hiddenDirtyLine.tag 64 = false := by decide +kernel

/-- The write-back of the line that comes to light is counted, and the record that it posts sets a tag (R396, R399). -/
theorem tag_copy_hiddenDirtyLine :
    ((flushCopy (hiddenDirtyLine.enqueueCopy (hiddenDirtyLine.copyCommand false 1 0) hiddenDirtyLineLocks)
      (copyRows false (hiddenDirtyLine.copyCommand false 1 0))).advance 4).tag 64 = true := by decide +kernel

/-- Refutes O29, in the last conjunct of CopyAcceptance, that the tags stay where no byte of far memory is dirty: it does not ask for the
canonical form of the L1 (log 14), and in `hiddenDirtyLine`, which lacks it, accepting CPY s1, s0 sets the tag of key 64. With that form
asked for, `CopyReady.accepted` proves all of CopyAcceptance; PlainCopy holds as it stands, by `plainCopy`. -/
theorem not_copies : ¬ Obligations.Copies := by
  unfold Obligations.Copies
  rintro ⟨haccept, -⟩
  have h := hiddenDirtyLine_copyReady
  obtain ⟨t, ht, -, -, -, -, -, -, htags⟩ := haccept false 1 0 hiddenDirtyLineLocks hiddenDirtyLine h.x4 h.x7 h.src h.dst h.mode
    h.rows h.room h.stores h.counter h.locks
  have hnext := h.exec.symm.trans ht
  injection hnext with hnext
  have hkept := htags hiddenDirtyLine_farDirty 64
  rw [← hnext, tag_copy_hiddenDirtyLine, hiddenDirtyLine_tag] at hkept
  exact absurd hkept (by decide)

end Sys2Proof.Machine
end

section
/-! PROOF. Scalar values (R117, R120): the operands and results of the model's W-bit operations as the words that the statements
name. -/

namespace Sys2Proof.Machine

open Sys2Proof.Spec

/-! ## Widths -/

theorem widthOf_le (w : Bool) : widthOf w ≤ 64 := by cases w <;> decide

theorem widthOf_pos (w : Bool) : 0 < widthOf w := by cases w <;> decide

/-! ## Operands -/

theorem toNat_zx (w : Bool) (x : Word) : (zx w x).toNat = unsignedW w x := by
  cases w
  · exact (Nat.mod_eq_of_lt x.isLt).symm
  · have := Nat.mod_lt x.toNat (show 0 < 2 ^ 32 by decide)
    simp only [zx, if_true, BitVec.truncate_eq_setWidth, BitVec.toNat_setWidth, unsignedW, widthOf]
    omega

theorem unsignedW_lt (w : Bool) (x : Word) : unsignedW w x < 2 ^ widthOf w := Nat.mod_lt _ (Nat.two_pow_pos _)

theorem unsignedW_eq_toNat_setWidth (w : Bool) (x : Word) : unsignedW w x = (x.setWidth (widthOf w)).toNat :=
  (BitVec.toNat_setWidth _ _).symm

theorem zx_le_iff (w : Bool) (x y : Word) : zx w x ≤ zx w y ↔ unsignedW w x ≤ unsignedW w y := by
  rw [BitVec.le_def, toNat_zx, toNat_zx]

theorem zx_lt_iff (w : Bool) (x y : Word) : zx w x < zx w y ↔ unsignedW w x < unsignedW w y := by
  rw [BitVec.lt_def, toNat_zx, toNat_zx]

theorem zx_eq_iff (w : Bool) (x y : Word) : zx w x = zx w y ↔ unsignedW w x = unsignedW w y := by
  rw [← BitVec.toNat_inj, toNat_zx, toNat_zx]

theorem zx_eq_zero_iff (w : Bool) (x : Word) : zx w x = 0 ↔ unsignedW w x = 0 := by
  rw [← BitVec.toNat_inj, toNat_zx]
  rfl

theorem sx_eq_signExtend (w : Bool) (x : Word) : sx w x = (x.setWidth (widthOf w)).signExtend 64 := by
  cases w
  · simp [sx, widthOf]
  · rfl

theorem toInt_sx (w : Bool) (x : Word) : (sx w x).toInt = signedW w x := by
  rw [sx_eq_signExtend, BitVec.toInt_signExtend_of_le (widthOf_le w), signedW, signedOf, BitVec.ofNat_toNat]

theorem signedW_bounds (w : Bool) (x : Word) : -2 ^ (widthOf w - 1) ≤ signedW w x ∧ signedW w x < 2 ^ (widthOf w - 1) :=
  ⟨BitVec.le_toInt _, BitVec.toInt_lt⟩

theorem ofInt_unsignedW (w : Bool) (x : Word) : BitVec.ofInt 64 (unsignedW w x) = zx w x := by
  rw [← toNat_zx, BitVec.ofInt_natCast, BitVec.ofNat_toNat, BitVec.setWidth_eq]

/-! ## Results -/

/-- A result depends on the low W bits alone. -/
theorem sx_congr {w : Bool} {x y : Word} (h : x.setWidth (widthOf w) = y.setWidth (widthOf w)) : sx w x = sx w y := by
  rw [sx_eq_signExtend, sx_eq_signExtend, h]

theorem setWidth_zx (w : Bool) (x : Word) : (zx w x).setWidth (widthOf w) = x.setWidth (widthOf w) := by
  apply BitVec.eq_of_toNat_eq
  rw [BitVec.toNat_setWidth, BitVec.toNat_setWidth, toNat_zx, unsignedW, Nat.mod_mod]

theorem sx_zx (w : Bool) (x : Word) : sx w (zx w x) = sx w x := sx_congr (setWidth_zx w x)

/-- Finish(i, W) of R120 keeps the low W bits of i and extends their sign. -/
theorem finishW_ofInt (w : Bool) (i : Int) : finishW w i = sx w (BitVec.ofInt 64 i) := by
  rw [sx_eq_signExtend, finishW]
  congr 1
  apply BitVec.eq_of_toNat_eq
  rw [BitVec.toNat_setWidth, BitVec.toNat_ofInt, BitVec.toNat_ofInt]
  cases w
  · simp only [widthOf, Bool.false_eq_true, if_false]
    omega
  · simp only [widthOf, if_true]
    omega

theorem finishW_natCast (w : Bool) (n : Nat) : finishW w n = sx w (BitVec.ofNat 64 n) := by
  rw [finishW_ofInt, BitVec.ofInt_natCast]

theorem finishW_toNat (w : Bool) (x : Word) : finishW w x.toNat = sx w x := by
  rw [finishW_natCast, BitVec.ofNat_toNat, BitVec.setWidth_eq]

theorem finishW_unsignedW (w : Bool) (x : Word) : finishW w (unsignedW w x) = sx w x := by
  rw [← toNat_zx, finishW_toNat, sx_zx]

theorem finishW_signedW (w : Bool) (x : Word) : finishW w (signedW w x) = sx w x := by
  rw [finishW, signedW, signedOf, BitVec.ofInt_toInt, BitVec.ofNat_toNat, sx_eq_signExtend]

/-- A result that W bits hold is written as it is. -/
theorem finishW_of_fits (w : Bool) {i : Int} (hlo : -2 ^ (widthOf w - 1) ≤ i) (hhi : i < 2 ^ (widthOf w - 1)) :
    finishW w i = BitVec.ofInt 64 i := by
  have hmono : (2 : Int) ^ (widthOf w - 1) ≤ 2 ^ (64 - 1) := by cases w <;> decide
  apply BitVec.eq_of_toInt_eq
  rw [finishW, BitVec.toInt_signExtend_of_le (widthOf_le w), BitVec.toInt_ofInt_eq_self (widthOf_pos w) hlo hhi,
    BitVec.toInt_ofInt_eq_self (by decide) (by omega) (by omega)]

/-- A count of bits is written as it is. -/
theorem finishW_count (w : Bool) {n : Nat} (h : n ≤ widthOf w) : finishW w n = BitVec.ofNat 64 n := by
  have hn : n < 2 ^ (widthOf w - 1) := Nat.lt_of_le_of_lt h (by cases w <;> decide)
  have hpow : (0 : Int) < 2 ^ (widthOf w - 1) := Int.pow_pos (by decide)
  rw [finishW_of_fits w (by omega) (by exact_mod_cast hn), BitVec.ofInt_natCast]

theorem finishW_zero (w : Bool) : finishW w 0 = 0 := finishW_count w (Nat.zero_le _)

theorem finishW_one (w : Bool) : finishW w 1 = 1 := finishW_count w (widthOf_pos w)

/-- A two-way result, each side finished. -/
theorem finishW_ite (w : Bool) (p : Prop) [Decidable p] (i j : Int) :
    finishW w (if p then i else j) = if p then finishW w i else finishW w j := apply_ite _ _ _ _

/-- A comparison writes 1 or 0. -/
theorem finishW_bit (w : Bool) (p : Prop) [Decidable p] : finishW w (if p then 1 else 0) = if p then 1 else 0 := by
  rw [finishW_ite, finishW_one, finishW_zero]

theorem finishW_all_ones (w : Bool) : finishW w (2 ^ widthOf w - 1) = -1 := by cases w <;> decide

/-! ## One bit of a result -/

theorem getLsbD_finishW (w : Bool) (n i : Nat) (hi : i < 64) :
    (finishW w n).getLsbD i = n.testBit (min i (widthOf w - 1)) := by
  have hpos := widthOf_pos w
  rw [finishW, BitVec.ofInt_natCast, BitVec.getLsbD_signExtend, BitVec.msb_eq_getLsbD_last, BitVec.getLsbD_ofNat,
    BitVec.getLsbD_ofNat]
  by_cases h : i < widthOf w
  · rw [show min i (widthOf w - 1) = i by omega]
    rw [decide_eq_true hi, Bool.true_and, if_pos h, decide_eq_true h, Bool.true_and]
  · rw [show min i (widthOf w - 1) = widthOf w - 1 by omega]
    rw [decide_eq_true hi, Bool.true_and, if_neg h, decide_eq_true (by omega), Bool.true_and]

theorem testBit_unsignedW (w : Bool) (x : Word) {i : Nat} (h : i < widthOf w) :
    (unsignedW w x).testBit i = x.getLsbD i := by
  rw [unsignedW, Nat.testBit_mod_two_pow, decide_eq_true h, Bool.true_and]
  rfl

/-! ## The instruction that writes a result -/

/-- A scalar instruction whose result is shown to be u writes u (R118). -/
theorem retOk_eq {v u : Word} (h : v = u) (d : Fin 32) (s : State) : retOk d v s = .next (s.ret d u) := by rw [h, retOk]

end Sys2Proof.Machine
end

section
/-! PROOF. The integer ALU (R121, R122): the value of each operation, and what CLZ, CTZ, POPC, SEXT and ZEXT count and keep. -/

namespace Sys2Proof.Machine

open Sys2Proof.Spec

/-! ## Arithmetic and logic (R121) -/

theorem alu_add (w : Bool) (x y : Word) : alu .add w x y = sx w (x + y) := by
  change finishW w ((unsignedW w x : Int) + unsignedW w y) = _
  rw [finishW_ofInt, BitVec.ofInt_add, ofInt_unsignedW, ofInt_unsignedW]
  exact sx_congr (by simp only [BitVec.setWidth_add _ _ (widthOf_le w), setWidth_zx])

theorem alu_sub (w : Bool) (x y : Word) : alu .sub w x y = sx w (x - y) := by
  change finishW w ((unsignedW w x : Int) - unsignedW w y) = _
  rw [finishW_ofInt, Int.sub_eq_add_neg, BitVec.ofInt_add, BitVec.ofInt_neg, ofInt_unsignedW, ofInt_unsignedW, ← BitVec.sub_eq_add_neg]
  exact sx_congr (by simp only [BitVec.sub_eq_add_neg, BitVec.setWidth_add _ _ (widthOf_le w),
    BitVec.setWidth_neg_of_le (widthOf_le w), setWidth_zx])

theorem alu_and (w : Bool) (x y : Word) : alu .and w x y = sx w (x &&& y) := by
  change finishW w ((unsignedW w x &&& unsignedW w y : Nat) : Int) = _
  rw [← toNat_zx, ← toNat_zx, ← BitVec.toNat_and, finishW_toNat]
  exact sx_congr (by simp only [BitVec.setWidth_and, setWidth_zx])

theorem alu_or (w : Bool) (x y : Word) : alu .or w x y = sx w (x ||| y) := by
  change finishW w ((unsignedW w x ||| unsignedW w y : Nat) : Int) = _
  rw [← toNat_zx, ← toNat_zx, ← BitVec.toNat_or, finishW_toNat]
  exact sx_congr (by simp only [BitVec.setWidth_or, setWidth_zx])

theorem alu_xor (w : Bool) (x y : Word) : alu .xor w x y = sx w (x ^^^ y) := by
  change finishW w ((unsignedW w x ^^^ unsignedW w y : Nat) : Int) = _
  rw [← toNat_zx, ← toNat_zx, ← BitVec.toNat_xor, finishW_toNat]
  exact sx_congr (by simp only [BitVec.setWidth_xor, setWidth_zx])

/-- ANDN complements the W bits of its second source, of which 2^W - 1 - b is the value. -/
theorem alu_andn (w : Bool) (x y : Word) : alu .andn w x y = sx w (x &&& ~~~y) := by
  change finishW w ((unsignedW w x &&& (2 ^ widthOf w - 1 - unsignedW w y) : Nat) : Int) = _
  rw [unsignedW_eq_toNat_setWidth, unsignedW_eq_toNat_setWidth, ← BitVec.toNat_not, ← BitVec.toNat_and,
    ← BitVec.setWidth_not (widthOf_le w), ← BitVec.setWidth_and, ← unsignedW_eq_toNat_setWidth, finishW_unsignedW]

/-! ## Shifts (R121) -/

theorem alu_shl (w : Bool) (x y : Word) : alu .shl w x y =
    if width w ≤ (zx w y).toNat then 0 else sx w (x <<< (zx w y).toNat) := by
  have hshift (c : Nat) : finishW w ((unsignedW w x * 2 ^ c : Nat) : Int) = sx w (x <<< c) := by
    have hword : BitVec.ofNat 64 (unsignedW w x * 2 ^ c) = zx w x <<< c := by
      apply BitVec.eq_of_toNat_eq
      rw [BitVec.toNat_ofNat, BitVec.toNat_shiftLeft, Nat.shiftLeft_eq, toNat_zx]
    rw [finishW_natCast, hword]
    exact sx_congr (by simp only [BitVec.setWidth_shiftLeft_of_le (widthOf_le w), setWidth_zx])
  change finishW w (if widthOf w ≤ unsignedW w y then 0 else ((unsignedW w x * 2 ^ unsignedW w y : Nat) : Int)) = _
  rw [finishW_ite, hshift, finishW_zero, toNat_zx]
  rfl

theorem alu_shr (w : Bool) (x y : Word) : alu .shr w x y =
    if width w ≤ (zx w y).toNat then 0 else sx w (zx w x >>> (zx w y).toNat) := by
  have hshift (c : Nat) : finishW w ((unsignedW w x / 2 ^ c : Nat) : Int) = sx w (zx w x >>> c) := by
    rw [← toNat_zx, ← Nat.shiftRight_eq_div_pow, ← BitVec.toNat_ushiftRight, finishW_toNat]
  change finishW w (if widthOf w ≤ unsignedW w y then 0 else ((unsignedW w x / 2 ^ unsignedW w y : Nat) : Int)) = _
  rw [finishW_ite, hshift, finishW_zero, toNat_zx]
  rfl

/-- A quotient by a positive number stays within the bounds of its dividend. -/
theorem ediv_bounds {M a p : Int} (hp : 0 < p) (ha : -M ≤ a ∧ a < M) : -M ≤ a / p ∧ a / p < M := by
  obtain ⟨hlo, hhi⟩ := ha
  have hgrow : M * 1 ≤ M * p := Int.mul_le_mul_of_nonneg_left hp (by omega)
  refine ⟨Int.le_ediv_of_mul_le hp ?_, Int.ediv_lt_of_lt_mul hp ?_⟩
  · rw [Int.neg_mul]
    omega
  · omega

/-- An arithmetic right shift stays within W bits, so R120 leaves it as it is. -/
theorem alu_sar (w : Bool) (x y : Word) : alu .sar w x y =
    (sx w x).sshiftRight (min (zx w y).toNat (width w - 1)) := by
  have hshift (k : Nat) : finishW w (signedW w x / 2 ^ k) = (sx w x).sshiftRight k := by
    obtain ⟨hlo, hhi⟩ := ediv_bounds (p := 2 ^ k) (Int.pow_pos (by decide)) (signedW_bounds w x)
    have hvalue : signedW w x / 2 ^ k = ((sx w x).sshiftRight k).toInt := by
      rw [BitVec.toInt_sshiftRight, toInt_sx, Int.shiftRight_eq_div_pow, Int.natCast_pow]
      rfl
    rw [finishW_of_fits w hlo hhi, hvalue, BitVec.ofInt_toInt]
  change finishW w (signedW w x / 2 ^ min (unsignedW w y) (widthOf w - 1)) = _
  rw [hshift, toNat_zx]
  rfl

/-! ## Minima, maxima and comparisons (R121) -/

theorem alu_min (w : Bool) (x y : Word) : alu .min w x y =
    if (sx w x).toInt ≤ (sx w y).toInt then sx w x else sx w y := by
  change finishW w (min (signedW w x) (signedW w y)) = _
  rw [Int.min_def, finishW_ite, finishW_signedW, finishW_signedW, toInt_sx, toInt_sx]

theorem alu_max (w : Bool) (x y : Word) : alu .max w x y =
    if (sx w x).toInt ≤ (sx w y).toInt then sx w y else sx w x := by
  change finishW w (max (signedW w x) (signedW w y)) = _
  rw [Int.max_def, finishW_ite, finishW_signedW, finishW_signedW, toInt_sx, toInt_sx]

theorem alu_minu (w : Bool) (x y : Word) : alu .minu w x y = if zx w x ≤ zx w y then sx w x else sx w y := by
  change finishW w ((min (unsignedW w x) (unsignedW w y) : Nat) : Int) = _
  simp only [zx_le_iff, Nat.min_def]
  split
  · exact finishW_unsignedW w x
  · exact finishW_unsignedW w y

theorem alu_maxu (w : Bool) (x y : Word) : alu .maxu w x y = if zx w x ≤ zx w y then sx w y else sx w x := by
  change finishW w ((max (unsignedW w x) (unsignedW w y) : Nat) : Int) = _
  simp only [zx_le_iff, Nat.max_def]
  split
  · exact finishW_unsignedW w y
  · exact finishW_unsignedW w x

theorem alu_slt (w : Bool) (x y : Word) : alu .slt w x y = if (sx w x).toInt < (sx w y).toInt then 1 else 0 := by
  rw [toInt_sx, toInt_sx]
  exact finishW_bit w _

theorem alu_sltu (w : Bool) (x y : Word) : alu .sltu w x y = if zx w x < zx w y then 1 else 0 := by
  simp only [zx_lt_iff]
  exact finishW_bit w _

theorem alu_seq (w : Bool) (x y : Word) : alu .seq w x y = if zx w x = zx w y then 1 else 0 := by
  simp only [zx_eq_iff]
  exact finishW_bit w _

/-! ## Counts of bits (R122) -/

theorem leading_zero (w : Bool) : leading w 0 = widthOf w := if_pos rfl

theorem leading_spec (w : Bool) {v : Nat} (hv : v ≠ 0) (hlt : v < 2 ^ widthOf w) :
    leading w v < widthOf w ∧ 2 ^ (widthOf w - 1 - leading w v) ≤ v ∧ v < 2 ^ (widthOf w - leading w v) := by
  have hlog : v.log2 < widthOf w := (Nat.log2_lt hv).2 hlt
  rw [leading, if_neg hv, show widthOf w - 1 - (widthOf w - 1 - v.log2) = v.log2 by omega,
    show widthOf w - (widthOf w - 1 - v.log2) = v.log2 + 1 by omega]
  exact ⟨by omega, Nat.log2_self_le hv, Nat.lt_log2_self⟩

theorem leading_le (w : Bool) (v : Nat) : leading w v ≤ widthOf w := by
  unfold leading
  split <;> omega

theorem trailing_zero (n : Nat) : trailing 0 n = n := by
  induction n with
  | zero => rfl
  | succ n ih => rw [trailing, if_neg (by decide), Nat.zero_div, ih]

theorem trailing_le (v n : Nat) : trailing v n ≤ n := by
  induction n generalizing v with
  | zero => exact Nat.le_refl 0
  | succ n ih =>
    rw [trailing]
    split
    · exact Nat.zero_le _
    · exact Nat.succ_le_succ (ih _)

theorem trailing_spec {v n : Nat} (hv : v ≠ 0) (hlt : v < 2 ^ n) :
    trailing v n < n ∧ v % 2 ^ trailing v n = 0 ∧ v / 2 ^ trailing v n % 2 = 1 := by
  induction n generalizing v with
  | zero => exact absurd (Nat.lt_one_iff.1 hlt) hv
  | succ n ih =>
    rw [trailing]
    split
    case isTrue hodd => exact ⟨Nat.succ_pos n, Nat.mod_one v, by rwa [Nat.pow_zero, Nat.div_one]⟩
    case isFalse heven =>
      obtain ⟨hn, hzeros, hone⟩ := ih (v := v / 2) (by omega) (by omega)
      refine ⟨by omega, ?_, ?_⟩
      · rw [Nat.pow_succ', Nat.mod_mul, hzeros]
        omega
      · rwa [Nat.pow_succ', ← Nat.div_div_eq_div_mul]

theorem popCount_eq_countP (v n : Nat) : popCount v n = (List.range n).countP fun i => v.testBit i := by
  induction n generalizing v with
  | zero => rfl
  | succ n ih =>
    rw [popCount, ih, List.range_succ_eq_map, List.countP_cons, List.countP_map, Nat.testBit_zero, Nat.add_comm]
    congr 1
    · simp [Function.comp_def, Nat.testBit_succ]
    · simp only [decide_eq_true_eq]
      split <;> omega

theorem popCount_le (v n : Nat) : popCount v n ≤ n := by
  rw [popCount_eq_countP]
  exact Nat.le_trans List.countP_le_length (Nat.le_of_eq List.length_range)

/-! ## Fields (R122) -/

theorem fieldTop_lt (w : Bool) (p : Word) : fieldTop w p < widthOf w := Nat.mod_lt _ (widthOf_pos w)

/-- SEXT copies bit p to every bit above it. -/
theorem getLsbD_sext (w : Bool) (x : Word) {p i : Nat} (hp : p < widthOf w) (hi : i < 64) :
    (finishW w (signedOf (unsignedW w x) (p + 1))).getLsbD i = x.getLsbD (min i p) := by
  have hbit (j : Nat) (hj : j ≤ p) : (BitVec.ofNat (p + 1) (unsignedW w x)).getLsbD j = x.getLsbD j := by
    rw [BitVec.getLsbD_ofNat, decide_eq_true (by omega), Bool.true_and, testBit_unsignedW w x (by omega)]
  have hfield (j : Nat) (hj : j < widthOf w) :
      ((BitVec.ofNat (p + 1) (unsignedW w x)).signExtend (widthOf w)).getLsbD j = x.getLsbD (min j p) := by
    rw [BitVec.getLsbD_signExtend, decide_eq_true hj, Bool.true_and, BitVec.msb_eq_getLsbD_last]
    split
    · rw [hbit j (by omega), Nat.min_eq_left (by omega)]
    · rw [hbit _ (by omega), Nat.min_eq_right (by omega), Nat.add_sub_cancel]
  change (((BitVec.ofNat (p + 1) (unsignedW w x)).signExtend (widthOf w)).signExtend 64).getLsbD i = _
  rw [BitVec.getLsbD_signExtend, decide_eq_true hi, Bool.true_and, BitVec.msb_eq_getLsbD_last]
  split
  · exact hfield i ‹_›
  · rw [hfield _ (by omega)]
    congr 1
    omega

/-- ZEXT clears every bit above bit p. -/
theorem getLsbD_zext (w : Bool) (x : Word) {p i : Nat} (hi : i < 64) :
    (finishW w (unsignedW w x % 2 ^ (p + 1) : Nat)).getLsbD i =
      (decide (min i (widthOf w - 1) ≤ p) && x.getLsbD (min i (widthOf w - 1))) := by
  have hpos := widthOf_pos w
  rw [getLsbD_finishW _ _ _ hi, Nat.testBit_mod_two_pow, testBit_unsignedW w x (by omega)]
  simp only [Nat.lt_succ_iff]

theorem sel_value (w : Bool) (c x y : Word) :
    finishW w (unsignedW w (if unsignedW w c ≠ 0 then x else y)) = if zx w c ≠ 0 then sx w x else sx w y := by
  rw [finishW_unsignedW, apply_ite (sx w)]
  simp only [ne_eq, zx_eq_zero_iff]

/-! ## The instructions of majors 0x00 to 0x02 -/

theorem arithmetic : Spec.Arithmetic := fun w d a b s =>
  ⟨retOk_eq (alu_add w (s.src a) (s.src b)) d s, retOk_eq (alu_sub w (s.src a) (s.src b)) d s,
    retOk_eq (alu_and w (s.src a) (s.src b)) d s, retOk_eq (alu_or w (s.src a) (s.src b)) d s,
    retOk_eq (alu_xor w (s.src a) (s.src b)) d s, retOk_eq (alu_andn w (s.src a) (s.src b)) d s⟩

theorem shifts : Spec.Shifts := fun w d a b s =>
  ⟨retOk_eq (alu_shl w (s.src a) (s.src b)) d s, retOk_eq (alu_shr w (s.src a) (s.src b)) d s,
    retOk_eq (alu_sar w (s.src a) (s.src b)) d s⟩

theorem comparisons : Spec.Comparisons := fun w d a b s =>
  ⟨retOk_eq (alu_min w (s.src a) (s.src b)) d s, retOk_eq (alu_max w (s.src a) (s.src b)) d s,
    retOk_eq (alu_minu w (s.src a) (s.src b)) d s, retOk_eq (alu_maxu w (s.src a) (s.src b)) d s,
    retOk_eq (alu_slt w (s.src a) (s.src b)) d s, retOk_eq (alu_sltu w (s.src a) (s.src b)) d s,
    retOk_eq (alu_seq w (s.src a) (s.src b)) d s⟩

theorem bitOperations : Spec.BitOperations := by
  intro w d a b s v p
  have hv : v = unsignedW w (s.src a) := toNat_zx w (s.src a)
  have hlt : v < 2 ^ widthOf w := by
    rw [hv]
    exact unsignedW_lt w (s.src a)
  have hp : p < widthOf w := fieldTop_lt w (s.src b)
  refine ⟨⟨leading w v, retOk_eq ?clz d s, ?clzZero, fun h => leading_spec w h hlt⟩,
    ⟨trailing v (widthOf w), retOk_eq ?ctz d s, ?ctzZero, fun h => trailing_spec h hlt⟩, retOk_eq ?popc d s,
    ⟨_, rfl, fun i hi => getLsbD_sext w (s.src a) hp hi⟩, ⟨_, rfl, fun i hi => getLsbD_zext w (s.src a) hi⟩,
    retOk_eq (sel_value w (s.xreg 4) (s.src a) (s.src b)) d s, rfl⟩
  case clz => rw [← hv, finishW_count w (leading_le w v)]
  case clzZero =>
    intro h
    rw [h, leading_zero]
    rfl
  case ctz => rw [← hv, finishW_count w (trailing_le v _)]
  case ctzZero =>
    intro h
    rw [h, trailing_zero]
    rfl
  case popc =>
    rw [← hv, finishW_count w (popCount_le v _), popCount_eq_countP]
    rfl

/-- Settles O1: each operation's value is an `alu_` lemma, and the counts and fields of R122 are `leading_spec`, `trailing_spec`,
`popCount_eq_countP`, `getLsbD_sext` and `getLsbD_zext`. -/
theorem scalarAlu : Obligations.ScalarAlu := by
  unfold Obligations.ScalarAlu
  exact ⟨arithmetic, shifts, comparisons, bitOperations⟩

end Sys2Proof.Machine
end

section
/-! PROOF. Products, quotients and remainders (R123): the bounds within which a signed quotient or remainder fits its width, and the
value of each operation. -/

namespace Sys2Proof.Machine

open Sys2Proof.Spec

/-! ## Bounds of signed results -/

/-- The high half of a product of two signed W-bit values is one: with M = 2^(W-1) the product lies between -M² and M². -/
theorem mul_ediv_two_mul_bounds {M a b : Int} (hM : 0 < M) (ha : -M ≤ a ∧ a < M) (hb : -M ≤ b ∧ b < M) :
    -M ≤ a * b / (2 * M) ∧ a * b / (2 * M) < M := by
  have habs : (a * b).natAbs ≤ (M * M).natAbs := by
    rw [Int.natAbs_mul, Int.natAbs_mul]
    exact Nat.mul_le_mul (by omega) (by omega)
  have hpos : 0 < M * M := Int.mul_pos hM hM
  have hdouble : M * (2 * M) = 2 * (M * M) := Int.mul_left_comm M 2 M
  refine ⟨Int.le_ediv_of_mul_le (by omega) ?_, Int.ediv_lt_of_lt_mul (by omega) ?_⟩
  · rw [Int.neg_mul, hdouble]
    omega
  · rw [hdouble]
    omega

/-- The only quotient that leaves its width is that of the least value by -1. -/
theorem tdiv_bounds {M a b : Int} (ha : -M ≤ a ∧ a < M) (hwraps : ¬ (a = -M ∧ b = -1)) :
    -M ≤ a.tdiv b ∧ a.tdiv b < M := by
  have habs : (a.tdiv b).natAbs = a.natAbs / b.natAbs := Int.natAbs_tdiv a b
  by_cases hone : b.natAbs = 1
  · obtain rfl | rfl : b = 1 ∨ b = -1 := by omega
    · rwa [Int.tdiv_one]
    · rw [Int.tdiv_neg, Int.tdiv_one]
      omega
  · have hhalf : a.natAbs / b.natAbs ≤ a.natAbs / 2 := by
      obtain hzero | htwo : b.natAbs = 0 ∨ 2 ≤ b.natAbs := by omega
      · rw [hzero, Nat.div_zero]
        exact Nat.zero_le _
      · exact Nat.div_le_div_left htwo (by decide)
    omega

/-- A remainder is smaller than its divisor, and by zero it is the dividend. -/
theorem tmod_bounds {M a b : Int} (ha : -M ≤ a ∧ a < M) (hb : -M ≤ b ∧ b < M) : -M ≤ a.tmod b ∧ a.tmod b < M := by
  by_cases hzero : b = 0
  · rwa [hzero, Int.tmod_zero]
  · have habs := Int.natAbs_tmod a b
    have hlt : a.natAbs % b.natAbs < b.natAbs := Nat.mod_lt _ (Int.natAbs_pos.2 hzero)
    omega

/-! ## The overflowing quotient -/

theorem sx_eq_least_iff (w : Bool) (x : Word) :
    sx w x = -(1 <<< (width w - 1)) ↔ signedW w x = -2 ^ (widthOf w - 1) := by
  have hleast : (-(1 <<< (width w - 1)) : Word).toInt = -2 ^ (widthOf w - 1) := by cases w <;> decide
  rw [← BitVec.toInt_inj, toInt_sx, hleast]

theorem sx_eq_neg_one_iff (w : Bool) (x : Word) : sx w x = -1 ↔ signedW w x = -1 := by
  rw [← BitVec.toInt_inj, toInt_sx]
  rfl

/-! ## The operations of R123 -/

theorem mul_value (w : Bool) (x y : Word) : finishW w (mulRes .mul w x y) = sx w (x * y) := by
  change finishW w ((unsignedW w x * unsignedW w y : Nat) : Int) = _
  rw [finishW_ofInt, Int.natCast_mul, BitVec.ofInt_mul, ofInt_unsignedW, ofInt_unsignedW]
  exact sx_congr (by simp only [BitVec.setWidth_mul _ _ (widthOf_le w), setWidth_zx])

theorem mulh_value (w : Bool) (x y : Word) :
    finishW w (mulRes .mulh w x y) = BitVec.ofInt 64 ((sx w x).toInt * (sx w y).toInt / 2 ^ width w) := by
  have hpow : (2 : Int) ^ widthOf w = 2 * 2 ^ (widthOf w - 1) := by cases w <;> decide
  obtain ⟨hlo, hhi⟩ := mul_ediv_two_mul_bounds (Int.pow_pos (by decide)) (signedW_bounds w x) (signedW_bounds w y)
  rw [← hpow] at hlo hhi
  rw [toInt_sx, toInt_sx]
  exact finishW_of_fits w hlo hhi

theorem mulhu_value (w : Bool) (x y : Word) :
    finishW w (mulRes .mulhu w x y) = sx w (BitVec.ofNat 64 ((zx w x).toNat * (zx w y).toNat / 2 ^ width w)) := by
  rw [toNat_zx, toNat_zx]
  exact finishW_natCast w _

theorem div_value (w : Bool) (x y : Word) :
    finishW w (mulRes .div w x y) =
      if zx w y = 0 then -1 else if sx w x = -(1 <<< (width w - 1)) ∧ sx w y = -1 then sx w x
      else BitVec.ofInt 64 ((sx w x).toInt.tdiv (sx w y).toInt) := by
  simp only [zx_eq_zero_iff, sx_eq_least_iff, sx_eq_neg_one_iff, toInt_sx, mulRes]
  split
  · exact finishW_all_ones w
  split
  case isTrue hwraps => rw [← hwraps.1, finishW_signedW]
  case isFalse hfits =>
    obtain ⟨hlo, hhi⟩ := tdiv_bounds (signedW_bounds w x) hfits
    exact finishW_of_fits w hlo hhi

theorem rem_value (w : Bool) (x y : Word) :
    finishW w (mulRes .rem w x y) =
      if zx w y = 0 then sx w x else if sx w x = -(1 <<< (width w - 1)) ∧ sx w y = -1 then 0
      else BitVec.ofInt 64 ((sx w x).toInt.tmod (sx w y).toInt) := by
  simp only [zx_eq_zero_iff, sx_eq_least_iff, sx_eq_neg_one_iff, toInt_sx, mulRes]
  split
  · exact finishW_unsignedW w x
  split
  · exact finishW_zero w
  · obtain ⟨hlo, hhi⟩ := tmod_bounds (signedW_bounds w x) (signedW_bounds w y)
    rw [← Int.tmod_def]
    exact finishW_of_fits w hlo hhi

theorem divu_value (w : Bool) (x y : Word) :
    finishW w (mulRes .divu w x y) = if zx w y = 0 then -1 else sx w (zx w x / zx w y) := by
  rw [← finishW_toNat, BitVec.toNat_udiv, toNat_zx, toNat_zx, ← finishW_all_ones w, ← finishW_ite]
  simp only [zx_eq_zero_iff, mulRes]

theorem remu_value (w : Bool) (x y : Word) :
    finishW w (mulRes .remu w x y) = if zx w y = 0 then sx w x else sx w (zx w x % zx w y) := by
  rw [← finishW_toNat w (zx w x % zx w y), BitVec.toNat_umod, toNat_zx, toNat_zx, ← finishW_unsignedW, ← finishW_ite]
  simp only [zx_eq_zero_iff, mulRes]

/-- Settles O2: `finishW_of_fits` with the bounds of MULH, DIV and REM, and the low W bits for the others. -/
theorem scalarMultiplyDivide : Obligations.ScalarMultiplyDivide := by
  unfold Obligations.ScalarMultiplyDivide
  intro w d a b s x y wraps
  exact ⟨retOk_eq (mul_value w x y) d s, retOk_eq (mulh_value w x y) d s, retOk_eq (mulhu_value w x y) d s,
    retOk_eq (div_value w x y) d s, retOk_eq (rem_value w x y) d s, retOk_eq (divu_value w x y) d s,
    retOk_eq (remu_value w x y) d s⟩

end Sys2Proof.Machine
end

section
/-! PROOF. What scalar instructions leave alone (R118), and constants, extension registers and addresses (R125 to R128). -/

namespace Sys2Proof.Machine

open Sys2Proof.Spec

/-! ## Frames that compose -/

theorem State.SameMem.sameMemory {s t : State} (h : State.SameMem s t) : Spec.SameMemory s t :=
  ⟨fun k => by rw [State.byte, h.mem, State.byte], fun k => by rw [State.tag, h.tags, State.tag],
    fun k => by rw [State.poisoned, h.poison, State.poisoned]⟩

theorem keepsThread_refl (d : Option (Fin 32)) (n : Option (Fin 8)) (s : State) : KeepsThread d n s s :=
  ⟨fun _ _ => rfl, fun _ _ => rfl, fun _ => rfl, fun _ => rfl, rfl, rfl⟩

theorem keepsThread_trans {d : Option (Fin 32)} {n : Option (Fin 8)} {s t u : State} (h : KeepsThread d n s t)
    (k : KeepsThread d n t u) : KeepsThread d n s u := by
  obtain ⟨hreg, hxreg, hv, hm, hflags, hjournal⟩ := h
  obtain ⟨kreg, kxreg, kv, km, kflags, kjournal⟩ := k
  exact ⟨fun r hr => (kreg r hr).trans (hreg r hr), fun m hm => (kxreg m hm).trans (hxreg m hm), fun r => (kv r).trans (hv r),
    fun r => (km r).trans (hm r), kflags.trans hflags, kjournal.trans hjournal⟩

theorem keepsThread_setReg (d : Fin 32) (n : Option (Fin 8)) (v : Word) (s : State) :
    KeepsThread (some d) n s (s.setReg d v) := by
  refine ⟨fun r hr => ?_, fun m _ => ?_, fun r => by simp, fun r => by simp, by simp, by simp⟩
  · rw [State.reg_setReg, if_neg fun h => hr (congrArg some h.1)]
  · simp [State.xreg, Thread.getX]

theorem keepsThread_setXreg (d : Option (Fin 32)) (n : Fin 8) (v : Word) (s : State) :
    KeepsThread d (some n) s (s.setXreg n v) := by
  refine ⟨fun r _ => ?_, fun m hm => ?_, fun r => by simp, fun r => by simp, by simp, by simp⟩
  · simp [State.reg, Thread.getS]
  · rw [State.xreg_setXreg, if_neg fun h => hm (congrArg some h)]

theorem keepsThread_goto (d : Option (Fin 32)) (n : Option (Fin 8)) (a : Word) (s : State) : KeepsThread d n s (s.goto a) :=
  ⟨fun _ _ => by simp, fun _ _ => by simp [State.xreg, Thread.getX], fun _ => by simp, fun _ => by simp, by simp, by simp⟩

theorem State.sameMem_setReg (s : State) (d : Fin 32) (v : Word) : State.SameMem s (s.setReg d v) := s.sameMem_setMe _

theorem State.sameMem_goto (s : State) (a : Word) : State.SameMem s (s.goto a) := s.sameMem_setMe _

/-! ## One register and the program counter (R118) -/

/-- An instruction changes a register and the program counter and leaves everything else. -/
def ScalarEffect (d : Option (Fin 32)) (n : Option (Fin 8)) (s : State) (o : Host.Outcome State Fault Refusal) : Prop :=
  ∃ t, o = .next t ∧ KeepsThread d n s t ∧ OnlyMe s t ∧ SameMemory s t

theorem onlyMe_setMe_goto (s : State) (x : Thread) (a : Word) : OnlyMe s ((s.setMe x).goto a) := by
  simp [OnlyMe, State.goto]

theorem scalarEffect_setReg_advance (d : Fin 32) (v : Word) (len : Nat) (s : State) :
    ScalarEffect (some d) none s (.next ((s.setReg d v).advance len)) :=
  ⟨_, rfl, keepsThread_trans (keepsThread_setReg d none v s) (keepsThread_goto _ _ _ _), onlyMe_setMe_goto s _ _,
    ((s.sameMem_setReg d v).trans (State.sameMem_goto _ _)).sameMemory⟩

theorem scalarEffect_setXreg_advance (n : Fin 8) (v : Word) (len : Nat) (s : State) :
    ScalarEffect none (some n) s (.next ((s.setXreg n v).advance len)) :=
  ⟨_, rfl, keepsThread_trans (keepsThread_setXreg none n v s) (keepsThread_goto _ _ _ _), onlyMe_setMe_goto s _ _,
    ((s.sameMem_setMe _).trans (State.sameMem_goto _ _)).sameMemory⟩

/-- Settles O6: each of the instructions ends in a register written and the program counter advanced. -/
theorem scalarFrame : Obligations.ScalarFrame := by
  unfold Obligations.ScalarFrame
  intro i d n s h
  cases i with
  | add | sub | and | or | xor | andn | shl | shr | sar | min | max | minu | maxu | slt | sltu | seq | clz | ctz | popc | sext | zext
  | sel | mov | mul | mulh | mulhu | div | divu | rem | remu | li | movxFromX | saddr | lea
  | cMov | cAdd | cSub | cAnd | cAddi | cLi | cShli | cShri =>
    cases h
    exact scalarEffect_setReg_advance _ _ _ s
  | lix | lxh | movxToX =>
    cases h
    exact scalarEffect_setXreg_advance _ _ _ s
  | _ => cases h

/-! ## Constants and addresses (R125 to R128) -/

/-- A signed field times a scale of 2^k, which loads and branches use too (R89, R95). -/
theorem ofInt_toInt_mul_two_pow {n : Nat} (off : BitVec n) (k : Nat) :
    BitVec.ofInt 64 (off.toInt * (2 ^ k : Nat)) = off.signExtend 64 <<< k := by
  rw [BitVec.ofInt_mul, BitVec.ofInt_natCast, BitVec.shiftLeft_eq_mul_twoPow]
  congr 1
  apply BitVec.eq_of_toNat_eq
  rw [BitVec.toNat_ofNat, BitVec.toNat_twoPow]

theorem State.eaOff_two_pow {n : Nat} (s : State) (b : Fin 32) (off : BitVec n) (k : Nat) :
    s.eaOff b off (2 ^ k) = s.reg b + off.signExtend 64 <<< k := by
  rw [State.eaOff, ofInt_toInt_mul_two_pow]

/-- LXH shifts the new half-word into bits that are clear, so that its addition is a union (R125). -/
theorem mul_65536_add_zeroExtend (x : Word) (imm : BitVec 16) :
    x * 65536 + imm.zeroExtend 64 = (x <<< 16) ||| imm.zeroExtend 64 := by
  have hshift : x * 65536 = x <<< 16 := (BitVec.shiftLeft_eq_mul_twoPow x 16).symm
  rw [hshift]
  apply BitVec.add_eq_or_of_and_eq_zero
  ext i hi
  by_cases h : i < 16
  · simp [h]
  · simp [BitVec.getLsbD_of_ge imm i (by omega)]

theorem toNat_and_low_mask (x : Word) (n : Nat) : x.toNat &&& (2 ^ n - 1) = bits x 0 n := by
  rw [Nat.and_two_pow_sub_one_eq_mod, bits, Nat.pow_zero, Nat.div_one]

/-- The fields of SADDR do not overlap, so that their sum is a union (R127). -/
theorem scratchAddr_eq_or (x y : Word) : scratchAddr x y =
    0x00F0000000000000 ||| ((x >>> 8) &&& 31) <<< 24 ||| (x &&& 31) <<< 19 ||| y &&& 0x7FFFF := by
  have hcluster : ((x >>> 8) &&& 31).toNat = bits x 8 5 := by
    rw [BitVec.toNat_and, BitVec.toNat_ushiftRight, Nat.shiftRight_eq_div_pow]
    exact Nat.and_two_pow_sub_one_eq_mod _ 5
  have hcore : (x &&& 31).toNat = bits x 0 5 := toNat_and_low_mask x 5
  have hoff : (y &&& 0x7FFFF).toNat = bits y 0 19 := toNat_and_low_mask y 19
  have hcl : bits x 8 5 < 2 ^ 5 := Nat.mod_lt _ (by decide)
  have hco : bits x 0 5 < 2 ^ 5 := Nat.mod_lt _ (by decide)
  have hof : bits y 0 19 < 2 ^ 19 := Nat.mod_lt _ (by decide)
  apply BitVec.eq_of_toNat_eq
  rw [BitVec.toNat_or, BitVec.toNat_or, BitVec.toNat_or, BitVec.toNat_shiftLeft, BitVec.toNat_shiftLeft, hcluster, hcore, hoff,
    Nat.shiftLeft_eq, Nat.shiftLeft_eq, Nat.mod_eq_of_lt (by omega), Nat.mod_eq_of_lt (by omega)]
  have hfirst : 0x00F0000000000000 ||| bits x 8 5 * 2 ^ 24 = 2 ^ 24 * (0xF0000000 + bits x 8 5) := by
    rw [← Nat.two_pow_add_eq_or_of_lt (i := 29) (by omega) 0x7800000]
    omega
  have hsecond : 2 ^ 24 * (0xF0000000 + bits x 8 5) ||| bits x 0 5 * 2 ^ 19 =
      2 ^ 19 * (32 * (0xF0000000 + bits x 8 5) + bits x 0 5) := by
    rw [← Nat.two_pow_add_eq_or_of_lt (by omega)]
    omega
  change _ = (0x00F0000000000000 ||| bits x 8 5 * 2 ^ 24) ||| bits x 0 5 * 2 ^ 19 ||| bits y 0 19
  rw [hfirst, hsecond, ← Nat.two_pow_add_eq_or_of_lt hof, scratchAddr, BitVec.toNat_ofNat]
  omega

/-- Settles O3: LXH and SADDR add where the rules unite, LEA scales where its rule shifts, and the others write their operand. -/
theorem scalarConstants : Obligations.ScalarConstants := by
  unfold Obligations.ScalarConstants
  intro d b n imm a c off sc s
  refine ⟨rfl, rfl, ?lxh, rfl, rfl, retOk_eq (scratchAddr_eq_or _ _) d s, retOk_eq (s.eaOff_two_pow b off sc.val) d s⟩
  case lxh =>
    rw [← mul_65536_add_zeroExtend]
    rfl

end Sys2Proof.Machine
end

section
/-! PROOF. Control instructions (R129 to R136): what a resolved branch and a mispredict leave of the thread, where branches and
jumps go, and how EXIT ends a thread. -/

namespace Sys2Proof.Machine

open Sys2Proof.Spec

/-! ## A kill at the commit head (R44) -/

/-- A kill touches neither the registers nor the newest values of vector registers and masks. -/
theorem keepsThread_killed {s t : State} (hs : t.me.s = s.me.killed.s) (hx : t.me.x = s.me.killed.x) (hv : t.me.v = s.me.killed.v)
    (hm : t.me.m = s.me.killed.m) (hflags : t.me.fpFlags = s.me.killed.fpFlags) (hjournal : t.me.journal = s.me.killed.journal) :
    KeepsThread none none s t := by
  refine ⟨fun r _ => ?_, fun n _ => ?_, fun r => ?_, fun r => ?_, hflags, hjournal⟩
  · rw [State.reg, Thread.getS, hs]
    rfl
  · rw [State.xreg, Thread.getX, hx]
    rfl
  · rw [hv]
    simp [Thread.killed, vmap]
  · rw [hm]
    simp [Thread.killed, vmap]

theorem State.countHy_me (s : State) (i : Fin 6) (n : Nat) : (s.countHy i n).me = s.me := by
  cases h : s.cur <;> simp [State.me, State.th, State.countHy, h]

theorem State.mispredict_me (s : State) : s.mispredict.me = { s.me.killed with run := s.me.run } := by
  rw [State.mispredict, State.countHy_me, State.setMe_me]

theorem keepsThread_mispredict (s : State) : KeepsThread none none s s.mispredict := by
  apply keepsThread_killed <;> rw [State.mispredict_me]

theorem State.sameMem_mispredict (s : State) : State.SameMem s s.mispredict :=
  (s.sameMem_setMe _).trans (State.sameMem_countHy _ 3 1)

/-! ## Branches outside a slaved group (R129, R130) -/

theorem keepsThread_resolve (taken hint : Bool) (dest fall : Word) (s : State) :
    KeepsThread none none s (resolve taken hint dest fall s) := by
  unfold resolve
  refine keepsThread_trans ?_ (keepsThread_goto _ _ _ _)
  split
  · exact keepsThread_mispredict s
  · exact keepsThread_refl _ _ s

theorem sameMem_resolve (taken hint : Bool) (dest fall : Word) (s : State) :
    State.SameMem s (resolve taken hint dest fall s) := by
  unfold resolve
  refine .trans ?_ (State.sameMem_goto _ _)
  split
  · exact s.sameMem_mispredict
  · exact .refl s

theorem resolve_pc (taken hint : Bool) (dest fall : Word) (s : State) :
    (resolve taken hint dest fall s).pc = if taken then dest else fall := State.goto_pc _ _

/-- Outside a slaved group a branch is resolved at once and forwards nothing. -/
theorem branch_alone {s : State} (hattached : s.attached = false) (hleads : s.leads = false) (split taken hint : Bool)
    (dest fall : Word) (eff : State → State) :
    branch split taken hint dest fall eff s = .next (resolve taken hint dest fall (eff s)) := by
  rw [branch, hattached, State.forward, hleads]
  rfl

theorem holds_iff_taken (c : Cond) (x y : Word) : holds c x y = true ↔ taken c x y := by
  cases c <;> exact decide_eq_true_iff

theorem State.target_eq {n : Nat} (s : State) (off : BitVec n) : s.target off = s.pc + off.signExtend 64 <<< 1 :=
  congrArg (s.pc + ·) (ofInt_toInt_mul_two_pow off 1)

/-- A conditional branch without an effect of its own. -/
theorem branch_on_condition {s : State} (hattached : s.attached = false) (hleads : s.leads = false) (split hint : Bool) (c : Cond)
    (x y dest fall : Word) (eff : State → State) (heff : eff s = s) :
    ∃ t, branch split (holds c x y) hint dest fall eff s = .next t ∧ KeepsThread none none s t ∧ SameMemory s t ∧
      (taken c x y → t.pc = dest) ∧ (¬ taken c x y → t.pc = fall) := by
  refine ⟨_, branch_alone hattached hleads _ _ _ _ _ _, ?_⟩
  rw [heff, resolve_pc]
  exact ⟨keepsThread_resolve _ _ _ _ s, (sameMem_resolve _ _ _ _ s).sameMemory, fun h => if_pos ((holds_iff_taken c x y).2 h),
    fun h => if_neg fun hc => h ((holds_iff_taken c x y).1 hc)⟩

/-- LOOP counts its register down and is hinted by the very condition it tests, so that it never mispredicts (R131). -/
theorem exec_loop_alone {s : State} (hattached : s.attached = false) (hleads : s.leads = false) (d : Fin 32) (off : BitVec 10) :
    exec (.loop d off) s = .next ((s.setReg d (s.reg d - 1)).goto
      (if s.reg d - 1 ≠ 0 then s.pc + off.signExtend 64 <<< 1 else s.pc + 4)) := by
  change branch false (decide (s.reg d - 1 ≠ 0)) (decide (s.reg d - 1 ≠ 0)) (s.target off) (s.pc + 4) (·.setReg d (s.reg d - 1)) s = _
  rw [branch_alone hattached hleads]
  simp [resolve, mispredicted, State.target_eq]

theorem branchesAndJumps : Spec.BranchesAndJumps := by
  intro c s1 s2 d h off far s hattached hleads
  rw [← s.target_eq off, ← s.target_eq far]
  refine ⟨branch_on_condition hattached hleads false h c _ _ _ _ id rfl,
    branch_on_condition hattached hleads true h c _ _ _ _ (fun t => if t.leads then t.followers 1024 else t) ?split,
    ⟨_, exec_loop_alone hattached hleads d off, ?keeps, ?memory, ?counter, ?again, ?done⟩, rfl, rfl, rfl⟩
  case split => simp only [hleads, Bool.false_eq_true, if_false]
  case keeps => exact keepsThread_trans (keepsThread_setReg d none _ s) (keepsThread_goto _ _ _ _)
  case memory => exact ((s.sameMem_setReg d _).trans (State.sameMem_goto _ _)).sameMemory
  case counter =>
    intro hd
    rw [State.reg_goto, State.reg_setReg, if_pos ⟨rfl, hd⟩]
  case again =>
    intro hne
    rw [State.goto_pc, if_pos hne, State.target_eq]
  case done =>
    intro hzero
    rw [State.goto_pc, if_neg fun hne => hne hzero]

/-! ## NOP, JOIN and EXIT (R135, R136) -/

theorem exec_join_alone {s : State} (hleads : s.leads = false) (hrole : s.cur = .pri → s.core.slave.role ≠ .detached) :
    exec .join s = .next (s.advance 4) := by
  change execJoin s = _
  rw [execJoin, if_neg fun h => hrole h.1 h.2, hleads]
  rfl

/-- EXIT looks at each entry of the journal. -/
theorem journal_any_iff (t : Thread) :
    (t.journal.toList.any fun e => decide (e.state ≠ .free)) = true ↔ ∃ j : Fin 16, t.journal[j].state ≠ .free := by
  simp only [List.any_eq_true, decide_eq_true_eq, List.mem_iff_getElem, Vector.length_toList, Vector.getElem_toList]
  constructor
  · rintro ⟨e, ⟨j, hj, rfl⟩, he⟩
    exact ⟨⟨j, hj⟩, he⟩
  · rintro ⟨j, hj⟩
    exact ⟨_, ⟨j.val, j.isLt, rfl⟩, hj⟩

/-- The state in which EXIT leaves its thread. -/
def State.exited (s : State) : State :=
  (s.setMe { s.me.killed with run := .ended, pc := s.pc + 4, lastTag := s.me.headTag }).countHy 3 1

theorem State.exited_me (s : State) :
    s.exited.me = { s.me.killed with run := .ended, pc := s.pc + 4, lastTag := s.me.headTag } := by
  rw [State.exited, State.countHy_me, State.setMe_me]

theorem State.sameMem_exited (s : State) : State.SameMem s s.exited :=
  (s.sameMem_setMe _).trans (State.sameMem_countHy _ 3 1)

theorem exec_exit_of_free {s : State} (h : ∀ j : Fin 16, s.me.journal[j].state = .free) : exec .exit s = .next s.exited :=
  if_neg fun hany => by
    obtain ⟨j, hj⟩ := (journal_any_iff s.me).1 hany
    exact hj (h j)

theorem exec_exit_of_posted {s : State} (h : ∃ j : Fin 16, s.me.journal[j].state ≠ .free) :
    exec .exit s = .next (parkThread ⟨32, false, 0, 0, 0⟩ s) :=
  if_pos ((journal_any_iff s.me).2 h)

theorem nopJoinExit : Spec.NopJoinExit := by
  intro s
  refine ⟨rfl, exec_join_alone, fun h => ⟨_, exec_exit_of_free h, ?run, ?window, ?keeps, s.sameMem_exited.sameMemory⟩,
    fun h => ⟨_, exec_exit_of_posted h, ?parkedRun, ?parkedPc, ?parkedWake⟩⟩
  case run => rw [State.exited_me]
  case window => rw [State.exited_me]; rfl
  case keeps => apply keepsThread_killed <;> rw [State.exited_me]
  case parkedRun => rw [parkThread, State.setMe_me]
  case parkedPc => rw [State.pc, parkThread, State.setMe_me]; rfl
  case parkedWake => rw [parkThread, State.setMe_me]; exact Nat.succ_ne_zero 31

/-- Settles O5: outside a slaved group a branch ends in `resolve`, whose mispredict keeps what the thread computed, and EXIT ends in
`State.exited` or waits. -/
theorem controlFlow : Obligations.ControlFlow := by
  unfold Obligations.ControlFlow
  exact ⟨branchesAndJumps, nopJoinExit⟩

end Sys2Proof.Machine
end
